-- ==== Sys2Proof/Word.lean ====
section
/-! DEFINITION. The word types of the device (R4, R8, R86). -/

namespace Sys2Proof

/-- W, the 14-bit word (R4). -/
abbrev W := BitVec 14

/-- DW, the 28-bit double word; a register, a syllable and a hopper word have the same width (R4, R16, R242). -/
abbrev DW := BitVec 28

/-- A 70-bit accumulator value (R86). -/
abbrev Acc := BitVec 70

/-- A byte of a Filken packet, an image, a MIDI stream or a flash chunk (R9). -/
abbrev Byte := BitVec 8

/-- A 32-bit container as the host writes and reads it (R7, R16). -/
abbrev Cont := BitVec 32

/-- The 48-bit frame and tick counters (R19, R23). -/
abbrev Count48 := BitVec 48

end Sys2Proof
end

