-- ==== Sys2Proof/Syntax.lean ====
section
/-! DEFINITION. The commands: one constructor per row of the table of operations and events. -/

namespace Sys2Proof

/-- A core as commands name it: 0 to 63 are the slots, 64 to 66 are CTRL0 to CTRL2 (R27, R28). -/
abbrev CoreId := Fin 67

/-- Who makes a register access (R10, R12, R23). -/
inductive Req where
  | host
  /-- control core k -/
  | ctrl (k : Fin 3)
  deriving DecidableEq, Repr

/-- What every syllable command carries beside its operands: the core that issues it, the STOP bit of R103, and
the instant in the frame, in units of T / 1,024 from B, at which its bundle is released. -/
structure Ctx where
  core : CoreId
  stop : Bool
  tick : BitVec 10
  deriving DecidableEq, Repr

/-- The count operand of LOOP (R109, R115): S = 0 holds count - 1 in 8 bits, S = 1 names Dn. -/
inductive LoopCount where
  | imm (c : BitVec 8)
  | reg (n : BitVec 5)
  deriving DecidableEq, Repr

/-- The count operand of REP (R109, R119): S = 0 holds count - 1 in 10 bits, S = 1 names Dn. -/
inductive RepCount where
  | imm (c : BitVec 10)
  | reg (n : BitVec 5)
  deriving DecidableEq, Repr

/-- A half register of D0 to D15 in H format: dh, ah and bh are 0 for .L and 1 for .H (R109). -/
structure Half where
  reg : BitVec 4
  hi : Bool
  deriving DecidableEq, Repr

/-- The operands of an LS syllable (R109): d, p, AM and X. -/
structure LsOps where
  d : BitVec 5
  p : BitVec 3
  am : BitVec 2
  x : BitVec 6
  deriving DecidableEq, Repr

/-- The operands of a MAC-format syllable (R109). `unit1` selects MAC1; MAC0 and MAC1 are identical (R143). -/
structure MacOps where
  unit1 : Bool
  acc : BitVec 2
  a : BitVec 5
  b : BitVec 5
  sub : Bool
  frac : Bool
  deriving DecidableEq, Repr

/-- What the read of a stored word finds (R192, R196). -/
inductive WordFind where
  | clean
  | corrected
  | uncorrectable
  deriving DecidableEq, Repr

/-- The blocks with a table store of their own: stream states, the region map, the port table, the replay store of the
host link (R292, R323, R353, R384). -/
inductive TableStore where
  | streams
  | map
  | ports
  | replay
  deriving DecidableEq, Repr

/-- A stored word that carries a code (R192, R257): a word of a memory bank; a register, by general number, or from
0x40 on a part of an accumulator; the k-th stored word of a hopper, or the descriptor of its k-th readable item; a word
of a table store. -/
inductive Storage where
  | word (addr : DW)
  | register (core : CoreId) (n : BitVec 7)
  | hopper (n : Fin 16) (k : BitVec 13)
  | descriptor (n : Fin 16) (k : BitVec 13)
  | table (t : TableStore)
  deriving DecidableEq, Repr

/-- A Filken packet: the 8 header bytes as one little-endian value (R358), the payload containers, and the two trailer
bytes that hold the end-to-end check (R360); and how often the Adapter retried until it had it (R368, R384). -/
structure Packet where
  hdr : BitVec 64
  payload : List Cont
  crc : BitVec 16
  retries : Nat
  deriving DecidableEq, Repr

/-- A codeword that the decoder accepts: the bit errors that it corrects, and the 2,048 bytes of the chunk. -/
structure Decoded where
  bits : Nat
  bytes : List Byte
  deriving DecidableEq, Repr

/-- What the reads of a chunk's codeword give (R283, R308), none where the decoder accepts nothing: hard decode, soft
decode with two further reads, and the read-retry options, of which `tries` are read; then the chunk as rebuilt from the
codewords of the other fifteen positions, none where one of them fails. `dieFirst` says that a rebuild which starts
beside the soft decode ends before it. -/
structure FlashRead where
  hard : Option Decoded
  soft : Option Decoded
  retry : Option Decoded
  tries : BitVec 4
  die : Option (List Byte)
  dieFirst : Bool
  deriving DecidableEq, Repr

/-- A job of flash management that a journal record can end: a host command by hopper and TAG, or a relocation of
a region (R313, R317). -/
inductive JobRef where
  | cmd (hop : Fin 4) (tag : Byte)
  | reloc (region : BitVec 16)
  deriving DecidableEq, Repr

/-- What happens at the LUNs (R297, R308, R311, R313, R315, R318). -/
inductive FlashDone where
  /-- a program or an erase starts on a LUN -/
  | start (lun : BitVec 7) (block : BitVec 14) (erase : Bool)
  | program (lun : BitVec 7) (block : BitVec 14) (ok : Bool)
  | erase (lun : BitVec 7) (block : BitVec 14) (ok : Bool)
  /-- the next chunk that a relocation or a refresh of a region reads -/
  | source (region : BitVec 16) (res : FlashRead)
  /-- the factory defect markers that a FLASH_FORMAT reads: the bad blocks, as LUN and block -/
  | markers (hop : Fin 4) (tag : Byte) (bad : List (BitVec 7 × BitVec 14))
  /-- the header page of the boot copy a BOOT_WRITE writes -/
  | bootHeader (hop : Fin 4) (tag : Byte) (ok : Bool)
  /-- the volume header a FLASH_FORMAT writes -/
  | volumeHeader (hop : Fin 4) (tag : Byte) (ok : Bool)
  /-- the next chunk of a FLASH_READ -/
  | chunk (hop : Fin 4) (tag : Byte) (res : FlashRead)
  deriving DecidableEq, Repr

/-- One entry of the region map (R307). -/
structure MapEntry where
  state : BitVec 3
  group : BitVec 3
  stripe : BitVec 14
  fmt : Byte
  chunks : BitVec 20
  deriving DecidableEq, Repr

/-- What a mount finds of one flash channel: chip enables in use, LUNs per target, and the parameter page fields
the device uses (R294, R296, R299, R300). `pageOk` is false where no copy has a valid CRC, `sdrOk` where timing mode 0
fails, and `alike` where the targets or the LUNs of the channel differ. `modes` lists the highest rate in MT/s that every
LUN declares for F-SDR, F-DDR-A, F-DDR-B and F-LP, 0 where the mode is not declared. -/
structure ChanReport where
  ceMask : BitVec 4
  lunsPerTarget : BitVec 5
  pageOk : Bool
  sdrOk : Bool
  alike : Bool
  planes : Nat
  pageBytes : Nat
  ppb : Nat
  blocks : Nat
  tR : Nat
  tProg : Nat
  tBers : Nat
  modes : List Nat
  trainOk : Bool
  deriving DecidableEq, Repr

/-- What the system area holds (R305 to R307, R313, R319, R320): both versions of the header, the newer valid map copy
and its number, the complete journal records after it, and the entry of an interrupted one; by block, as
LUN × 0x4000 + block, the program/erase and read counts and the bad blocks; the substitution tables, as
LUN × 0x4000 + stripe with the block; the retired stripes, as group × 0x4000 + stripe; by region, the hours since its last
patrol; and the boot copy with the highest sequence number, and its place. -/
structure Volume where
  format : Byte
  minRead : Byte
  mapOk : Bool
  map : List (Nat × MapEntry)
  copy : Fin 2
  journal : List (Nat × MapEntry)
  torn : Option MapEntry
  pe : List (Nat × Nat)
  reads : List (Nat × Nat)
  bad : List Nat
  subst : List (Nat × Nat)
  retired : List Nat
  ages : List (Nat × Nat)
  bootSeq : DW
  bootCopy : Fin 2
  deriving DecidableEq, Repr

/-- What a mount finds on the volume (R299, R307, R320). -/
inductive VolReport where
  | blank
  | unreadable (format : Byte)
  | volume (v : Volume)
  deriving DecidableEq, Repr

/-- A health record as read from stripes 4 and 5 (R443): its fields by name, since the manual gives no offsets. -/
structure HealthRec where
  magic : BitVec 32
  format : BitVec 16
  seq : DW
  chipId : BitVec 64
  crcOk : Bool
  cores : List DW
  slotmap : List DW
  ctrl : DW
  hours : DW
  tjSum : Int
  tjSecs : Nat
  headMin : List (BitVec 7)
  headDays : List (List (BitVec 7))
  flareTotal : List (BitVec 16)
  deriving DecidableEq, Repr

/-- The report a mount ends with. -/
structure MountReport where
  chans : List ChanReport
  vol : VolReport
  health : List HealthRec
  deriving DecidableEq, Repr

/-- A boot copy as read from stripe 0 or 1 (R319): header fields by name. -/
structure BootCopy where
  magic : BitVec 32
  version : BitVec 16
  seq : DW
  crcOk : Bool
  image : List Byte
  table : List DW
  patch : List Byte
  deriving DecidableEq, Repr

/-- The fuses as sensed at start-up and BOOTSEL as sampled at the end of sensing (R424, R450). -/
structure FuseSense where
  chipId : BitVec 64
  keyHash : BitVec 256
  floor : BitVec 32
  sealed3 : BitVec 3
  bootsel : BitVec 2
  deriving DecidableEq, Repr

/-- A byte at a MIDI receiver, with its framing check (R345, R346). -/
structure MidiByte where
  val : Byte
  framingOk : Bool
  deriving DecidableEq, Repr

/-- One sample period at a channel of an input lane (R328 to R333, R344): the words that arrived in it, which is one, or
none or two where the source's clock runs off the frame clock; whether the channel status that a word completes has its
CRC; and whether the receiver finds preambles or sync symbols, a rate within 1,000 ppm of Fp, and how many channels. -/
structure RxSample where
  words : List Cont
  statusCrcOk : Bool
  locked : Bool
  rateOk : Bool
  madiCh : BitVec 7
  deriving DecidableEq, Repr

/-- An I/O rail (R473, R476). -/
inductive Rail where
  | lane (g : Fin 8)
  | flash (p : Fin 4)
  deriving DecidableEq, Repr

/-- What the core would issue next when an interrupt is offered: the words of its bundle, of which the last is poisoned
where that is so (R208). -/
structure NextBundle where
  core : CoreId
  words : List DW
  poisoned : Bool
  deriving DecidableEq, Repr

/-- The bits that a fault inverts in one word of a bundle's primary outputs (R171). -/
structure BusFault where
  word : Nat
  mask : Nat
  deriving DecidableEq, Repr

/-- A chunk that was read for a stream: into its ring, or again for its head (R280, R284). -/
structure ChunkRead where
  head : Bool
  read : FlashRead
  deriving DecidableEq, Repr

/-- A chunk of a region that a patrol read (R313). -/
structure PatrolRead where
  chunk : BitVec 20
  read : FlashRead
  deriving DecidableEq, Repr

/-- The commands of the device, one constructor per row of the table. -/
inductive Instr where
  -- CTL unit (R131)
  | nop (x : Ctx)
  | br (x : Ctx) (cond : BitVec 4) (disp : BitVec 12)
  | jr (x : Ctx) (cond : BitVec 4) (p : BitVec 3)
  | call (x : Ctx) (disp : BitVec 12)
  | callr (x : Ctx) (p : BitVec 3)
  | ret (x : Ctx)
  | retx (x : Ctx)
  | loop (x : Ctx) (count : LoopCount) (endd : BitVec 7)
  | wait (x : Ctx)
  | barrier (x : Ctx) (b : BitVec 11)
  | svc (x : Ctx) (n : BitVec 11)
  | brk (x : Ctx) (n : BitVec 11)
  | iflush (x : Ctx)
  | mov (x : Ctx) (dst src : BitVec 6)
  | sys (x : Ctx) (d : BitVec 5) (num : BitVec 6) (dir : Bool)
  -- ALU unit, DW register forms (R136)
  | add (x : Ctx) (d a b : BitVec 5)
  | adc (x : Ctx) (d a b : BitVec 5)
  | sub (x : Ctx) (d a b : BitVec 5)
  | sbc (x : Ctx) (d a b : BitVec 5)
  | adds (x : Ctx) (d a b : BitVec 5)
  | subs (x : Ctx) (d a b : BitVec 5)
  | and (x : Ctx) (d a b : BitVec 5)
  | or (x : Ctx) (d a b : BitVec 5)
  | xor (x : Ctx) (d a b : BitVec 5)
  | andn (x : Ctx) (d a b : BitVec 5)
  | cmp (x : Ctx) (a b : BitVec 5)
  | tst (x : Ctx) (a b : BitVec 5)
  | min (x : Ctx) (d a b : BitVec 5)
  | max (x : Ctx) (d a b : BitVec 5)
  | neg (x : Ctx) (d a : BitVec 5)
  | negs (x : Ctx) (d a : BitVec 5)
  | abs (x : Ctx) (d a : BitVec 5)
  | abss (x : Ctx) (d a : BitVec 5)
  | not (x : Ctx) (d a : BitVec 5)
  | norm (x : Ctx) (d a : BitVec 5)
  | sxw (x : Ctx) (d a : BitVec 5)
  | pack (x : Ctx) (d a b : BitVec 5)
  | lsl (x : Ctx) (d a b : BitVec 5)
  | lsr (x : Ctx) (d a b : BitVec 5)
  | asr (x : Ctx) (d a b : BitVec 5)
  | ror (x : Ctx) (d a b : BitVec 5)
  | rol (x : Ctx) (d a b : BitVec 5)
  | div (x : Ctx) (d a b : BitVec 5)
  -- ALU unit, immediate forms (R137)
  | addi (x : Ctx) (d a : BitVec 5) (imm : BitVec 6)
  | cmpi (x : Ctx) (a : BitVec 5) (imm : BitVec 6)
  | lsli (x : Ctx) (d a : BitVec 5) (imm : BitVec 6)
  | lsri (x : Ctx) (d a : BitVec 5) (imm : BitVec 6)
  | asri (x : Ctx) (d a : BitVec 5) (imm : BitVec 6)
  | rori (x : Ctx) (d a : BitVec 5) (imm : BitVec 6)
  | roli (x : Ctx) (d a : BitVec 5) (imm : BitVec 6)
  | movi (x : Ctx) (d : BitVec 5) (imm : BitVec 11)
  | movh (x : Ctx) (d : BitVec 5) (imm : BitVec 11)
  | movm (x : Ctx) (d : BitVec 5) (imm : BitVec 11)
  | movl (x : Ctx) (d : BitVec 5) (imm : BitVec 6)
  -- ALU unit, W forms (R138)
  | addw (x : Ctx) (d a b : Half)
  | subw (x : Ctx) (d a b : Half)
  | addsw (x : Ctx) (d a b : Half)
  | subsw (x : Ctx) (d a b : Half)
  | cmpw (x : Ctx) (a b : Half)
  | negw (x : Ctx) (d a : Half)
  | negsw (x : Ctx) (d a : Half)
  | absw (x : Ctx) (d a : Half)
  | abssw (x : Ctx) (d a : Half)
  | minw (x : Ctx) (d a b : Half)
  | maxw (x : Ctx) (d a b : Half)
  | lslw (x : Ctx) (d a b : Half)
  | lsrw (x : Ctx) (d a b : Half)
  | asrw (x : Ctx) (d a b : Half)
  | rorw (x : Ctx) (d a b : Half)
  | movw (x : Ctx) (d a : Half)
  -- MAC units (R143)
  | mac (x : Ctx) (o : MacOps)
  | mpy (x : Ctx) (o : MacOps)
  | macw (x : Ctx) (o : MacOps)
  | mpyw (x : Ctx) (o : MacOps)
  | ext (x : Ctx) (unit1 : Bool) (d : BitVec 5) (acc : BitVec 2) (shift : BitVec 6) (sat rnd : Bool)
  | extw (x : Ctx) (unit1 : Bool) (d : BitVec 5) (acc : BitVec 2) (shift : BitVec 6) (sat rnd : Bool)
  | clra (x : Ctx) (unit1 : Bool) (acc : BitVec 2)
  | lda (x : Ctx) (unit1 : Bool) (d : BitVec 5) (acc : BitVec 2) (shift : BitVec 6)
  -- LS unit (R146)
  | ldw (x : Ctx) (o : LsOps)
  | ldwl (x : Ctx) (o : LsOps)
  | ld (x : Ctx) (o : LsOps)
  | ldp (x : Ctx) (o : LsOps)
  | ldwh (x : Ctx) (o : LsOps)
  | stw (x : Ctx) (o : LsOps)
  | stwh (x : Ctx) (o : LsOps)
  | st (x : Ctx) (o : LsOps)
  | stp (x : Ctx) (o : LsOps)
  | pmod (x : Ctx) (p : BitVec 3) (am : BitVec 2) (m : BitVec 3)
  -- PFX unit (R148); `cut` is the number of further iterations or elements after which an accepted interrupt
  -- stops the instruction (R122, R123), none where no interrupt is accepted during it
  | rep (x : Ctx) (count : RepCount) (cut : Option Nat)
  | blkmac (x : Ctx) (n : BitVec 5) (fa fb : BitVec 3) (acc : BitVec 2) (frac circ width : Bool) (cut : Option Nat)
  | blkmov (x : Ctx) (n : BitVec 5) (fa fb : BitVec 3) (circ width : Bool) (cut : Option Nat)
  | blkfill (x : Ctx) (n : BitVec 5) (fa fb : BitVec 3) (circ width : Bool) (cut : Option Nat)
  | blkmax (x : Ctx) (n : BitVec 5) (fa fb : BitVec 3) (abs circ width : Bool) (cut : Option Nat)
  -- core, fault and frame events
  | interruptEntry (next : NextBundle)
  -- bundle `nth` of those in the core's damper, counted from the oldest
  | mismatchReissue (core : CoreId) (nth : Nat) (fault : BusFault)
  | spareReady (h : Fin 16)
  | stall (core : CoreId)
  | watchPoint
  | finishCeiling
  | barrierComplete (b : BitVec 3)
  | frameBoundary
  | tempoRegulation
  | slotException (slot : Fin 64)
  | ctrlTakeover
  | spareSelfcheck
  | scrub (place : Storage) (found : WordFind)
  -- event router
  -- `more` pulses follow before an acknowledge returns (R418)
  | sourceFire (target : BitVec 7) (source : BitVec 10) (more : BitVec 4)
  | moderationExpiry (target : BitVec 7)
  | timerFire (slot : Fin 64) (tick : BitVec 10)
  | eoi (slot : Fin 64)
  | clr (slot : Fin 64) (n : BitVec 10)
  | timerWrite (slot : Fin 64) (v : BitVec 7) (tick : BitVec 10)
  | doorbell (slot : Fin 64) (t : BitVec 7)
  | setPend (v : DW)
  | clrPend (v : DW)
  -- hoppers
  | pop (core : CoreId) (hop : Fin 16) (d : BitVec 5)
  | peek (core : CoreId) (hop : Fin 16) (d : BitVec 5)
  | push (core : CoreId) (hop : Fin 16) (v : DW)
  | mark (core : CoreId) (hop : Fin 16)
  | rewind (core : CoreId) (hop : Fin 16)
  | release (core : CoreId) (hop : Fin 16)
  | drop (core : CoreId) (hop : Fin 16)
  | flush (hop : Fin 16)
  -- streams
  | streamStart (slot : Fin 64) (d : BitVec 5)
  | streamStop (slot : Fin 64) (entry : BitVec 14)
  | streamNeed (slot : Fin 64) (entry : BitVec 14) (q : DW)
  | notice (slot : Fin 64) (d : BitVec 5)
  -- q is the chunk's number in the stream, or in the head that is read again
  | chunkWrite (entry : BitVec 14) (q : DW) (res : ChunkRead) (us : Nat)
  | chunkLate (entry : BitVec 14) (q : DW)
  | pin
  | pinDone (heads : List (List FlashRead))
  | unpin
  | kill (v : DW)
  -- flash management and host commands, taken from a command hopper
  | flashMount (hop : Fin 4)
  | mountDone (r : MountReport)
  | flashFormat (hop : Fin 4)
  | libWrite (hop : Fin 4)
  | regionErase (hop : Fin 4)
  | flashRead (hop : Fin 4)
  | mapRead (hop : Fin 4)
  | bootWrite (hop : Fin 4)
  | journalCommit (job : JobRef)
  | mapCopyRewrite
  | lunUnreadable (lun : BitVec 7)
  | flashTimeout (lun : BitVec 7)
  | flashOpDone (what : FlashDone)
  | relocate (region : BitVec 16) (group : BitVec 3) (stripe : BitVec 14)
  | patrol (region : BitVec 16) (res : PatrolRead)
  | refresh (region : BitVec 16) (group : BitVec 3) (stripe : BitVec 14)
  | wearLevel (group : BitVec 3)
  | imageLoad (hop : Fin 4)
  | imageCheckDone
  | bulkWrite (hop : Fin 4)
  | bulkRead (hop : Fin 4)
  | nopCommand (hop : Fin 4)
  | abort (hop : Fin 4)
  | patchLoad (hop : Fin 4)
  | patchStandbyReady
  | commit (v : DW)
  | imageAbort
  -- lanes, audio PLL, port table and MIDI
  | laneSampleRx (lane : Fin 64) (chan : BitVec 6) (pos : BitVec 7) (r : RxSample)
  | laneSampleTx (lane : Fin 64) (chan : BitVec 6) (pos : BitVec 7)
  | pllLock
  | refLost
  | realigned
  | ptWrite (v : DW)
  | midiRxMessage (u : Fin 2) (bytes : List MidiByte) (sub : BitVec 6)
  | asTimeout (u : Fin 2)
  | txData (u : Fin 2) (v : DW)
  | midiTxForward (u : Fin 2)
  | midiTxByte (u : Fin 2)
  | midiAonRx (u : Fin 2) (b : MidiByte)
  -- host link and attention
  | regrd (p : Packet)
  | regwr (p : Packet)
  | memrd (p : Packet)
  | memwr (p : Packet)
  | pushPacket (p : Packet)
  | cpl (p : Packet)
  | nak (p : Packet) (late : Bool)
  | cplTimeout (tag : BitVec 10)
  | linkTraining (hostRates : BitVec 6) (x16 lo hi : Bool)
  | linkUp
  | linkDown
  | linkPowerRequest (l2 : Bool)
  | attnHoldExpiry
  -- power
  | go (v : DW)
  | powerAbort
  | entryStageEnd
  | drainTimeout
  | wake (sources : BitVec 13) (levels : BitVec 13)
  | tickCompare
  | tickCmpLo (v : DW)
  | domainOn (d : BitVec 7) (vio : BitVec 2)
  | bankInit (v : DW)
  | bankInitDone
  | padRelease (v : DW)
  -- clocks, crossings, reset, start-up
  | clocksCfg (v : DW)
  | refSelect (v : DW) (rateOk : Bool)
  | xtalOk
  | xtalFail
  | pilotStop
  | pulseAck (source : BitVec 10)
  | srst (page : BitVec 12)
  | srstDone (page : BitVec 12)
  | porst (rise : Bool)
  | sysrst (rise : Bool)
  | trst
  | fuseSenseDone (f : FuseSense)
  | flashBoot (copies : List BootCopy)
  | bootReady (health : List HealthRec)
  -- service life, fuses, debug
  | tempSample (temps : List Int)
  | hourRollover
  | dayRollover
  | healthRecordWrite (ok : Bool)
  | sealCmd (v : DW) (within1ms : Bool)
  | fuseBlowDone (ok : Bool)
  | extest
  | idcode
  | samplePreload
  | clamp
  | highz
  | dbgAddr (v : BitVec 12)
  | dbgData (v : DW)
  | dbgCtrl (v : BitVec 2)
  | bypass
  | halt
  | step
  | resume
  | rdata (write : Option DW)
  | mdata (write : Option DW)
  -- pages and counters
  | armStage (page : BitVec 12)
  | discard (page : BitVec 12)
  | stagedWrite (req : Req) (page : BitVec 12) (off : BitVec 12) (v : DW)
  | rcRead (req : Req) (page : BitVec 12) (off : BitVec 12)
  | counterLowRead (req : Req) (page : BitVec 12) (off : BitVec 12)
  | registerWrite (req : Req) (page : BitVec 12) (off : BitVec 12) (v : DW)
  | reservedInstruction (core : CoreId) (words : List DW) (poisoned : Bool)
  | selfcheckDone (persistent : Bool)
  | glockChange (g : Fin 8) (present : Bool) (phase : Byte)
  | laneLockLoss (lane : Fin 64)
  | ioRailLoss (r : Rail)
  | ioRailReturn (r : Rail)
  -- without operands
  | standbyReady
  | ctrlRoleResumed
  | wrongRate
  | aonTick
  deriving DecidableEq, Repr

end Sys2Proof
end

