-- ==== Sys2Proof/WellFormed.lean ====
section
/-! DEFINITION. Which commands are well formed: the operand rules that R107 order 3 checks on a syllable, and the
ranges of the operands of the other rows. -/

namespace Sys2Proof

/-- What a syllable command carries beside its operands; none for a command that is no syllable. -/
def Instr.ctx? : Instr → Option Ctx
  | .nop x => some x
  | .br x _ _ => some x
  | .jr x _ _ => some x
  | .call x _ => some x
  | .callr x _ => some x
  | .ret x => some x
  | .retx x => some x
  | .loop x _ _ => some x
  | .wait x => some x
  | .barrier x _ => some x
  | .svc x _ => some x
  | .brk x _ => some x
  | .iflush x => some x
  | .mov x _ _ => some x
  | .sys x _ _ _ => some x
  | .add x _ _ _ => some x
  | .adc x _ _ _ => some x
  | .sub x _ _ _ => some x
  | .sbc x _ _ _ => some x
  | .adds x _ _ _ => some x
  | .subs x _ _ _ => some x
  | .and x _ _ _ => some x
  | .or x _ _ _ => some x
  | .xor x _ _ _ => some x
  | .andn x _ _ _ => some x
  | .cmp x _ _ => some x
  | .tst x _ _ => some x
  | .min x _ _ _ => some x
  | .max x _ _ _ => some x
  | .neg x _ _ => some x
  | .negs x _ _ => some x
  | .abs x _ _ => some x
  | .abss x _ _ => some x
  | .not x _ _ => some x
  | .norm x _ _ => some x
  | .sxw x _ _ => some x
  | .pack x _ _ _ => some x
  | .lsl x _ _ _ => some x
  | .lsr x _ _ _ => some x
  | .asr x _ _ _ => some x
  | .ror x _ _ _ => some x
  | .rol x _ _ _ => some x
  | .div x _ _ _ => some x
  | .addi x _ _ _ => some x
  | .cmpi x _ _ => some x
  | .lsli x _ _ _ => some x
  | .lsri x _ _ _ => some x
  | .asri x _ _ _ => some x
  | .rori x _ _ _ => some x
  | .roli x _ _ _ => some x
  | .movi x _ _ => some x
  | .movh x _ _ => some x
  | .movm x _ _ => some x
  | .movl x _ _ => some x
  | .addw x _ _ _ => some x
  | .subw x _ _ _ => some x
  | .addsw x _ _ _ => some x
  | .subsw x _ _ _ => some x
  | .cmpw x _ _ => some x
  | .negw x _ _ => some x
  | .negsw x _ _ => some x
  | .absw x _ _ => some x
  | .abssw x _ _ => some x
  | .minw x _ _ _ => some x
  | .maxw x _ _ _ => some x
  | .lslw x _ _ _ => some x
  | .lsrw x _ _ _ => some x
  | .asrw x _ _ _ => some x
  | .rorw x _ _ _ => some x
  | .movw x _ _ => some x
  | .mac x _ => some x
  | .mpy x _ => some x
  | .macw x _ => some x
  | .mpyw x _ => some x
  | .ext x _ _ _ _ _ _ => some x
  | .extw x _ _ _ _ _ _ => some x
  | .clra x _ _ => some x
  | .lda x _ _ _ _ => some x
  | .ldw x _ => some x
  | .ldwl x _ => some x
  | .ld x _ => some x
  | .ldp x _ => some x
  | .ldwh x _ => some x
  | .stw x _ => some x
  | .stwh x _ => some x
  | .st x _ => some x
  | .stp x _ => some x
  | .pmod x _ _ _ => some x
  | .rep x _ _ => some x
  | .blkmac x _ _ _ _ _ _ _ _ => some x
  | .blkmov x _ _ _ _ _ _ => some x
  | .blkfill x _ _ _ _ _ _ => some x
  | .blkmax x _ _ _ _ _ _ _ => some x
  | _ => none

/-- System numbers that R90 lists. -/
def sysListed (n : BitVec 6) : Bool :=
  n.toNat ≤ 0x05 || (0x08 ≤ n.toNat && n.toNat ≤ 0x0B) || (0x10 ≤ n.toNat && n.toNat ≤ 0x14)
    || (0x20 ≤ n.toNat && n.toNat ≤ 0x2B)

/-- LS format: for AM other than 0b00, X[5:3] is 0 (R109). -/
def lsOk (o : LsOps) : Bool := o.am == 0 || o.x.toNat < 8

/-- A two-DW form names an even d (R109, R146). -/
def pairOk (o : LsOps) : Bool := lsOk o && o.d.toNat % 2 == 0

/-- The operand rules of R107 order 3 that the operands' widths leave open: an assigned condition code (R110), a
listed system number (R90), an even d in DIV, LDP and STP (R141, R146), X[5:3] of LS format, AM of PMOD (R146). -/
def syllOk : Instr → Bool
  | .br _ c _ => c != 0xF
  | .jr _ c _ => c != 0xF
  | .sys _ _ n _ => sysListed n
  | .div _ d _ _ => d.toNat % 2 == 0
  | .ldw _ o => lsOk o
  | .ldwl _ o => lsOk o
  | .ld _ o => lsOk o
  | .ldp _ o => pairOk o
  | .ldwh _ o => lsOk o
  | .stw _ o => lsOk o
  | .stwh _ o => lsOk o
  | .st _ o => lsOk o
  | .stp _ o => pairOk o
  | .pmod _ _ am _ => am == 1 || am == 2
  | _ => true

/-- A page number that a register page has room for (R466). -/
def offOk (off : BitVec 12) : Bool := off.toNat % 4 == 0

/-- A command is well formed: a syllable obeys `syllOk`; a core, fault or debug event names what exists; a register
access names a whole container. A command that is not well formed still has its meaning (a syllable then raises
exception 0x01). -/
def Instr.wf (i : Instr) : Bool :=
  match i with
  | .barrierComplete b => b != 0
  | .sourceFire t s _ => t.toNat < 66 && s.toNat < 544
  | .moderationExpiry t => t.toNat < 64
  | .domainOn d _ => d.toNat < 68
  | .scrub (.word a) _ => a.toNat % 2 == 0
  | .scrub (.register _ n) _ => n.toNat < 0x4C
  | .scrub _ _ => true
  | .stagedWrite _ _ o _ => offOk o
  | .rcRead _ _ o => offOk o
  | .counterLowRead _ _ o => offOk o
  | .registerWrite _ _ o _ => offOk o
  | .dbgAddr o => offOk o
  | .linkTraining _ x16 lo hi => x16 || lo || hi
  | .wake s _ => s != 0
  | .reservedInstruction _ ws _ => !ws.isEmpty && ws.length ≤ 5
  | i => syllOk i

end Sys2Proof
end

