-- ==== Sys2Proof/Decode.lean ====
section
/-! DEFINITION. The encoding of syllables (R103, R104, R109, R126), their decoder, and the words of the table.
No row of the table gives its command a word, so `decodeTableWord` reads none. -/

namespace Sys2Proof

/-- A syllable's 28 bits from its STOP bit, UNIT, OP and operand field (R103). -/
def packSyll (stop : Bool) (unit : BitVec 3) (op : BitVec 8) (opr : BitVec 16) : DW :=
  BitVec.ofBool stop ++ unit ++ op ++ opr

/-- RRR format (R109). -/
def fmtRRR (d a b : BitVec 5) : BitVec 16 := d ++ a ++ b ++ (0 : BitVec 1)

/-- RRI format (R109). -/
def fmtRRI (d a : BitVec 5) (imm : BitVec 6) : BitVec 16 := d ++ a ++ imm

/-- RI format (R109). -/
def fmtRI (d : BitVec 5) (imm : BitVec 11) : BitVec 16 := d ++ imm

/-- H format (R109). -/
def fmtH (d a b : Half) : BitVec 16 :=
  d.reg ++ BitVec.ofBool d.hi ++ a.reg ++ BitVec.ofBool a.hi ++ b.reg ++ BitVec.ofBool b.hi ++ (0 : BitVec 1)

/-- MAC format (R109). -/
def fmtMac (o : MacOps) : BitVec 16 :=
  o.acc ++ o.a ++ o.b ++ BitVec.ofBool o.sub ++ BitVec.ofBool o.frac ++ (0 : BitVec 2)

/-- ACC format (R109). -/
def fmtAcc (d : BitVec 5) (acc : BitVec 2) (shift : BitVec 6) (sat rnd : Bool) : BitVec 16 :=
  d ++ acc ++ shift ++ BitVec.ofBool sat ++ BitVec.ofBool rnd ++ (0 : BitVec 1)

/-- LS format (R109). -/
def fmtLs (o : LsOps) : BitVec 16 := o.d ++ o.p ++ o.am ++ o.x

/-- GG format (R109). -/
def fmtGG (dst src : BitVec 6) : BitVec 16 := dst ++ src ++ (0 : BitVec 4)

/-- SYS format (R109). -/
def fmtSys (d : BitVec 5) (num : BitVec 6) (dir : Bool) : BitVec 16 :=
  d ++ num ++ BitVec.ofBool dir ++ (0 : BitVec 4)

/-- BR format (R109). -/
def fmtBr (cond : BitVec 4) (disp : BitVec 12) : BitVec 16 := cond ++ disp

/-- JR format (R109). -/
def fmtJr (cond : BitVec 4) (p : BitVec 3) : BitVec 16 := cond ++ (0 : BitVec 1) ++ p ++ (0 : BitVec 8)

/-- LOOP format (R109). -/
def fmtLoop : LoopCount → BitVec 7 → BitVec 16
  | .imm c, e => (0 : BitVec 1) ++ c ++ e
  | .reg n, e => (1 : BitVec 1) ++ (0 : BitVec 3) ++ n ++ e

/-- REP format (R109). -/
def fmtRep : RepCount → BitVec 16
  | .imm c => (0 : BitVec 6) ++ c
  | .reg n => (1 : BitVec 1) ++ (0 : BitVec 10) ++ n

/-- BLK format (R109). -/
def fmtBlk (n : BitVec 5) (fa fb : BitVec 3) (acc : BitVec 2) (fracAbs circ width : Bool) : BitVec 16 :=
  n ++ fa ++ fb ++ acc ++ BitVec.ofBool fracAbs ++ BitVec.ofBool circ ++ BitVec.ofBool width

/-- The half that an unused H operand names. -/
def halfZero : Half := ⟨0, false⟩

/-- UNIT 0b010 or 0b011 (R104). -/
def macUnit (unit1 : Bool) : BitVec 3 := if unit1 then 3 else 2

/-- The UNIT, OP and operand field of a syllable command; none for a command that is no syllable (R126, R131,
R136 to R138, R143, R146, R148). -/
def syllFields : Instr → Option (BitVec 3 × BitVec 8 × BitVec 16)
  | .nop _ => some (0, 0x00, 0)
  | .br _ c d => some (0, 0x01, fmtBr c d)
  | .jr _ c p => some (0, 0x02, fmtJr c p)
  | .call _ d => some (0, 0x03, fmtBr 0 d)
  | .callr _ p => some (0, 0x04, fmtJr 0 p)
  | .ret _ => some (0, 0x05, 0)
  | .retx _ => some (0, 0x06, 0)
  | .loop _ c e => some (0, 0x07, fmtLoop c e)
  | .wait _ => some (0, 0x08, 0)
  | .barrier _ b => some (0, 0x09, fmtRI 0 b)
  | .svc _ n => some (0, 0x0A, fmtRI 0 n)
  | .brk _ n => some (0, 0x0B, fmtRI 0 n)
  | .iflush _ => some (0, 0x0C, 0)
  | .mov _ d s => some (0, 0x10, fmtGG d s)
  | .sys _ d n dir => some (0, 0x11, fmtSys d n dir)
  | .add _ d a b => some (1, 0x00, fmtRRR d a b)
  | .adc _ d a b => some (1, 0x01, fmtRRR d a b)
  | .sub _ d a b => some (1, 0x02, fmtRRR d a b)
  | .sbc _ d a b => some (1, 0x03, fmtRRR d a b)
  | .adds _ d a b => some (1, 0x04, fmtRRR d a b)
  | .subs _ d a b => some (1, 0x05, fmtRRR d a b)
  | .and _ d a b => some (1, 0x06, fmtRRR d a b)
  | .or _ d a b => some (1, 0x07, fmtRRR d a b)
  | .xor _ d a b => some (1, 0x08, fmtRRR d a b)
  | .andn _ d a b => some (1, 0x09, fmtRRR d a b)
  | .min _ d a b => some (1, 0x0C, fmtRRR d a b)
  | .max _ d a b => some (1, 0x0D, fmtRRR d a b)
  | .pack _ d a b => some (1, 0x15, fmtRRR d a b)
  | .lsl _ d a b => some (1, 0x18, fmtRRR d a b)
  | .lsr _ d a b => some (1, 0x19, fmtRRR d a b)
  | .asr _ d a b => some (1, 0x1A, fmtRRR d a b)
  | .ror _ d a b => some (1, 0x1B, fmtRRR d a b)
  | .rol _ d a b => some (1, 0x1C, fmtRRR d a b)
  | .div _ d a b => some (1, 0x50, fmtRRR d a b)
  | .cmp _ a b => some (1, 0x0A, fmtRRR 0 a b)
  | .tst _ a b => some (1, 0x0B, fmtRRR 0 a b)
  | .neg _ d a => some (1, 0x0E, fmtRRR d a 0)
  | .negs _ d a => some (1, 0x0F, fmtRRR d a 0)
  | .abs _ d a => some (1, 0x10, fmtRRR d a 0)
  | .abss _ d a => some (1, 0x11, fmtRRR d a 0)
  | .not _ d a => some (1, 0x12, fmtRRR d a 0)
  | .norm _ d a => some (1, 0x13, fmtRRR d a 0)
  | .sxw _ d a => some (1, 0x14, fmtRRR d a 0)
  | .addi _ d a n => some (1, 0x20, fmtRRI d a n)
  | .lsli _ d a n => some (1, 0x24, fmtRRI d a n)
  | .lsri _ d a n => some (1, 0x25, fmtRRI d a n)
  | .asri _ d a n => some (1, 0x26, fmtRRI d a n)
  | .rori _ d a n => some (1, 0x27, fmtRRI d a n)
  | .roli _ d a n => some (1, 0x28, fmtRRI d a n)
  | .cmpi _ a n => some (1, 0x21, fmtRRI 0 a n)
  | .movi _ d n => some (1, 0x30, fmtRI d n)
  | .movh _ d n => some (1, 0x31, fmtRI d n)
  | .movm _ d n => some (1, 0x32, fmtRI d n)
  | .movl _ d n => some (1, 0x33, fmtRI d (n.setWidth 11))
  | .addw _ d a b => some (1, 0x40, fmtH d a b)
  | .subw _ d a b => some (1, 0x41, fmtH d a b)
  | .addsw _ d a b => some (1, 0x42, fmtH d a b)
  | .subsw _ d a b => some (1, 0x43, fmtH d a b)
  | .minw _ d a b => some (1, 0x49, fmtH d a b)
  | .maxw _ d a b => some (1, 0x4A, fmtH d a b)
  | .lslw _ d a b => some (1, 0x4B, fmtH d a b)
  | .lsrw _ d a b => some (1, 0x4C, fmtH d a b)
  | .asrw _ d a b => some (1, 0x4D, fmtH d a b)
  | .rorw _ d a b => some (1, 0x4E, fmtH d a b)
  | .cmpw _ a b => some (1, 0x44, fmtH halfZero a b)
  | .negw _ d a => some (1, 0x45, fmtH d a halfZero)
  | .negsw _ d a => some (1, 0x46, fmtH d a halfZero)
  | .absw _ d a => some (1, 0x47, fmtH d a halfZero)
  | .abssw _ d a => some (1, 0x48, fmtH d a halfZero)
  | .movw _ d a => some (1, 0x4F, fmtH d a halfZero)
  | .mac _ o => some (macUnit o.unit1, 0x01, fmtMac o)
  | .mpy _ o => some (macUnit o.unit1, 0x02, fmtMac o)
  | .macw _ o => some (macUnit o.unit1, 0x03, fmtMac o)
  | .mpyw _ o => some (macUnit o.unit1, 0x04, fmtMac o)
  | .ext _ u d c n s r => some (macUnit u, 0x10, fmtAcc d c n s r)
  | .extw _ u d c n s r => some (macUnit u, 0x11, fmtAcc d c n s r)
  | .clra _ u c => some (macUnit u, 0x20, fmtAcc 0 c 0 false false)
  | .lda _ u d c n => some (macUnit u, 0x21, fmtAcc d c n false false)
  | .ldw _ o => some (4, 0x00, fmtLs o)
  | .ldwl _ o => some (4, 0x01, fmtLs o)
  | .ld _ o => some (4, 0x02, fmtLs o)
  | .ldp _ o => some (4, 0x03, fmtLs o)
  | .ldwh _ o => some (4, 0x04, fmtLs o)
  | .stw _ o => some (4, 0x08, fmtLs o)
  | .stwh _ o => some (4, 0x09, fmtLs o)
  | .st _ o => some (4, 0x0A, fmtLs o)
  | .stp _ o => some (4, 0x0B, fmtLs o)
  | .pmod _ p am m => some (4, 0x10, fmtLs ⟨0, p, am, m.setWidth 6⟩)
  | .rep _ c _ => some (5, 0x01, fmtRep c)
  | .blkmac _ n fa fb acc fr ci wi _ => some (5, 0x10, fmtBlk n fa fb acc fr ci wi)
  | .blkmov _ n fa fb ci wi _ => some (5, 0x11, fmtBlk n fa fb 0 false ci wi)
  | .blkfill _ n fa fb ci wi _ => some (5, 0x12, fmtBlk n fa fb 0 false ci wi)
  | .blkmax _ n fa fb ab ci wi _ => some (5, 0x13, fmtBlk n fa fb 0 ab ci wi)
  | _ => none

/-- The word of a syllable command (R103). -/
def encodeSyll (i : Instr) : Option DW :=
  match i.ctx?, syllFields i with
  | some x, some (u, op, f) => some (packSyll x.stop u op f)
  | _, _ => none

/-- Operands of MAC format. -/
def readMac (u : Bool) (w : DW) : MacOps :=
  ⟨u, w.extractLsb' 14 2, w.extractLsb' 9 5, w.extractLsb' 4 5, w.getLsbD 3, w.getLsbD 2⟩

/-- Operands of LS format. -/
def readLs (w : DW) : LsOps := ⟨w.extractLsb' 11 5, w.extractLsb' 8 3, w.extractLsb' 6 2, w.extractLsb' 0 6⟩

/-- Halves of H format. -/
def readD (w : DW) : Half := ⟨w.extractLsb' 12 4, w.getLsbD 11⟩
def readA (w : DW) : Half := ⟨w.extractLsb' 7 4, w.getLsbD 6⟩
def readB (w : DW) : Half := ⟨w.extractLsb' 2 4, w.getLsbD 1⟩

/-- The CTL syllable of an OP (R131). -/
def rawCtl (x : Ctx) (w : DW) : Nat → Option Instr
  | 0x00 => some (.nop x)
  | 0x01 => some (.br x (w.extractLsb' 12 4) (w.extractLsb' 0 12))
  | 0x02 => some (.jr x (w.extractLsb' 12 4) (w.extractLsb' 8 3))
  | 0x03 => some (.call x (w.extractLsb' 0 12))
  | 0x04 => some (.callr x (w.extractLsb' 8 3))
  | 0x05 => some (.ret x)
  | 0x06 => some (.retx x)
  | 0x07 => some (.loop x (if w.getLsbD 15 then .reg (w.extractLsb' 7 5) else .imm (w.extractLsb' 7 8))
      (w.extractLsb' 0 7))
  | 0x08 => some (.wait x)
  | 0x09 => some (.barrier x (w.extractLsb' 0 11))
  | 0x0A => some (.svc x (w.extractLsb' 0 11))
  | 0x0B => some (.brk x (w.extractLsb' 0 11))
  | 0x0C => some (.iflush x)
  | 0x10 => some (.mov x (w.extractLsb' 10 6) (w.extractLsb' 4 6))
  | 0x11 => some (.sys x (w.extractLsb' 11 5) (w.extractLsb' 5 6) (w.getLsbD 4))
  | _ => none

/-- The ALU syllable of an OP (R136 to R138). -/
def rawAlu (x : Ctx) (w : DW) (op : Nat) : Option Instr :=
  let d := w.extractLsb' 11 5
  let a := w.extractLsb' 6 5
  let b := w.extractLsb' 1 5
  let i6 := w.extractLsb' 0 6
  let i11 := w.extractLsb' 0 11
  let hd := readD w
  let ha := readA w
  let hb := readB w
  match op with
  | 0x00 => some (.add x d a b)
  | 0x01 => some (.adc x d a b)
  | 0x02 => some (.sub x d a b)
  | 0x03 => some (.sbc x d a b)
  | 0x04 => some (.adds x d a b)
  | 0x05 => some (.subs x d a b)
  | 0x06 => some (.and x d a b)
  | 0x07 => some (.or x d a b)
  | 0x08 => some (.xor x d a b)
  | 0x09 => some (.andn x d a b)
  | 0x0C => some (.min x d a b)
  | 0x0D => some (.max x d a b)
  | 0x15 => some (.pack x d a b)
  | 0x18 => some (.lsl x d a b)
  | 0x19 => some (.lsr x d a b)
  | 0x1A => some (.asr x d a b)
  | 0x1B => some (.ror x d a b)
  | 0x1C => some (.rol x d a b)
  | 0x50 => some (.div x d a b)
  | 0x0A => some (.cmp x a b)
  | 0x0B => some (.tst x a b)
  | 0x0E => some (.neg x d a)
  | 0x0F => some (.negs x d a)
  | 0x10 => some (.abs x d a)
  | 0x11 => some (.abss x d a)
  | 0x12 => some (.not x d a)
  | 0x13 => some (.norm x d a)
  | 0x14 => some (.sxw x d a)
  | 0x20 => some (.addi x d a i6)
  | 0x24 => some (.lsli x d a i6)
  | 0x25 => some (.lsri x d a i6)
  | 0x26 => some (.asri x d a i6)
  | 0x27 => some (.rori x d a i6)
  | 0x28 => some (.roli x d a i6)
  | 0x21 => some (.cmpi x a i6)
  | 0x30 => some (.movi x d i11)
  | 0x31 => some (.movh x d i11)
  | 0x32 => some (.movm x d i11)
  | 0x33 => some (.movl x d i6)
  | 0x40 => some (.addw x hd ha hb)
  | 0x41 => some (.subw x hd ha hb)
  | 0x42 => some (.addsw x hd ha hb)
  | 0x43 => some (.subsw x hd ha hb)
  | 0x49 => some (.minw x hd ha hb)
  | 0x4A => some (.maxw x hd ha hb)
  | 0x4B => some (.lslw x hd ha hb)
  | 0x4C => some (.lsrw x hd ha hb)
  | 0x4D => some (.asrw x hd ha hb)
  | 0x4E => some (.rorw x hd ha hb)
  | 0x44 => some (.cmpw x ha hb)
  | 0x45 => some (.negw x hd ha)
  | 0x46 => some (.negsw x hd ha)
  | 0x47 => some (.absw x hd ha)
  | 0x48 => some (.abssw x hd ha)
  | 0x4F => some (.movw x hd ha)
  | _ => none

/-- The MAC0 or MAC1 syllable of an OP (R143). -/
def rawMac (x : Ctx) (u : Bool) (w : DW) : Nat → Option Instr
  | 0x01 => some (.mac x (readMac u w))
  | 0x02 => some (.mpy x (readMac u w))
  | 0x03 => some (.macw x (readMac u w))
  | 0x04 => some (.mpyw x (readMac u w))
  | 0x10 => some (.ext x u (w.extractLsb' 11 5) (w.extractLsb' 9 2) (w.extractLsb' 3 6) (w.getLsbD 2) (w.getLsbD 1))
  | 0x11 => some (.extw x u (w.extractLsb' 11 5) (w.extractLsb' 9 2) (w.extractLsb' 3 6) (w.getLsbD 2) (w.getLsbD 1))
  | 0x20 => some (.clra x u (w.extractLsb' 9 2))
  | 0x21 => some (.lda x u (w.extractLsb' 11 5) (w.extractLsb' 9 2) (w.extractLsb' 3 6))
  | _ => none

/-- The LS syllable of an OP (R146). -/
def rawLs (x : Ctx) (w : DW) : Nat → Option Instr
  | 0x00 => some (.ldw x (readLs w))
  | 0x01 => some (.ldwl x (readLs w))
  | 0x02 => some (.ld x (readLs w))
  | 0x03 => some (.ldp x (readLs w))
  | 0x04 => some (.ldwh x (readLs w))
  | 0x08 => some (.stw x (readLs w))
  | 0x09 => some (.stwh x (readLs w))
  | 0x0A => some (.st x (readLs w))
  | 0x0B => some (.stp x (readLs w))
  | 0x10 => some (.pmod x (w.extractLsb' 8 3) (w.extractLsb' 6 2) (w.extractLsb' 0 3))
  | _ => none

/-- The PFX syllable of an OP (R148). -/
def rawPfx (x : Ctx) (w : DW) (op : Nat) : Option Instr :=
  let n := w.extractLsb' 11 5
  let fa := w.extractLsb' 8 3
  let fb := w.extractLsb' 5 3
  match op with
  | 0x01 => some (.rep x (if w.getLsbD 15 then .reg (w.extractLsb' 0 5) else .imm (w.extractLsb' 0 10)) none)
  | 0x10 => some (.blkmac x n fa fb (w.extractLsb' 3 2) (w.getLsbD 2) (w.getLsbD 1) (w.getLsbD 0) none)
  | 0x11 => some (.blkmov x n fa fb (w.getLsbD 1) (w.getLsbD 0) none)
  | 0x12 => some (.blkfill x n fa fb (w.getLsbD 1) (w.getLsbD 0) none)
  | 0x13 => some (.blkmax x n fa fb (w.getLsbD 2) (w.getLsbD 1) (w.getLsbD 0) none)
  | _ => none

/-- The syllable that a word's UNIT and OP name, its operands read by format; reserved bits are not looked at. -/
def rawSyll (core : CoreId) (tick : BitVec 10) (w : DW) : Option Instr :=
  let x : Ctx := ⟨core, w.getLsbD 27, tick⟩
  let op := (w.extractLsb' 16 8).toNat
  match (w.extractLsb' 24 3).toNat with
  | 0 => rawCtl x w op
  | 1 => rawAlu x w op
  | 2 => rawMac x false w op
  | 3 => rawMac x true w op
  | 4 => rawLs x w op
  | 5 => rawPfx x w op
  | _ => none

/-- Decode a syllable: none where it fails order 3 of R107, that is for UNIT 0b110 and 0b111, an unassigned OP, a
nonzero reserved operand bit or field, an unassigned condition code or an unlisted system number (R108, R126). -/
def decodeSyll (core : CoreId) (tick : BitVec 10) (w : DW) : Option Instr :=
  match rawSyll core tick w with
  | some i => if syllOk i && encodeSyll i == some w then some i else none
  | none => none

/-- The command that a word spells by the table's bits: the table gives no row any bits, so none (the table,
"fields" of every row). -/
def decodeTableWord (_nbits _w : Nat) : Option Instr := none

end Sys2Proof
end

