-- ==== Sys2Proof/Config.lean ====
section
/-! DEFINITION. What the manual leaves to the implementation: constants without a body, so that nothing can be
proved about their values. -/

namespace Sys2Proof

/-- Where the hearth monitor ROM begins an entry, as an offset from syllable address 0x4000 (R101, R205): the manual
names no address. DESIGN CHOICE: log 11. -/
opaque Config.monitorOffset : BitVec 12

/-- Where a control core's ROM takes an exception or an interrupt (R219): the manual names no address.
DESIGN CHOICE: log 11. -/
opaque Config.ctrlVector : BitVec 15

/-- A value that the manual does not state, by the number of the point it stands for and what it depends on.
DESIGN CHOICE: log 10. -/
opaque Config.openValue : Nat → List Nat → Nat

end Sys2Proof
end

