-- ==== Sys2Proof/Machine/Flags.lean ====
section
/-! DEFINITION. The flag computations of the instruction reference (R130, R139, R140): integer arithmetic on exact
values, narrowed once at the end. -/

namespace Sys2Proof.Machine

/-- What a syllable does to Z, N, C and V: a value, or unchanged (R130). -/
structure FlagOut where
  z : Option Bool
  n : Option Bool
  c : Option Bool
  v : Option Bool
  deriving DecidableEq, Repr

/-- Every flag unchanged. -/
def FlagOut.keep : FlagOut := ⟨none, none, none, none⟩

/-- A result of w bits with its flags and its sticky contribution to PS.SAT. -/
structure AluOut (w : Nat) where
  res : BitVec w
  flags : FlagOut
  sat : Bool
  deriving DecidableEq, Repr

/-- Z and N of a result (R130). -/
def flagsZN {w : Nat} (r : BitVec w) (c v : Option Bool) : FlagOut := ⟨some (r == 0#w), some r.msb, c, v⟩

/-- Does an exact value lie outside the signed range of w bits? (R130, V+ and V−) -/
def outside (w : Nat) (x : Int) : Bool := decide (x < -2 ^ (w - 1)) || decide (2 ^ (w - 1) ≤ x)

/-- An exact value clipped to the signed range of w bits (sat28, satW). -/
def satBits (w : Nat) (x : Int) : BitVec w :=
  if x < -2 ^ (w - 1) then BitVec.ofInt w (-2 ^ (w - 1))
  else if 2 ^ (w - 1) ≤ x then BitVec.ofInt w (2 ^ (w - 1) - 1)
  else BitVec.ofInt w x

/-- Sum with carry-in, wrapping: flags Z N C+ V+ (R130, R136). -/
def addWrap {w : Nat} (a b : BitVec w) (cin : Nat) : AluOut w :=
  let x := a.toInt + b.toInt + cin
  let r := BitVec.ofInt w x
  ⟨r, flagsZN r (some (decide (2 ^ w ≤ a.toNat + b.toNat + cin))) (some (outside w x)), false⟩

/-- Difference with borrow-in, wrapping: flags Z N C− V− (R130, R136). -/
def subWrap {w : Nat} (a b : BitVec w) (bin : Nat) : AluOut w :=
  let x := a.toInt - b.toInt - bin
  let r := BitVec.ofInt w x
  ⟨r, flagsZN r (some (decide (b.toNat + bin ≤ a.toNat))) (some (outside w x)), false⟩

/-- Saturating sum: flags Z N C+ Vs, SAT when clipped (R130, R136). -/
def addSat {w : Nat} (a b : BitVec w) : AluOut w :=
  let x := a.toInt + b.toInt
  let r := satBits w x
  ⟨r, flagsZN r (some (decide (2 ^ w ≤ a.toNat + b.toNat))) (some (outside w x)), outside w x⟩

/-- Saturating difference: flags Z N C− Vs, SAT when clipped (R130, R136). -/
def subSat {w : Nat} (a b : BitVec w) : AluOut w :=
  let x := a.toInt - b.toInt
  let r := satBits w x
  ⟨r, flagsZN r (some (decide (b.toNat ≤ a.toNat))) (some (outside w x)), outside w x⟩

/-- Wrapping magnitude: flags Z N — V− (R136, R139). -/
def absWrap {w : Nat} (a : BitVec w) : AluOut w :=
  let x : Int := if 0 ≤ a.toInt then a.toInt else 0 - a.toInt
  let r := BitVec.ofInt w x
  ⟨r, flagsZN r none (some (outside w x)), false⟩

/-- Saturating magnitude: flags Z N — Vs, SAT when clipped (R136, R139). -/
def absSat {w : Nat} (a : BitVec w) : AluOut w :=
  let x : Int := if 0 ≤ a.toInt then a.toInt else 0 - a.toInt
  let r := satBits w x
  ⟨r, flagsZN r none (some (outside w x)), outside w x⟩

/-- A bitwise result: flags Z N — 0 (R136). -/
def logicOut {w : Nat} (r : BitVec w) : AluOut w := ⟨r, flagsZN r none (some false), false⟩

/-- A signed minimum or maximum: flags Z N — — (R136). -/
def pickOut {w : Nat} (r : BitVec w) : AluOut w := ⟨r, flagsZN r none none, false⟩

/-- A shift or rotate: Z and N follow the result, V is 0, C as given (R140). -/
def shiftOut {w : Nat} (r : BitVec w) (c : Option Bool) : AluOut w := ⟨r, flagsZN r c (some false), false⟩

/-- Left shift by n from 0 to 63 (R140). -/
def shiftLeft {w : Nat} (a : BitVec w) (n : Nat) : AluOut w :=
  if n = 0 then shiftOut a none
  else if n ≤ w then shiftOut (a <<< n) (some (a.getLsbD (w - n)))
  else shiftOut 0#w (some false)

/-- Logical right shift (R140). -/
def shiftRight {w : Nat} (a : BitVec w) (n : Nat) : AluOut w :=
  if n = 0 then shiftOut a none
  else if n ≤ w then shiftOut (a >>> n) (some (a.getLsbD (n - 1)))
  else shiftOut 0#w (some false)

/-- Arithmetic right shift (R140). -/
def shiftArith {w : Nat} (a : BitVec w) (n : Nat) : AluOut w :=
  if n = 0 then shiftOut a none
  else if n < w then shiftOut (a.sshiftRight n) (some (a.getLsbD (n - 1)))
  else shiftOut (if a.msb then BitVec.allOnes w else 0#w) (some a.msb)

/-- Right rotate (R140). -/
def rotRight {w : Nat} (a : BitVec w) (n : Nat) : AluOut w :=
  let k := n % w
  if k = 0 then shiftOut a none
  else
    let r := (a >>> k) ||| (a <<< (w - k))
    shiftOut r (some r.msb)

/-- Left rotate (R140). -/
def rotLeft {w : Nat} (a : BitVec w) (n : Nat) : AluOut w :=
  let k := n % w
  if k = 0 then shiftOut a none
  else
    let r := (a <<< k) ||| (a >>> (w - k))
    shiftOut r (some (r.getLsbD 0))

end Sys2Proof.Machine
end

