-- ==== Sys2Proof/Machine/Outputs.lean ====
section
/-! DEFINITION. The outputs of a syllable once every operand is read (R106, R172), as plain data: what the damper holds
and compares. -/

namespace Sys2Proof.Machine

/-- An exception that a syllable raises: cause, EVAL (none for the syllable itself) and ECAUSE.DETAIL (R206). -/
structure Exc where
  cause : Nat
  eval : Option DW
  detail : Nat
  deriving DecidableEq, Repr

/-- What a syllable does beside writing general registers, accumulators and flags. -/
inductive Act where
  /-- store a DW, two DW or a W -/
  | storeD (addr : DW) (v : DW)
  | storeP (addr : DW) (v w : DW)
  | storeW (addr : DW) (v : W)
  /-- the side effect of a load of one or two DW or of a W, and the words it reads (R156) -/
  | load (addr : DW) (words : Nat)
  /-- a taken transfer (R111), and whether it is a branch or jump, which may end loops (R117) -/
  | jump (target : DW) (branch : Bool)
  /-- push on the shadow stack, or pop from it (R112, R113) -/
  | push (ret : DW)
  | pop
  /-- start a loop, or skip it where the count is 0 (R115) -/
  | loop (count : Nat) (ls le : DW)
  /-- write a system register (R90) -/
  | sys (num : BitVec 6) (v : DW)
  | retx
  | wait
  | barrier (b : BitVec 11)
  | iflush
  deriving DecidableEq, Repr

/-- What a syllable does, worked out from the operands it reads (R106). -/
structure Eff where
  /-- general registers: number, mask of the bits written, value -/
  grs : List (Nat × DW × DW)
  accs : List (Nat × Acc)
  flags : FlagOut
  sat : Bool
  dz : Bool
  exc : Option Exc
  /-- the memory address of the poisoned word that a load meets (R197) -/
  met : Option Nat
  steps : Nat
  /-- bits of general registers that a load writes (R154) -/
  loads : List (Nat × DW)
  acts : List Act
  deriving DecidableEq, Repr

end Sys2Proof.Machine
end

