-- ==== Sys2Proof/Machine/RegMap.lean ====
section
/-! DEFINITION. The register pages: the directory (R470) and every live register with its fields, access codes and
reset values, transcribed from the register tables of the chapters. -/

namespace Sys2Proof.Machine

/-- The access codes of register fields (R10). -/
inductive AccCode where
  | ro
  | rw
  | rws
  | w1c
  | w1s
  | wo
  | rc
  deriving DecidableEq, Repr

/-- One field of a register row: bits hi to lo, access code, reset value. -/
structure FldRow where
  hi : Nat
  lo : Nat
  acc : AccCode
  reset : Nat
  deriving DecidableEq, Repr

/-- A row of registers: pages page to page + npages - 1, offsets off + stride * i for i below cnt. -/
structure RegRow where
  page : Nat
  npages : Nat
  off : Nat
  cnt : Nat
  stride : Nat
  flds : List FldRow
  deriving DecidableEq, Repr

/-- A named field, for the operations of the blocks: instance 0 at `page`, element 0 at `off`. -/
structure RegFld where
  page : Nat
  off : Nat
  stride : Nat
  hi : Nat
  lo : Nat
  deriving DecidableEq, Repr

/-- The key of a register in the tables of State: page number and byte offset (R466). -/
def regKey (page off : Nat) : Nat := page * 0x1000 + off

/-- The key of the register that holds a field, for an instance of the page and an element of the row. -/
def RegFld.key (f : RegFld) (inst idx : Nat) : Nat := regKey (f.page + inst) (f.off + f.stride * idx)

/-- DEVICE: 01 R38. -/
def regRowsDEVICE : List RegRow := [
  -- DEVICE_ID
  ⟨0x000, 1, 0x020, 1, 4, [⟨27, 16, .ro, 0x5C8⟩, ⟨15, 8, .ro, 0x1⟩]⟩,
  -- REVISION
  ⟨0x000, 1, 0x024, 1, 4, [⟨15, 8, .ro, 0x1⟩, ⟨7, 0, .ro, 0x1⟩]⟩,
  -- CAPS0
  ⟨0x000, 1, 0x028, 1, 4, [⟨19, 16, .ro, 0x1⟩, ⟨15, 12, .ro, 0x3⟩, ⟨11, 8, .ro, 0x5⟩, ⟨7, 0, .ro, 0x10⟩]⟩,
  -- CAPS1
  ⟨0x000, 1, 0x02C, 1, 4, [⟨27, 24, .ro, 0x2⟩, ⟨23, 16, .ro, 0x10⟩, ⟨15, 12, .ro, 0x8⟩, ⟨11, 8, .ro, 0x8⟩, ⟨7, 0, .ro, 0x40⟩]⟩,
  -- CAPS2
  ⟨0x000, 1, 0x030, 1, 4, [⟨26, 12, .ro, 0x4000⟩, ⟨11, 0, .ro, 0x400⟩]⟩]

/-- AON: 14 R408, 15 R431. -/
def regRowsAON : List RegRow := [
  -- FRAME_LO
  ⟨0x001, 1, 0x020, 1, 4, [⟨27, 0, .ro, 0x0⟩]⟩,
  -- FRAME_HI
  ⟨0x001, 1, 0x024, 1, 4, [⟨19, 0, .ro, 0x0⟩]⟩,
  -- TICK_LO
  ⟨0x001, 1, 0x028, 1, 4, [⟨27, 0, .ro, 0x0⟩]⟩,
  -- TICK_HI
  ⟨0x001, 1, 0x02C, 1, 4, [⟨19, 0, .ro, 0x0⟩]⟩,
  -- RESET_CAUSE
  ⟨0x001, 1, 0x030, 1, 4, [⟨1, 1, .w1c, 0x0⟩, ⟨0, 0, .w1c, 0x1⟩]⟩,
  -- BOOT
  ⟨0x001, 1, 0x034, 1, 4, [⟨27, 26, .ro, 0x0⟩, ⟨25, 22, .ro, 0x0⟩, ⟨15, 0, .ro, 0x0⟩]⟩,
  -- WAKE_LAST
  ⟨0x001, 1, 0x100, 1, 4, [⟨27, 27, .w1c, 0x0⟩, ⟨26, 26, .ro, 0x0⟩, ⟨25, 25, .ro, 0x0⟩, ⟨24, 24, .ro, 0x0⟩, ⟨21, 20, .ro, 0x0⟩, ⟨4, 0, .ro, 0x1F⟩]⟩,
  -- WAKE_WOKEN
  ⟨0x001, 1, 0x104, 3, 4, [⟨27, 0, .ro, 0x0⟩]⟩,
  -- WAKE_STAMP_LO
  ⟨0x001, 1, 0x110, 1, 4, [⟨27, 0, .ro, 0x0⟩]⟩,
  -- WAKE_STAMP_HI
  ⟨0x001, 1, 0x114, 1, 4, [⟨19, 0, .ro, 0x0⟩]⟩,
  -- COLD_ACCESS
  ⟨0x001, 1, 0x118, 1, 4, [⟨27, 27, .ro, 0x0⟩, ⟨26, 26, .ro, 0x0⟩, ⟨25, 25, .ro, 0x0⟩, ⟨23, 17, .ro, 0x0⟩, ⟨16, 16, .rc, 0x0⟩, ⟨15, 0, .rc, 0x0⟩]⟩,
  -- COLD_ADDR
  ⟨0x001, 1, 0x11C, 1, 4, [⟨27, 0, .ro, 0x0⟩]⟩]

/-- FUSE: 16 R457. -/
def regRowsFUSE : List RegRow := [
  -- CHIP_ID
  ⟨0x002, 1, 0x020, 3, 4, [⟨27, 0, .ro, 0x0⟩]⟩,
  -- KEY_HASH
  ⟨0x002, 1, 0x030, 10, 4, [⟨27, 0, .ro, 0x0⟩]⟩,
  -- ROM_ID
  ⟨0x002, 1, 0x060, 1, 4, [⟨15, 0, .ro, 0xA11⟩]⟩,
  -- FLOOR
  ⟨0x002, 1, 0x064, 1, 4, [⟨5, 0, .ro, 0x0⟩]⟩,
  -- STATUS
  ⟨0x002, 1, 0x068, 1, 4, [⟨2, 2, .ro, 0x0⟩, ⟨1, 1, .ro, 0x0⟩, ⟨0, 0, .ro, 0x0⟩]⟩,
  -- SEAL_CMD
  ⟨0x002, 1, 0x06C, 1, 4, [⟨27, 0, .wo, 0x0⟩]⟩]

/-- HEALTH: 16 R456. -/
def regRowsHEALTH : List RegRow := [
  -- SWEEP_REASON
  ⟨0x003, 1, 0x020, 1, 4, [⟨5, 0, .ro, 0x0⟩]⟩,
  -- STATUS
  ⟨0x003, 1, 0x024, 1, 4, [⟨27, 26, .ro, 0x0⟩, ⟨25, 25, .ro, 0x0⟩, ⟨24, 24, .ro, 0x0⟩, ⟨23, 18, .ro, 0x0⟩, ⟨17, 13, .ro, 0x0⟩]⟩,
  -- SPARE_MAP
  ⟨0x003, 1, 0x028, 1, 4, [⟨15, 0, .ro, 0x0⟩]⟩,
  -- FOLD_LO
  ⟨0x003, 1, 0x02C, 1, 4, [⟨27, 0, .ro, 0x0⟩]⟩,
  -- FOLD_HI
  ⟨0x003, 1, 0x030, 1, 4, [⟨3, 0, .ro, 0x0⟩]⟩,
  -- CTRL
  ⟨0x003, 1, 0x034, 1, 4, [⟨8, 6, .ro, 0x0⟩, ⟨5, 4, .ro, 0x2⟩, ⟨3, 2, .ro, 0x1⟩, ⟨1, 0, .ro, 0x0⟩]⟩,
  -- PATCH_SEQ
  ⟨0x003, 1, 0x038, 1, 4, [⟨27, 0, .ro, 0x0⟩]⟩,
  -- REC_SEQ
  ⟨0x003, 1, 0x03C, 1, 4, [⟨27, 0, .ro, 0x0⟩]⟩,
  -- CFG
  ⟨0x003, 1, 0x040, 1, 4, [⟨7, 0, .rw, 0x10⟩]⟩,
  -- SR_DAY
  ⟨0x003, 1, 0x044, 1, 4, [⟨15, 0, .ro, 0x0⟩]⟩,
  -- TJ
  ⟨0x003, 1, 0x048, 1, 4, [⟨17, 9, .ro, 0x0⟩, ⟨8, 0, .ro, 0x0⟩]⟩,
  -- HOURS
  ⟨0x003, 1, 0x04C, 1, 4, [⟨27, 0, .ro, 0x0⟩]⟩,
  -- CE_DAY
  ⟨0x003, 1, 0x060, 5, 4, [⟨27, 16, .ro, 0x0⟩, ⟨15, 0, .ro, 0x0⟩]⟩,
  -- HEAD
  ⟨0x003, 1, 0x080, 16, 4, [⟨20, 14, .ro, 0x0⟩, ⟨13, 7, .ro, 0x0⟩, ⟨6, 0, .ro, 0x0⟩]⟩,
  -- FLARE
  ⟨0x003, 1, 0x0C0, 16, 4, [⟨27, 16, .ro, 0x0⟩, ⟨15, 0, .ro, 0x0⟩]⟩]

/-- HEARTH: 06 R201, 02 R84, 05 R167. -/
def regRowsHEARTH : List RegRow := [
  -- SLOTMAP
  ⟨0x010, 16, 0x020, 1, 4, [⟨15, 12, .ro, 0x0⟩, ⟨11, 9, .ro, 0x3⟩, ⟨8, 6, .ro, 0x2⟩, ⟨5, 3, .ro, 0x1⟩, ⟨2, 0, .ro, 0x0⟩]⟩,
  -- CORES
  ⟨0x010, 16, 0x024, 1, 4, [⟨15, 15, .ro, 0x0⟩, ⟨14, 14, .ro, 0x0⟩, ⟨13, 12, .ro, 0x0⟩, ⟨9, 0, .ro, 0x55⟩]⟩,
  -- FOLD
  ⟨0x010, 16, 0x028, 1, 4, [⟨11, 11, .ro, 0x0⟩, ⟨9, 0, .ro, 0x0⟩]⟩,
  -- PERSIST
  ⟨0x010, 16, 0x02C, 1, 4, [⟨16, 16, .rc, 0x0⟩, ⟨15, 0, .rc, 0x0⟩]⟩,
  -- RESTART
  ⟨0x010, 16, 0x030, 1, 4, [⟨16, 16, .rc, 0x0⟩, ⟨15, 0, .rc, 0x0⟩]⟩,
  -- STALL
  ⟨0x010, 16, 0x034, 1, 4, [⟨16, 16, .rc, 0x0⟩, ⟨15, 0, .rc, 0x0⟩]⟩,
  -- STATE_RESET
  ⟨0x010, 16, 0x038, 1, 4, [⟨16, 16, .rc, 0x0⟩, ⟨15, 0, .rc, 0x0⟩]⟩,
  -- LAST_FAULT
  ⟨0x010, 16, 0x03C, 1, 4, [⟨27, 16, .ro, 0x0⟩, ⟨15, 12, .ro, 0x0⟩, ⟨9, 8, .ro, 0x0⟩, ⟨2, 0, .ro, 0x0⟩]⟩,
  -- TEMPO
  ⟨0x010, 16, 0x040, 1, 4, [⟨17, 17, .ro, 0x0⟩, ⟨16, 16, .ro, 0x0⟩, ⟨15, 8, .ro, 0x5A⟩, ⟨7, 0, .ro, 0x5A⟩]⟩,
  -- FINISH
  ⟨0x010, 16, 0x044, 1, 4, [⟨11, 11, .ro, 0x0⟩, ⟨9, 0, .ro, 0x0⟩]⟩,
  -- STEPS
  ⟨0x010, 16, 0x050, 4, 4, [⟨22, 0, .ro, 0x0⟩]⟩,
  -- PEN
  ⟨0x010, 16, 0x060, 4, 4, [⟨22, 0, .ro, 0x0⟩]⟩,
  -- PEAK
  ⟨0x010, 16, 0x070, 4, 4, [⟨22, 0, .rc, 0x0⟩]⟩,
  -- MISMATCH
  ⟨0x010, 16, 0x080, 4, 4, [⟨16, 16, .rc, 0x0⟩, ⟨15, 0, .rc, 0x0⟩]⟩]

/-- CTRL: 17 R472. -/
def regRowsCTRL : List RegRow := [
  -- STATUS
  ⟨0x020, 3, 0x020, 1, 4, [⟨11, 4, .ro, 0x32⟩, ⟨2, 2, .ro, 0x0⟩, ⟨1, 0, .ro, 0x0⟩]⟩,
  -- MISMATCH
  ⟨0x020, 3, 0x024, 1, 4, [⟨16, 16, .rc, 0x0⟩, ⟨15, 0, .rc, 0x0⟩]⟩]

/-- ROUTER: 08 R240. -/
def regRowsROUTER : List RegRow := [
  -- SET_PEND
  ⟨0x030, 1, 0x040, 1, 4, [⟨22, 16, .wo, 0x0⟩, ⟨9, 0, .wo, 0x0⟩]⟩,
  -- CLR_PEND
  ⟨0x030, 1, 0x044, 1, 4, [⟨22, 16, .wo, 0x0⟩, ⟨9, 0, .wo, 0x0⟩]⟩,
  -- PRIV_PRI
  ⟨0x030, 1, 0x060, 10, 4, [⟨23, 16, .rws, 0x80⟩, ⟨15, 8, .rws, 0x80⟩, ⟨7, 0, .rws, 0x80⟩]⟩,
  -- PRIV_PRI10
  ⟨0x030, 1, 0x088, 1, 4, [⟨15, 8, .rws, 0x80⟩, ⟨7, 0, .rws, 0x80⟩]⟩,
  -- SH_PEND
  ⟨0x030, 1, 0x100, 32, 4, [⟨15, 0, .ro, 0x0⟩]⟩,
  -- TGT_CFG
  ⟨0x030, 1, 0x200, 64, 16, [⟨13, 8, .rws, 0x0⟩, ⟨2, 0, .rws, 0x0⟩]⟩,
  -- TGT_EN_LO
  ⟨0x030, 1, 0x204, 64, 16, [⟨15, 0, .rws, 0x0⟩]⟩,
  -- TGT_EN_HI
  ⟨0x030, 1, 0x208, 64, 16, [⟨15, 0, .rws, 0x0⟩]⟩,
  -- TGT_STAT
  ⟨0x030, 1, 0x20C, 66, 16, [⟨27, 27, .ro, 0x1⟩, ⟨26, 26, .ro, 0x0⟩, ⟨25, 22, .ro, 0x0⟩, ⟨15, 8, .ro, 0xFF⟩]⟩,
  -- TGT_CFG_CTRL
  ⟨0x030, 1, 0x600, 2, 16, [⟨13, 8, .ro, 0x0⟩, ⟨2, 0, .ro, 0x0⟩]⟩,
  -- TGT_EN_LO_CTRL
  ⟨0x030, 1, 0x604, 2, 16, [⟨15, 0, .ro, 0xFFFF⟩]⟩,
  -- TGT_EN_HI_CTRL
  ⟨0x030, 1, 0x608, 2, 16, [⟨15, 0, .ro, 0xFFFF⟩]⟩]

/-- ROUTER_SRC: 08 R241. -/
def regRowsROUTER_SRC : List RegRow := [
  -- SRC_CFG
  ⟨0x031, 2, 0x100, 192, 4, [⟨17, 17, .rws, 0x0⟩, ⟨16, 16, .rws, 0x0⟩, ⟨15, 8, .rws, 0x0⟩, ⟨6, 0, .rws, 0x7F⟩]⟩]

/-- ROUTER_SRC2: 08 R241, R225. -/
def regRowsROUTER_SRC2 : List RegRow := [
  -- SRC_CFG
  ⟨0x033, 1, 0x100, 64, 4, [⟨17, 17, .rws, 0x0⟩, ⟨16, 16, .rws, 0x0⟩, ⟨15, 8, .rws, 0x0⟩, ⟨6, 0, .rws, 0x7F⟩]⟩,
  -- SRC_CFG_MIRROR
  ⟨0x033, 1, 0x200, 64, 4, [⟨17, 17, .ro, 0x1⟩, ⟨16, 16, .ro, 0x1⟩, ⟨15, 8, .ro, 0x80⟩, ⟨6, 0, .ro, 0x40⟩]⟩]

/-- HOPC: 09 R262, R260. -/
def regRowsHOPC : List RegRow := [
  -- CFG
  ⟨0x040, 4, 0x024, 1, 4, [⟨20, 20, .ro, 0x0⟩, ⟨19, 13, .ro, 0x40⟩, ⟨12, 0, .ro, 0x1⟩]⟩,
  -- PROD0
  ⟨0x040, 4, 0x028, 1, 4, [⟨19, 13, .ro, 0x41⟩, ⟨12, 0, .ro, 0x1000⟩]⟩,
  -- PROD
  ⟨0x040, 4, 0x02C, 3, 4, [⟨19, 13, .ro, 0x7F⟩, ⟨12, 0, .ro, 0x0⟩]⟩,
  -- STATUS
  ⟨0x040, 4, 0x020, 1, 4, [⟨27, 27, .ro, 0x0⟩, ⟨26, 26, .ro, 0x0⟩, ⟨25, 13, .ro, 0x0⟩, ⟨12, 0, .ro, 0x0⟩]⟩,
  -- ACCT
  ⟨0x040, 4, 0x038, 4, 4, [⟨25, 13, .ro, 0x0⟩, ⟨12, 0, .ro, 0x0⟩]⟩,
  -- CTRL
  ⟨0x040, 4, 0x048, 1, 4, [⟨1, 1, .w1s, 0x0⟩, ⟨0, 0, .wo, 0x0⟩]⟩,
  -- DROP_RES
  ⟨0x040, 4, 0x04C, 1, 4, [⟨4, 4, .ro, 0x0⟩, ⟨3, 0, .ro, 0x0⟩]⟩,
  -- PROTO_CNT
  ⟨0x040, 4, 0x050, 1, 4, [⟨16, 16, .rc, 0x0⟩, ⟨15, 0, .rc, 0x0⟩]⟩,
  -- PROTO_LAST
  ⟨0x040, 4, 0x054, 1, 4, [⟨27, 16, .ro, 0x0⟩, ⟨14, 8, .ro, 0x7F⟩, ⟨7, 0, .ro, 0x0⟩]⟩,
  -- POISON_CNT
  ⟨0x040, 4, 0x058, 1, 4, [⟨16, 16, .rc, 0x0⟩, ⟨15, 0, .rc, 0x0⟩]⟩]

/-- HOPH: 09 R262, R260. -/
def regRowsHOPH : List RegRow := [
  -- CFG
  ⟨0x044, 2, 0x024, 1, 4, [⟨20, 20, .ro, 0x0⟩, ⟨19, 13, .ro, 0x7E⟩, ⟨12, 0, .ro, 0x1⟩]⟩,
  -- PROD0
  ⟨0x044, 2, 0x028, 1, 4, [⟨19, 13, .ro, 0x40⟩, ⟨12, 0, .ro, 0x1000⟩]⟩,
  -- PROD
  ⟨0x044, 2, 0x02C, 3, 4, [⟨19, 13, .ro, 0x7F⟩, ⟨12, 0, .ro, 0x0⟩]⟩,
  -- STATUS
  ⟨0x044, 2, 0x020, 1, 4, [⟨27, 27, .ro, 0x0⟩, ⟨26, 26, .ro, 0x0⟩, ⟨25, 13, .ro, 0x0⟩, ⟨12, 0, .ro, 0x0⟩]⟩,
  -- ACCT
  ⟨0x044, 2, 0x038, 4, 4, [⟨25, 13, .ro, 0x0⟩, ⟨12, 0, .ro, 0x0⟩]⟩,
  -- CTRL
  ⟨0x044, 2, 0x048, 1, 4, [⟨1, 1, .w1s, 0x0⟩, ⟨0, 0, .wo, 0x0⟩]⟩,
  -- DROP_RES
  ⟨0x044, 2, 0x04C, 1, 4, [⟨4, 4, .ro, 0x0⟩, ⟨3, 0, .ro, 0x0⟩]⟩,
  -- PROTO_CNT
  ⟨0x044, 2, 0x050, 1, 4, [⟨16, 16, .rc, 0x0⟩, ⟨15, 0, .rc, 0x0⟩]⟩,
  -- PROTO_LAST
  ⟨0x044, 2, 0x054, 1, 4, [⟨27, 16, .ro, 0x0⟩, ⟨14, 8, .ro, 0x7F⟩, ⟨7, 0, .ro, 0x0⟩]⟩,
  -- POISON_CNT
  ⟨0x044, 2, 0x058, 1, 4, [⟨16, 16, .rc, 0x0⟩, ⟨15, 0, .rc, 0x0⟩]⟩]

/-- HOPE: 09 R262, R260. -/
def regRowsHOPE : List RegRow := [
  -- CFG
  ⟨0x046, 10, 0x024, 1, 4, [⟨20, 20, .rws, 0x1⟩, ⟨19, 13, .rws, 0x7F⟩, ⟨12, 0, .rws, 0x1⟩]⟩,
  -- PROD0
  ⟨0x046, 10, 0x028, 1, 4, [⟨19, 13, .rws, 0x7F⟩, ⟨12, 0, .rws, 0x0⟩]⟩,
  -- PROD
  ⟨0x046, 10, 0x02C, 3, 4, [⟨19, 13, .rws, 0x7F⟩, ⟨12, 0, .rws, 0x0⟩]⟩,
  -- STATUS
  ⟨0x046, 10, 0x020, 1, 4, [⟨27, 27, .ro, 0x0⟩, ⟨26, 26, .ro, 0x0⟩, ⟨25, 13, .ro, 0x0⟩, ⟨12, 0, .ro, 0x0⟩]⟩,
  -- ACCT
  ⟨0x046, 10, 0x038, 4, 4, [⟨25, 13, .ro, 0x0⟩, ⟨12, 0, .ro, 0x0⟩]⟩,
  -- CTRL
  ⟨0x046, 10, 0x048, 1, 4, [⟨1, 1, .w1s, 0x0⟩, ⟨0, 0, .wo, 0x0⟩]⟩,
  -- DROP_RES
  ⟨0x046, 10, 0x04C, 1, 4, [⟨4, 4, .ro, 0x0⟩, ⟨3, 0, .ro, 0x0⟩]⟩,
  -- PROTO_CNT
  ⟨0x046, 10, 0x050, 1, 4, [⟨16, 16, .rc, 0x0⟩, ⟨15, 0, .rc, 0x0⟩]⟩,
  -- PROTO_LAST
  ⟨0x046, 10, 0x054, 1, 4, [⟨27, 16, .ro, 0x0⟩, ⟨14, 8, .ro, 0x7F⟩, ⟨7, 0, .ro, 0x0⟩]⟩,
  -- POISON_CNT
  ⟨0x046, 10, 0x058, 1, 4, [⟨16, 16, .rc, 0x0⟩, ⟨15, 0, .rc, 0x0⟩]⟩]

/-- STOKER: 10 R292. -/
def regRowsSTOKER : List RegRow := [
  -- ACTIVE
  ⟨0x050, 1, 0x020, 1, 4, [⟨14, 0, .ro, 0x0⟩]⟩,
  -- RESIDENT
  ⟨0x050, 1, 0x024, 1, 4, [⟨14, 0, .ro, 0x0⟩]⟩,
  -- TABLE_BASE
  ⟨0x050, 1, 0x028, 1, 4, [⟨27, 0, .rws, 0x0⟩]⟩,
  -- ENTRIES
  ⟨0x050, 1, 0x02C, 1, 4, [⟨14, 0, .rws, 0x0⟩]⟩,
  -- READ_BUDGET
  ⟨0x050, 1, 0x030, 1, 4, [⟨21, 0, .rws, 0x0⟩]⟩,
  -- MAX_STREAMS
  ⟨0x050, 1, 0x034, 1, 4, [⟨13, 0, .rws, 0x0⟩]⟩,
  -- CEILING
  ⟨0x050, 1, 0x038, 1, 4, [⟨21, 0, .ro, 0x0⟩]⟩,
  -- GROUP_CEIL
  ⟨0x050, 1, 0x03C, 1, 4, [⟨27, 24, .ro, 0x0⟩, ⟨21, 0, .ro, 0x0⟩]⟩,
  -- CHARGED
  ⟨0x050, 1, 0x040, 1, 4, [⟨21, 0, .ro, 0x0⟩]⟩,
  -- REFUSED_CNT
  ⟨0x050, 1, 0x044, 1, 4, [⟨16, 16, .rc, 0x0⟩, ⟨15, 0, .rc, 0x0⟩]⟩,
  -- LATE_CNT
  ⟨0x050, 1, 0x048, 1, 4, [⟨16, 16, .rc, 0x0⟩, ⟨15, 0, .rc, 0x0⟩]⟩,
  -- REBUILD_CNT
  ⟨0x050, 1, 0x04C, 1, 4, [⟨16, 16, .rc, 0x0⟩, ⟨15, 0, .rc, 0x0⟩]⟩,
  -- DATA_ERR_CNT
  ⟨0x050, 1, 0x050, 1, 4, [⟨16, 16, .rc, 0x0⟩, ⟨15, 0, .rc, 0x0⟩]⟩,
  -- LAST_REFUSE
  ⟨0x050, 1, 0x054, 1, 4, [⟨27, 22, .ro, 0x0⟩, ⟨21, 14, .ro, 0x0⟩, ⟨13, 0, .ro, 0x0⟩]⟩,
  -- WORST
  ⟨0x050, 1, 0x058, 1, 4, [⟨15, 0, .rc, 0x0⟩]⟩,
  -- PIN_FIRST
  ⟨0x050, 1, 0x060, 1, 4, [⟨13, 0, .rw, 0x0⟩]⟩,
  -- PIN_LAST
  ⟨0x050, 1, 0x064, 1, 4, [⟨13, 0, .rw, 0x0⟩]⟩,
  -- PIN_CMD
  ⟨0x050, 1, 0x068, 1, 4, [⟨1, 1, .w1s, 0x0⟩, ⟨0, 0, .w1s, 0x0⟩]⟩,
  -- PIN_STAT
  ⟨0x050, 1, 0x06C, 1, 4, [⟨27, 14, .ro, 0x0⟩, ⟨13, 0, .ro, 0x0⟩]⟩,
  -- KILL
  ⟨0x050, 1, 0x070, 1, 4, [⟨13, 0, .wo, 0x0⟩]⟩,
  -- INSPECT_SEL
  ⟨0x050, 1, 0x074, 1, 4, [⟨13, 0, .rw, 0x0⟩]⟩,
  -- INSPECT_STATE
  ⟨0x050, 1, 0x078, 1, 4, [⟨27, 26, .ro, 0x0⟩, ⟨25, 25, .ro, 0x0⟩, ⟨24, 19, .ro, 0x0⟩, ⟨11, 0, .ro, 0x0⟩]⟩,
  -- INSPECT_Q
  ⟨0x050, 1, 0x07C, 1, 4, [⟨27, 0, .ro, 0x0⟩]⟩,
  -- GROUP_LOAD
  ⟨0x050, 1, 0x080, 8, 4, [⟨21, 0, .ro, 0x0⟩]⟩]

/-- FLASH: 11 R323. -/
def regRowsFLASH : List RegRow := [
  -- STATUS
  ⟨0x058, 1, 0x020, 1, 4, [⟨23, 16, .ro, 0x0⟩, ⟨15, 8, .ro, 0x0⟩, ⟨2, 0, .ro, 0x0⟩]⟩,
  -- GEOM0
  ⟨0x058, 1, 0x024, 1, 4, [⟨27, 24, .ro, 0x0⟩, ⟨23, 20, .ro, 0x0⟩, ⟨19, 16, .ro, 0x0⟩, ⟨13, 0, .ro, 0x0⟩]⟩,
  -- GEOM1
  ⟨0x058, 1, 0x028, 1, 4, [⟨27, 14, .ro, 0x0⟩, ⟨13, 0, .ro, 0x0⟩]⟩,
  -- TIMING
  ⟨0x058, 1, 0x02C, 1, 4, [⟨27, 16, .ro, 0x0⟩, ⟨15, 6, .ro, 0x0⟩, ⟨5, 0, .ro, 0x0⟩]⟩,
  -- CFG
  ⟨0x058, 1, 0x030, 1, 4, [⟨27, 20, .rw, 0x80⟩, ⟨19, 12, .rw, 0x20⟩, ⟨11, 0, .rw, 0x40⟩]⟩,
  -- RD_LIMIT
  ⟨0x058, 1, 0x034, 1, 4, [⟨19, 0, .rw, 0x64⟩]⟩,
  -- REFRESH_BITS
  ⟨0x058, 1, 0x038, 1, 4, [⟨9, 0, .rw, 0x60⟩]⟩,
  -- MAPPED
  ⟨0x058, 1, 0x03C, 1, 4, [⟨16, 0, .ro, 0x0⟩]⟩,
  -- FREE
  ⟨0x058, 1, 0x040, 1, 4, [⟨16, 0, .ro, 0x0⟩]⟩,
  -- SPARE_MIN
  ⟨0x058, 1, 0x044, 1, 4, [⟨27, 20, .ro, 0x0⟩, ⟨6, 0, .ro, 0x0⟩]⟩,
  -- WEAR
  ⟨0x058, 1, 0x048, 1, 4, [⟨27, 14, .ro, 0x0⟩, ⟨13, 0, .ro, 0x0⟩]⟩,
  -- PATROL
  ⟨0x058, 1, 0x04C, 1, 4, [⟨15, 0, .ro, 0x0⟩]⟩,
  -- SOFT_CNT
  ⟨0x058, 1, 0x050, 1, 4, [⟨16, 16, .rc, 0x0⟩, ⟨15, 0, .rc, 0x0⟩]⟩,
  -- RETRY_CNT
  ⟨0x058, 1, 0x054, 1, 4, [⟨16, 16, .rc, 0x0⟩, ⟨15, 0, .rc, 0x0⟩]⟩,
  -- REBUILD_CNT
  ⟨0x058, 1, 0x058, 1, 4, [⟨16, 16, .rc, 0x0⟩, ⟨15, 0, .rc, 0x0⟩]⟩,
  -- LOSS_CNT
  ⟨0x058, 1, 0x05C, 1, 4, [⟨16, 16, .rc, 0x0⟩, ⟨15, 0, .rc, 0x0⟩]⟩,
  -- RELOC_CNT
  ⟨0x058, 1, 0x060, 1, 4, [⟨16, 16, .rc, 0x0⟩, ⟨15, 0, .rc, 0x0⟩]⟩,
  -- REFRESH_CNT
  ⟨0x058, 1, 0x064, 1, 4, [⟨16, 16, .rc, 0x0⟩, ⟨15, 0, .rc, 0x0⟩]⟩,
  -- BAD_CNT
  ⟨0x058, 1, 0x068, 1, 4, [⟨16, 16, .rc, 0x0⟩, ⟨15, 0, .rc, 0x0⟩]⟩,
  -- LUN_STAT
  ⟨0x058, 1, 0x100, 128, 4, [⟨27, 26, .ro, 0x0⟩, ⟨25, 12, .ro, 0x0⟩, ⟨11, 0, .ro, 0x0⟩]⟩]

/-- FCH: 11 R324. -/
def regRowsFCH : List RegRow := [
  -- STATUS
  ⟨0x060, 8, 0x020, 1, 4, [⟨27, 23, .ro, 0x0⟩, ⟨22, 19, .ro, 0x0⟩, ⟨18, 17, .ro, 0x0⟩, ⟨16, 14, .ro, 0x7⟩, ⟨13, 0, .ro, 0x0⟩]⟩,
  -- CFG
  ⟨0x060, 8, 0x024, 1, 4, [⟨16, 14, .rw, 0x3⟩, ⟨13, 0, .rw, 0xE10⟩]⟩,
  -- TIMEOUT_CNT
  ⟨0x060, 8, 0x028, 1, 4, [⟨16, 16, .rc, 0x0⟩, ⟨15, 0, .rc, 0x0⟩]⟩,
  -- TRAIN_CNT
  ⟨0x060, 8, 0x02C, 1, 4, [⟨16, 16, .rc, 0x0⟩, ⟨15, 0, .rc, 0x0⟩]⟩]

/-- PORTS: 12 R352. -/
def regRowsPORTS : List RegRow := [
  -- GCFG
  ⟨0x070, 8, 0x020, 1, 4, [⟨9, 8, .rws, 0x0⟩, ⟨6, 6, .rws, 0x1⟩, ⟨5, 4, .rws, 0x0⟩, ⟨3, 3, .rws, 0x1⟩, ⟨2, 0, .rws, 0x0⟩]⟩,
  -- GSTAT
  ⟨0x070, 8, 0x024, 1, 4, [⟨15, 8, .ro, 0x0⟩, ⟨2, 2, .ro, 0x0⟩, ⟨1, 0, .ro, 0x0⟩]⟩,
  -- LANE_CFG
  ⟨0x070, 8, 0x030, 8, 4, [⟨3, 3, .rws, 0x0⟩, ⟨2, 2, .rws, 0x0⟩, ⟨1, 0, .rws, 0x0⟩]⟩,
  -- LANE_STAT
  ⟨0x070, 8, 0x050, 8, 4, [⟨9, 3, .ro, 0x0⟩, ⟨2, 2, .ro, 0x0⟩, ⟨1, 1, .ro, 0x0⟩, ⟨0, 0, .ro, 0x0⟩]⟩,
  -- LANE_PERR
  ⟨0x070, 8, 0x070, 8, 4, [⟨16, 16, .rc, 0x0⟩, ⟨15, 0, .rc, 0x0⟩]⟩,
  -- LANE_VCNT
  ⟨0x070, 8, 0x090, 8, 4, [⟨16, 16, .rc, 0x0⟩, ⟨15, 0, .rc, 0x0⟩]⟩,
  -- LANE_SLIP
  ⟨0x070, 8, 0x0B0, 8, 4, [⟨16, 16, .rc, 0x0⟩, ⟨15, 0, .rc, 0x0⟩]⟩]

/-- PORT_TABLE: 12 R353. -/
def regRowsPORT_TABLE : List RegRow := [
  -- BUF_BASE
  ⟨0x078, 1, 0x020, 1, 4, [⟨27, 0, .rws, 0x0⟩]⟩,
  -- PT_WRITE
  ⟨0x078, 1, 0x024, 1, 4, [⟨27, 0, .rws, 0x0⟩]⟩,
  -- PT_SEL
  ⟨0x078, 1, 0x028, 1, 4, [⟨9, 0, .rw, 0x0⟩]⟩,
  -- PT_READ
  ⟨0x078, 1, 0x02C, 1, 4, [⟨27, 4, .ro, 0x0⟩, ⟨3, 3, .ro, 0x0⟩]⟩,
  -- PT_QUEUE
  ⟨0x078, 1, 0x030, 1, 4, [⟨10, 0, .ro, 0x0⟩]⟩,
  -- PORT_OWNER
  ⟨0x078, 1, 0x100, 64, 4, [⟨27, 21, .rws, 0x7F⟩, ⟨20, 14, .rws, 0x7F⟩, ⟨13, 7, .rws, 0x7F⟩, ⟨6, 0, .rws, 0x7F⟩]⟩]

/-- MIDI: 12 R354. -/
def regRowsMIDI : List RegRow := [
  -- CFG
  ⟨0x079, 1, 0x020, 2, 4, [⟨15, 12, .rws, 0x0⟩, ⟨10, 10, .rws, 0x1⟩, ⟨9, 7, .rws, 0x6⟩, ⟨6, 4, .rws, 0x4⟩, ⟨3, 0, .rws, 0x0⟩]⟩,
  -- STAT
  ⟨0x079, 1, 0x028, 2, 4, [⟨12, 4, .ro, 0x0⟩, ⟨2, 2, .ro, 0x0⟩, ⟨1, 1, .ro, 0x0⟩, ⟨0, 0, .ro, 0x0⟩]⟩,
  -- TX_DATA
  ⟨0x079, 1, 0x030, 2, 4, [⟨7, 0, .wo, 0x0⟩]⟩,
  -- RX_ERR_CNT
  ⟨0x079, 1, 0x040, 2, 4, [⟨16, 16, .rc, 0x0⟩, ⟨15, 0, .rc, 0x0⟩]⟩,
  -- RX_DROP_CNT
  ⟨0x079, 1, 0x048, 2, 4, [⟨16, 16, .rc, 0x0⟩, ⟨15, 0, .rc, 0x0⟩]⟩,
  -- TX_DROP_CNT
  ⟨0x079, 1, 0x050, 2, 4, [⟨16, 16, .rc, 0x0⟩, ⟨15, 0, .rc, 0x0⟩]⟩]

/-- HOSTLINK: 13 R384. -/
def regRowsHOSTLINK : List RegRow := [
  -- STATUS
  ⟨0x080, 1, 0x020, 1, 4, [⟨13, 13, .ro, 0x0⟩, ⟨12, 12, .ro, 0x0⟩, ⟨11, 8, .ro, 0x0⟩, ⟨2, 0, .ro, 0x0⟩]⟩,
  -- CFG
  ⟨0x080, 1, 0x024, 1, 4, [⟨5, 5, .rw, 0x1⟩, ⟨4, 4, .rw, 0x1⟩, ⟨3, 0, .rw, 0x5⟩]⟩,
  -- HOST_BASE
  ⟨0x080, 1, 0x028, 1, 4, [⟨23, 0, .rw, 0x0⟩]⟩,
  -- CPL_TMO
  ⟨0x080, 1, 0x02C, 1, 4, [⟨15, 0, .rw, 0x3E8⟩]⟩,
  -- E2E_CNT
  ⟨0x080, 1, 0x030, 1, 4, [⟨16, 16, .rc, 0x0⟩, ⟨15, 0, .rc, 0x0⟩]⟩,
  -- NAK_TX_CNT
  ⟨0x080, 1, 0x034, 1, 4, [⟨16, 16, .rc, 0x0⟩, ⟨15, 0, .rc, 0x0⟩]⟩,
  -- NAK_RX_CNT
  ⟨0x080, 1, 0x038, 1, 4, [⟨16, 16, .rc, 0x0⟩, ⟨15, 0, .rc, 0x0⟩]⟩,
  -- RETRY_CNT
  ⟨0x080, 1, 0x03C, 1, 4, [⟨16, 16, .rc, 0x0⟩, ⟨15, 0, .rc, 0x0⟩]⟩,
  -- TMO_CNT
  ⟨0x080, 1, 0x040, 1, 4, [⟨16, 16, .rc, 0x0⟩, ⟨15, 0, .rc, 0x0⟩]⟩,
  -- DROP_CNT
  ⟨0x080, 1, 0x044, 1, 4, [⟨16, 16, .rc, 0x0⟩, ⟨15, 0, .rc, 0x0⟩]⟩,
  -- NAK_LAST
  ⟨0x080, 1, 0x048, 1, 4, [⟨16, 7, .ro, 0x0⟩, ⟨6, 4, .ro, 0x0⟩, ⟨3, 0, .ro, 0x0⟩]⟩]

/-- ATTN: 13 R386. -/
def regRowsATTN : List RegRow := [
  -- CFG
  ⟨0x081, 1, 0x020, 1, 4, [⟨16, 16, .rw, 0x1⟩, ⟨15, 8, .rw, 0x0⟩, ⟨5, 0, .rw, 0x1⟩]⟩,
  -- STATUS
  ⟨0x081, 1, 0x024, 1, 4, [⟨17, 17, .ro, 0x0⟩, ⟨16, 10, .ro, 0x0⟩, ⟨9, 2, .ro, 0x0⟩, ⟨1, 1, .ro, 0x0⟩, ⟨0, 0, .ro, 0x0⟩]⟩,
  -- BLK_EN
  ⟨0x081, 1, 0x028, 2, 4, [⟨27, 0, .rw, 0x0⟩]⟩,
  -- BLK_EN2
  ⟨0x081, 1, 0x030, 1, 4, [⟨7, 0, .rw, 0x0⟩]⟩,
  -- BLK_PEND
  ⟨0x081, 1, 0x034, 3, 4, [⟨27, 0, .ro, 0x0⟩]⟩]

/-- POWER: 14 R407. -/
def regRowsPOWER : List RegRow := [
  -- DOMAIN_REQ
  ⟨0x090, 1, 0x020, 1, 4, [⟨1, 1, .wo, 0x0⟩, ⟨0, 0, .w1s, 0x0⟩]⟩,
  -- RESULT
  ⟨0x090, 1, 0x024, 1, 4, [⟨15, 8, .ro, 0x0⟩, ⟨7, 7, .ro, 0x0⟩, ⟨6, 4, .ro, 0x0⟩, ⟨3, 0, .ro, 0x0⟩]⟩,
  -- STATE
  ⟨0x090, 1, 0x030, 4, 4, [⟨27, 0, .ro, 0x0⟩]⟩,
  -- STATE4
  ⟨0x090, 1, 0x040, 1, 4, [⟨23, 0, .ro, 0x0⟩]⟩,
  -- REQ
  ⟨0x090, 1, 0x044, 4, 4, [⟨27, 0, .rw, 0xFFFFFFF⟩]⟩,
  -- REQ4
  ⟨0x090, 1, 0x054, 1, 4, [⟨23, 0, .rw, 0xFFFFFF⟩]⟩,
  -- KEEP_SEL
  ⟨0x090, 1, 0x060, 1, 4, [⟨6, 0, .rw, 0x0⟩]⟩,
  -- KEEP
  ⟨0x090, 1, 0x064, 1, 4, [⟨23, 0, .rw, 0x0⟩]⟩,
  -- BANK_COLD
  ⟨0x090, 1, 0x068, 1, 4, [⟨23, 0, .ro, 0x0⟩]⟩,
  -- BANK_INIT
  ⟨0x090, 1, 0x06C, 1, 4, [⟨27, 27, .w1s, 0x0⟩, ⟨26, 26, .ro, 0x0⟩, ⟨22, 16, .rw, 0x0⟩, ⟨4, 0, .rw, 0x0⟩]⟩,
  -- PAD_HELD
  ⟨0x090, 1, 0x070, 1, 4, [⟨12, 0, .ro, 0x0⟩]⟩,
  -- PAD_RELEASE
  ⟨0x090, 1, 0x074, 1, 4, [⟨12, 0, .w1s, 0x0⟩]⟩,
  -- DRAIN_TMO
  ⟨0x090, 1, 0x078, 1, 4, [⟨15, 0, .rw, 0x64⟩]⟩,
  -- WAKE_CFG
  ⟨0x090, 1, 0x080, 9, 4, [⟨5, 4, .rw, 0x0⟩, ⟨2, 2, .rw, 0x0⟩, ⟨1, 1, .rw, 0x0⟩, ⟨0, 0, .rw, 0x0⟩]⟩,
  -- WAKE_CFG9
  ⟨0x090, 1, 0x0A4, 4, 4, [⟨5, 4, .rw, 0x0⟩, ⟨0, 0, .rw, 0x0⟩]⟩,
  -- WAKE_SET0
  ⟨0x090, 1, 0x0C0, 4, 16, [⟨27, 0, .rw, 0x0⟩]⟩,
  -- WAKE_SET1
  ⟨0x090, 1, 0x0C4, 4, 16, [⟨27, 0, .rw, 0x0⟩]⟩,
  -- WAKE_SET2
  ⟨0x090, 1, 0x0C8, 4, 16, [⟨11, 0, .rw, 0x0⟩]⟩,
  -- TICK_CMP_LO
  ⟨0x090, 1, 0x100, 1, 4, [⟨27, 0, .rw, 0x0⟩]⟩,
  -- TICK_CMP_HI
  ⟨0x090, 1, 0x104, 1, 4, [⟨19, 0, .rw, 0x0⟩]⟩]

/-- CLOCKS: 15 R430. -/
def regRowsCLOCKS : List RegRow := [
  -- CFG
  ⟨0x091, 1, 0x020, 1, 4, [⟨12, 10, .rw, 0x3⟩, ⟨9, 8, .rw, 0x1⟩, ⟨7, 7, .rw, 0x1⟩, ⟨5, 4, .rw, 0x0⟩, ⟨1, 1, .rw, 0x0⟩, ⟨0, 0, .rw, 0x0⟩]⟩,
  -- STATUS
  ⟨0x091, 1, 0x024, 1, 4, [⟨23, 23, .ro, 0x0⟩, ⟨22, 22, .ro, 0x1⟩, ⟨21, 21, .ro, 0x1⟩, ⟨20, 20, .ro, 0x0⟩, ⟨19, 19, .ro, 0x0⟩, ⟨18, 18, .ro, 0x0⟩, ⟨17, 17, .ro, 0x0⟩, ⟨16, 16, .ro, 0x0⟩, ⟨15, 0, .ro, 0x0⟩]⟩,
  -- ISLANDS
  ⟨0x091, 1, 0x028, 1, 4, [⟨14, 14, .ro, 0x0⟩, ⟨13, 6, .ro, 0x0⟩, ⟨5, 5, .ro, 0x0⟩, ⟨4, 1, .ro, 0x0⟩, ⟨0, 0, .ro, 0x0⟩]⟩,
  -- XRESET
  ⟨0x091, 1, 0x02C, 1, 4, [⟨15, 0, .w1c, 0x0⟩]⟩,
  -- XLOST
  ⟨0x091, 1, 0x030, 1, 4, [⟨15, 0, .w1c, 0x0⟩]⟩,
  -- PULSE_LOST_CNT
  ⟨0x091, 1, 0x034, 1, 4, [⟨16, 16, .rc, 0x0⟩, ⟨15, 0, .rc, 0x0⟩]⟩,
  -- HOLDOVER_CNT
  ⟨0x091, 1, 0x038, 1, 4, [⟨16, 16, .rc, 0x0⟩, ⟨15, 0, .rc, 0x0⟩]⟩]

/-- IMAGE: 02 R83. -/
def regRowsIMAGE : List RegRow := [
  -- STATUS
  ⟨0x0A0, 1, 0x020, 1, 4, [⟨22, 16, .ro, 0x0⟩, ⟨11, 10, .ro, 0x3⟩, ⟨7, 7, .ro, 0x0⟩, ⟨6, 4, .ro, 0x0⟩]⟩,
  -- REJECT
  ⟨0x0A0, 1, 0x024, 1, 4, [⟨27, 16, .ro, 0xFFF⟩, ⟨15, 8, .ro, 0xFF⟩, ⟨7, 0, .ro, 0x0⟩]⟩,
  -- RUN_ID
  ⟨0x0A0, 1, 0x028, 3, 4, [⟨27, 0, .ro, 0x0⟩]⟩,
  -- CTRL
  ⟨0x0A0, 1, 0x034, 1, 4, [⟨27, 16, .rw, 0x0⟩, ⟨4, 4, .rw, 0x0⟩, ⟨1, 1, .wo, 0x0⟩, ⟨0, 0, .w1s, 0x0⟩]⟩,
  -- RESULT
  ⟨0x0A0, 1, 0x038, 1, 4, [⟨27, 16, .ro, 0x0⟩, ⟨4, 4, .ro, 0x0⟩, ⟨3, 0, .ro, 0x0⟩]⟩,
  -- BUDGET_CNT
  ⟨0x0A0, 1, 0x03C, 1, 4, [⟨16, 16, .rc, 0x0⟩, ⟨15, 0, .rc, 0x0⟩]⟩,
  -- CARRY
  ⟨0x0A0, 1, 0x040, 1, 4, [⟨21, 11, .ro, 0x0⟩, ⟨10, 0, .ro, 0x0⟩]⟩,
  -- CARRY_MOVED
  ⟨0x0A0, 1, 0x044, 1, 4, [⟨10, 0, .ro, 0x0⟩]⟩,
  -- SLOT_FIT
  ⟨0x0A0, 1, 0x100, 64, 4, [⟨21, 16, .ro, 0x0⟩, ⟨11, 11, .ro, 0x0⟩, ⟨9, 0, .ro, 0x0⟩]⟩,
  -- SLOT_CNT
  ⟨0x0A0, 1, 0x200, 64, 4, [⟨25, 25, .rc, 0x0⟩, ⟨24, 13, .rc, 0x0⟩, ⟨12, 12, .rc, 0x0⟩, ⟨11, 0, .rc, 0x0⟩]⟩]

/-- DEBUG: 16 R458. -/
def regRowsDEBUG : List RegRow := [
  -- SEL
  ⟨0x0F0, 1, 0x020, 1, 4, [⟨5, 0, .rw, 0x0⟩]⟩,
  -- CTRL
  ⟨0x0F0, 1, 0x024, 1, 4, [⟨2, 2, .wo, 0x0⟩, ⟨1, 1, .wo, 0x0⟩, ⟨0, 0, .w1s, 0x0⟩]⟩,
  -- PC
  ⟨0x0F0, 1, 0x028, 1, 4, [⟨14, 0, .ro, 0x0⟩]⟩,
  -- RSEL
  ⟨0x0F0, 1, 0x02C, 1, 4, [⟨6, 6, .rw, 0x0⟩, ⟨5, 0, .rw, 0x0⟩]⟩,
  -- RDATA
  ⟨0x0F0, 1, 0x030, 1, 4, [⟨27, 0, .rw, 0x0⟩]⟩,
  -- MADDR
  ⟨0x0F0, 1, 0x034, 1, 4, [⟨27, 0, .rw, 0x0⟩]⟩,
  -- MDATA
  ⟨0x0F0, 1, 0x038, 1, 4, [⟨27, 0, .rw, 0x0⟩]⟩,
  -- MSTAT
  ⟨0x0F0, 1, 0x03C, 1, 4, [⟨7, 0, .rc, 0x0⟩]⟩]

/-- Every live register row. -/
def regRows : List RegRow :=
  regRowsDEVICE ++ regRowsAON ++ regRowsFUSE ++ regRowsHEALTH ++ regRowsHEARTH ++ regRowsCTRL ++ regRowsROUTER ++ regRowsROUTER_SRC ++ regRowsROUTER_SRC2 ++ regRowsHOPC ++ regRowsHOPH ++ regRowsHOPE ++ regRowsSTOKER ++ regRowsFLASH ++ regRowsFCH ++ regRowsPORTS ++ regRowsPORT_TABLE ++ regRowsMIDI ++ regRowsHOSTLINK ++ regRowsATTN ++ regRowsPOWER ++ regRowsCLOCKS ++ regRowsIMAGE ++ regRowsDEBUG

/-- Does a row hold the register at an offset of a page? -/
def RegRow.holds (r : RegRow) (page off : Nat) : Bool :=
  r.page ≤ page && page < r.page + r.npages && r.off ≤ off && off < r.off + r.stride * r.cnt
    && (off - r.off) % r.stride == 0

/-- The row of a live register, none at a reserved offset (R11). -/
def regRow (page off : Nat) : Option RegRow := regRows.find? (fun r => r.holds page off)

/-- The reset value of a row's registers. -/
def RegRow.resetVal (r : RegRow) : Nat := (r.flds.map (fun f => f.reset * 2 ^ f.lo)).sum

/-- What a register holds at reset: the reset value of its tables; 0 at a reserved offset (R11). CTRL.STATUS.ROLE
resets by core (R472). -/
def regReset (key : Nat) : DW :=
  if key = 0x21020 then 0x321 else if key = 0x22020 then 0x322
  else match regRow (key / 0x1000) (key % 0x1000) with
    | some r => BitVec.ofNat 28 r.resetVal
    | none => 0

/-! Fields by name, PAGE.REGISTER.FIELD as the manual writes them. -/

def Reg.DEVICE.DEVICE_ID.PART : RegFld := ⟨0x000, 0x020, 4, 27, 16⟩
def Reg.DEVICE.DEVICE_ID.VARIANT : RegFld := ⟨0x000, 0x020, 4, 15, 8⟩
def Reg.DEVICE.REVISION.MAJOR : RegFld := ⟨0x000, 0x024, 4, 15, 8⟩
def Reg.DEVICE.REVISION.MINOR : RegFld := ⟨0x000, 0x024, 4, 7, 0⟩
def Reg.DEVICE.CAPS0.ISA_LEVEL : RegFld := ⟨0x000, 0x028, 4, 19, 16⟩
def Reg.DEVICE.CAPS0.CTRL_CORES : RegFld := ⟨0x000, 0x028, 4, 15, 12⟩
def Reg.DEVICE.CAPS0.CORES_PER_HEARTH : RegFld := ⟨0x000, 0x028, 4, 11, 8⟩
def Reg.DEVICE.CAPS0.HEARTHS : RegFld := ⟨0x000, 0x028, 4, 7, 0⟩
def Reg.DEVICE.CAPS1.MIDI_PAIRS : RegFld := ⟨0x000, 0x02C, 4, 27, 24⟩
def Reg.DEVICE.CAPS1.HOPPERS : RegFld := ⟨0x000, 0x02C, 4, 23, 16⟩
def Reg.DEVICE.CAPS1.FLASH_CHANNELS : RegFld := ⟨0x000, 0x02C, 4, 15, 12⟩
def Reg.DEVICE.CAPS1.LANE_GROUPS : RegFld := ⟨0x000, 0x02C, 4, 11, 8⟩
def Reg.DEVICE.CAPS1.LANES : RegFld := ⟨0x000, 0x02C, 4, 7, 0⟩
def Reg.DEVICE.CAPS2.STREAM_ENTRIES : RegFld := ⟨0x000, 0x030, 4, 26, 12⟩
def Reg.DEVICE.CAPS2.PORTS : RegFld := ⟨0x000, 0x030, 4, 11, 0⟩
def Reg.AON.FRAME_LO.FRAME : RegFld := ⟨0x001, 0x020, 4, 27, 0⟩
def Reg.AON.FRAME_HI.FRAME : RegFld := ⟨0x001, 0x024, 4, 19, 0⟩
def Reg.AON.TICK_LO.TICK : RegFld := ⟨0x001, 0x028, 4, 27, 0⟩
def Reg.AON.TICK_HI.TICK : RegFld := ⟨0x001, 0x02C, 4, 19, 0⟩
def Reg.AON.RESET_CAUSE.SYSRST : RegFld := ⟨0x001, 0x030, 4, 1, 1⟩
def Reg.AON.RESET_CAUSE.POR : RegFld := ⟨0x001, 0x030, 4, 0, 0⟩
def Reg.AON.BOOT.BOOTSEL : RegFld := ⟨0x001, 0x034, 4, 27, 26⟩
def Reg.AON.BOOT.OUTCOME : RegFld := ⟨0x001, 0x034, 4, 25, 22⟩
def Reg.AON.BOOT.FIRST_MS : RegFld := ⟨0x001, 0x034, 4, 15, 0⟩
def Reg.AON.WAKE_LAST.VALID : RegFld := ⟨0x001, 0x100, 4, 27, 27⟩
def Reg.AON.WAKE_LAST.DURING_ENTRY : RegFld := ⟨0x001, 0x100, 4, 26, 26⟩
def Reg.AON.WAKE_LAST.MULTIPLE : RegFld := ⟨0x001, 0x100, 4, 25, 25⟩
def Reg.AON.WAKE_LAST.LEVEL : RegFld := ⟨0x001, 0x100, 4, 24, 24⟩
def Reg.AON.WAKE_LAST.SET : RegFld := ⟨0x001, 0x100, 4, 21, 20⟩
def Reg.AON.WAKE_LAST.SOURCE : RegFld := ⟨0x001, 0x100, 4, 4, 0⟩
def Reg.AON.WAKE_WOKEN.MASK : RegFld := ⟨0x001, 0x104, 4, 27, 0⟩
def Reg.AON.WAKE_STAMP_LO.TICK : RegFld := ⟨0x001, 0x110, 4, 27, 0⟩
def Reg.AON.WAKE_STAMP_HI.TICK : RegFld := ⟨0x001, 0x114, 4, 19, 0⟩
def Reg.AON.COLD_ACCESS.WRITE : RegFld := ⟨0x001, 0x118, 4, 27, 27⟩
def Reg.AON.COLD_ACCESS.REQ : RegFld := ⟨0x001, 0x118, 4, 26, 26⟩
def Reg.AON.COLD_ACCESS.MEM : RegFld := ⟨0x001, 0x118, 4, 25, 25⟩
def Reg.AON.COLD_ACCESS.DOMAIN : RegFld := ⟨0x001, 0x118, 4, 23, 17⟩
def Reg.AON.COLD_ACCESS.OVF : RegFld := ⟨0x001, 0x118, 4, 16, 16⟩
def Reg.AON.COLD_ACCESS.COUNT : RegFld := ⟨0x001, 0x118, 4, 15, 0⟩
def Reg.AON.COLD_ADDR.ADDR : RegFld := ⟨0x001, 0x11C, 4, 27, 0⟩
def Reg.FUSE.CHIP_ID.ID : RegFld := ⟨0x002, 0x020, 4, 27, 0⟩
def Reg.FUSE.KEY_HASH.HASH : RegFld := ⟨0x002, 0x030, 4, 27, 0⟩
def Reg.FUSE.ROM_ID.ROM_ID : RegFld := ⟨0x002, 0x060, 4, 15, 0⟩
def Reg.FUSE.FLOOR.FLOOR : RegFld := ⟨0x002, 0x064, 4, 5, 0⟩
def Reg.FUSE.STATUS.BLOW_FAIL : RegFld := ⟨0x002, 0x068, 4, 2, 2⟩
def Reg.FUSE.STATUS.BLOWING : RegFld := ⟨0x002, 0x068, 4, 1, 1⟩
def Reg.FUSE.STATUS.SEALED : RegFld := ⟨0x002, 0x068, 4, 0, 0⟩
def Reg.FUSE.SEAL_CMD.KEY : RegFld := ⟨0x002, 0x06C, 4, 27, 0⟩
def Reg.HEALTH.SWEEP_REASON.REASON : RegFld := ⟨0x003, 0x020, 4, 5, 0⟩
def Reg.HEALTH.STATUS.REC : RegFld := ⟨0x003, 0x024, 4, 27, 26⟩
def Reg.HEALTH.STATUS.SWEEP_DRIVEN : RegFld := ⟨0x003, 0x024, 4, 25, 25⟩
def Reg.HEALTH.STATUS.SWEEP_LEVEL : RegFld := ⟨0x003, 0x024, 4, 24, 24⟩
def Reg.HEALTH.STATUS.FOLDS : RegFld := ⟨0x003, 0x024, 4, 23, 18⟩
def Reg.HEALTH.STATUS.SPARES : RegFld := ⟨0x003, 0x024, 4, 17, 13⟩
def Reg.HEALTH.SPARE_MAP.USED : RegFld := ⟨0x003, 0x028, 4, 15, 0⟩
def Reg.HEALTH.FOLD_LO.FOLDS : RegFld := ⟨0x003, 0x02C, 4, 27, 0⟩
def Reg.HEALTH.FOLD_HI.FOLDS : RegFld := ⟨0x003, 0x030, 4, 3, 0⟩
def Reg.HEALTH.CTRL.RETIRED : RegFld := ⟨0x003, 0x034, 4, 8, 6⟩
def Reg.HEALTH.CTRL.SPARE : RegFld := ⟨0x003, 0x034, 4, 5, 4⟩
def Reg.HEALTH.CTRL.STANDBY : RegFld := ⟨0x003, 0x034, 4, 3, 2⟩
def Reg.HEALTH.CTRL.ACTIVE : RegFld := ⟨0x003, 0x034, 4, 1, 0⟩
def Reg.HEALTH.PATCH_SEQ.SEQ : RegFld := ⟨0x003, 0x038, 4, 27, 0⟩
def Reg.HEALTH.REC_SEQ.SEQ : RegFld := ⟨0x003, 0x03C, 4, 27, 0⟩
def Reg.HEALTH.CFG.SR_LIMIT : RegFld := ⟨0x003, 0x040, 4, 7, 0⟩
def Reg.HEALTH.SR_DAY.COUNT : RegFld := ⟨0x003, 0x044, 4, 15, 0⟩
def Reg.HEALTH.TJ.AVG : RegFld := ⟨0x003, 0x048, 4, 17, 9⟩
def Reg.HEALTH.TJ.NOW : RegFld := ⟨0x003, 0x048, 4, 8, 0⟩
def Reg.HEALTH.HOURS.HOURS : RegFld := ⟨0x003, 0x04C, 4, 27, 0⟩
def Reg.HEALTH.CE_DAY.UE : RegFld := ⟨0x003, 0x060, 4, 27, 16⟩
def Reg.HEALTH.CE_DAY.CE : RegFld := ⟨0x003, 0x060, 4, 15, 0⟩
def Reg.HEALTH.HEAD.MIN : RegFld := ⟨0x003, 0x080, 4, 20, 14⟩
def Reg.HEALTH.HEAD.DAY30 : RegFld := ⟨0x003, 0x080, 4, 13, 7⟩
def Reg.HEALTH.HEAD.NOW : RegFld := ⟨0x003, 0x080, 4, 6, 0⟩
def Reg.HEALTH.FLARE.DAY : RegFld := ⟨0x003, 0x0C0, 4, 27, 16⟩
def Reg.HEALTH.FLARE.TOTAL : RegFld := ⟨0x003, 0x0C0, 4, 15, 0⟩
def Reg.HEARTH.SLOTMAP.SHARED : RegFld := ⟨0x010, 0x020, 4, 15, 12⟩
def Reg.HEARTH.SLOTMAP.CORE3 : RegFld := ⟨0x010, 0x020, 4, 11, 9⟩
def Reg.HEARTH.SLOTMAP.CORE2 : RegFld := ⟨0x010, 0x020, 4, 8, 6⟩
def Reg.HEARTH.SLOTMAP.CORE1 : RegFld := ⟨0x010, 0x020, 4, 5, 3⟩
def Reg.HEARTH.SLOTMAP.CORE0 : RegFld := ⟨0x010, 0x020, 4, 2, 0⟩
def Reg.HEARTH.CORES.BEYOND : RegFld := ⟨0x010, 0x024, 4, 15, 15⟩
def Reg.HEARTH.CORES.SPARE_USED : RegFld := ⟨0x010, 0x024, 4, 14, 14⟩
def Reg.HEARTH.CORES.FOLDS : RegFld := ⟨0x010, 0x024, 4, 13, 12⟩
def Reg.HEARTH.CORES.STATE : RegFld := ⟨0x010, 0x024, 4, 9, 0⟩
def Reg.HEARTH.FOLD.FIT : RegFld := ⟨0x010, 0x028, 4, 11, 11⟩
def Reg.HEARTH.FOLD.CUT : RegFld := ⟨0x010, 0x028, 4, 9, 0⟩
def Reg.HEARTH.PERSIST.OVF : RegFld := ⟨0x010, 0x02C, 4, 16, 16⟩
def Reg.HEARTH.PERSIST.COUNT : RegFld := ⟨0x010, 0x02C, 4, 15, 0⟩
def Reg.HEARTH.RESTART.OVF : RegFld := ⟨0x010, 0x030, 4, 16, 16⟩
def Reg.HEARTH.RESTART.COUNT : RegFld := ⟨0x010, 0x030, 4, 15, 0⟩
def Reg.HEARTH.STALL.OVF : RegFld := ⟨0x010, 0x034, 4, 16, 16⟩
def Reg.HEARTH.STALL.COUNT : RegFld := ⟨0x010, 0x034, 4, 15, 0⟩
def Reg.HEARTH.STATE_RESET.OVF : RegFld := ⟨0x010, 0x038, 4, 16, 16⟩
def Reg.HEARTH.STATE_RESET.COUNT : RegFld := ⟨0x010, 0x038, 4, 15, 0⟩
def Reg.HEARTH.LAST_FAULT.FRAME : RegFld := ⟨0x010, 0x03C, 4, 27, 16⟩
def Reg.HEARTH.LAST_FAULT.KIND : RegFld := ⟨0x010, 0x03C, 4, 15, 12⟩
def Reg.HEARTH.LAST_FAULT.SLOT : RegFld := ⟨0x010, 0x03C, 4, 9, 8⟩
def Reg.HEARTH.LAST_FAULT.CORE : RegFld := ⟨0x010, 0x03C, 4, 2, 0⟩
def Reg.HEARTH.TEMPO.HEADROOM : RegFld := ⟨0x010, 0x040, 4, 17, 17⟩
def Reg.HEARTH.TEMPO.FLARE : RegFld := ⟨0x010, 0x040, 4, 16, 16⟩
def Reg.HEARTH.TEMPO.SET : RegFld := ⟨0x010, 0x040, 4, 15, 8⟩
def Reg.HEARTH.TEMPO.REG : RegFld := ⟨0x010, 0x040, 4, 7, 0⟩
def Reg.HEARTH.FINISH.WATCH : RegFld := ⟨0x010, 0x044, 4, 11, 11⟩
def Reg.HEARTH.FINISH.OCC : RegFld := ⟨0x010, 0x044, 4, 9, 0⟩
def Reg.HEARTH.STEPS.STEPS : RegFld := ⟨0x010, 0x050, 4, 22, 0⟩
def Reg.HEARTH.PEN.PEN : RegFld := ⟨0x010, 0x060, 4, 22, 0⟩
def Reg.HEARTH.PEAK.PEAK : RegFld := ⟨0x010, 0x070, 4, 22, 0⟩
def Reg.HEARTH.MISMATCH.OVF : RegFld := ⟨0x010, 0x080, 4, 16, 16⟩
def Reg.HEARTH.MISMATCH.COUNT : RegFld := ⟨0x010, 0x080, 4, 15, 0⟩
def Reg.CTRL.STATUS.SET : RegFld := ⟨0x020, 0x020, 4, 11, 4⟩
def Reg.CTRL.STATUS.RUN : RegFld := ⟨0x020, 0x020, 4, 2, 2⟩
def Reg.CTRL.STATUS.ROLE : RegFld := ⟨0x020, 0x020, 4, 1, 0⟩
def Reg.CTRL.MISMATCH.OVF : RegFld := ⟨0x020, 0x024, 4, 16, 16⟩
def Reg.CTRL.MISMATCH.COUNT : RegFld := ⟨0x020, 0x024, 4, 15, 0⟩
def Reg.ROUTER.SET_PEND.TARGET : RegFld := ⟨0x030, 0x040, 4, 22, 16⟩
def Reg.ROUTER.SET_PEND.SOURCE : RegFld := ⟨0x030, 0x040, 4, 9, 0⟩
def Reg.ROUTER.CLR_PEND.TARGET : RegFld := ⟨0x030, 0x044, 4, 22, 16⟩
def Reg.ROUTER.CLR_PEND.SOURCE : RegFld := ⟨0x030, 0x044, 4, 9, 0⟩
def Reg.ROUTER.PRIV_PRI.PRI2 : RegFld := ⟨0x030, 0x060, 4, 23, 16⟩
def Reg.ROUTER.PRIV_PRI.PRI1 : RegFld := ⟨0x030, 0x060, 4, 15, 8⟩
def Reg.ROUTER.PRIV_PRI.PRI0 : RegFld := ⟨0x030, 0x060, 4, 7, 0⟩
def Reg.ROUTER.PRIV_PRI10.PRI1 : RegFld := ⟨0x030, 0x088, 4, 15, 8⟩
def Reg.ROUTER.PRIV_PRI10.PRI0 : RegFld := ⟨0x030, 0x088, 4, 7, 0⟩
def Reg.ROUTER.SH_PEND.PEND : RegFld := ⟨0x030, 0x100, 4, 15, 0⟩
def Reg.ROUTER.TGT_CFG.MOD_WIN : RegFld := ⟨0x030, 0x200, 16, 13, 8⟩
def Reg.ROUTER.TGT_CFG.GROUP_BITS : RegFld := ⟨0x030, 0x200, 16, 2, 0⟩
def Reg.ROUTER.TGT_EN_LO.EN : RegFld := ⟨0x030, 0x204, 16, 15, 0⟩
def Reg.ROUTER.TGT_EN_HI.EN : RegFld := ⟨0x030, 0x208, 16, 15, 0⟩
def Reg.ROUTER.TGT_STAT.ASLEEP : RegFld := ⟨0x030, 0x20C, 16, 27, 27⟩
def Reg.ROUTER.TGT_STAT.IDLE : RegFld := ⟨0x030, 0x20C, 16, 26, 26⟩
def Reg.ROUTER.TGT_STAT.DEPTH : RegFld := ⟨0x030, 0x20C, 16, 25, 22⟩
def Reg.ROUTER.TGT_STAT.RUN_GROUP : RegFld := ⟨0x030, 0x20C, 16, 15, 8⟩
def Reg.ROUTER.TGT_CFG_CTRL.MOD_WIN : RegFld := ⟨0x030, 0x600, 16, 13, 8⟩
def Reg.ROUTER.TGT_CFG_CTRL.GROUP_BITS : RegFld := ⟨0x030, 0x600, 16, 2, 0⟩
def Reg.ROUTER.TGT_EN_LO_CTRL.EN : RegFld := ⟨0x030, 0x604, 16, 15, 0⟩
def Reg.ROUTER.TGT_EN_HI_CTRL.EN : RegFld := ⟨0x030, 0x608, 16, 15, 0⟩
def Reg.ROUTER_SRC.SRC_CFG.WAKE : RegFld := ⟨0x031, 0x100, 4, 17, 17⟩
def Reg.ROUTER_SRC.SRC_CFG.ENABLE : RegFld := ⟨0x031, 0x100, 4, 16, 16⟩
def Reg.ROUTER_SRC.SRC_CFG.PRIORITY : RegFld := ⟨0x031, 0x100, 4, 15, 8⟩
def Reg.ROUTER_SRC.SRC_CFG.TARGET : RegFld := ⟨0x031, 0x100, 4, 6, 0⟩
def Reg.ROUTER_SRC.SRC_CFG_MIRROR.WAKE : RegFld := ⟨0x033, 0x200, 4, 17, 17⟩
def Reg.ROUTER_SRC.SRC_CFG_MIRROR.ENABLE : RegFld := ⟨0x033, 0x200, 4, 16, 16⟩
def Reg.ROUTER_SRC.SRC_CFG_MIRROR.PRIORITY : RegFld := ⟨0x033, 0x200, 4, 15, 8⟩
def Reg.ROUTER_SRC.SRC_CFG_MIRROR.TARGET : RegFld := ⟨0x033, 0x200, 4, 6, 0⟩
def Reg.HOP.CFG.MODE : RegFld := ⟨0x040, 0x024, 4, 20, 20⟩
def Reg.HOP.CFG.CONSUMER : RegFld := ⟨0x040, 0x024, 4, 19, 13⟩
def Reg.HOP.CFG.LEVEL : RegFld := ⟨0x040, 0x024, 4, 12, 0⟩
def Reg.HOP.PROD0.ID : RegFld := ⟨0x040, 0x028, 4, 19, 13⟩
def Reg.HOP.PROD0.CREDIT : RegFld := ⟨0x040, 0x028, 4, 12, 0⟩
def Reg.HOP.PROD.ID : RegFld := ⟨0x040, 0x02C, 4, 19, 13⟩
def Reg.HOP.PROD.CREDIT : RegFld := ⟨0x040, 0x02C, 4, 12, 0⟩
def Reg.HOP.STATUS.DISCARDING : RegFld := ⟨0x040, 0x020, 4, 27, 27⟩
def Reg.HOP.STATUS.FLUSH_PEND : RegFld := ⟨0x040, 0x020, 4, 26, 26⟩
def Reg.HOP.STATUS.USED : RegFld := ⟨0x040, 0x020, 4, 25, 13⟩
def Reg.HOP.STATUS.FILL : RegFld := ⟨0x040, 0x020, 4, 12, 0⟩
def Reg.HOP.ACCT.HELD : RegFld := ⟨0x040, 0x038, 4, 25, 13⟩
def Reg.HOP.ACCT.AVAIL : RegFld := ⟨0x040, 0x038, 4, 12, 0⟩
def Reg.HOP.CTRL.FLUSH : RegFld := ⟨0x040, 0x048, 4, 1, 1⟩
def Reg.HOP.CTRL.DROP : RegFld := ⟨0x040, 0x048, 4, 0, 0⟩
def Reg.HOP.DROP_RES.ABORT_LATE : RegFld := ⟨0x040, 0x04C, 4, 4, 4⟩
def Reg.HOP.DROP_RES.STATUS : RegFld := ⟨0x040, 0x04C, 4, 3, 0⟩
def Reg.HOP.PROTO_CNT.OVF : RegFld := ⟨0x040, 0x050, 4, 16, 16⟩
def Reg.HOP.PROTO_CNT.COUNT : RegFld := ⟨0x040, 0x050, 4, 15, 0⟩
def Reg.HOP.PROTO_LAST.FRAME : RegFld := ⟨0x040, 0x054, 4, 27, 16⟩
def Reg.HOP.PROTO_LAST.PRODUCER : RegFld := ⟨0x040, 0x054, 4, 14, 8⟩
def Reg.HOP.PROTO_LAST.REASON : RegFld := ⟨0x040, 0x054, 4, 7, 0⟩
def Reg.HOP.POISON_CNT.OVF : RegFld := ⟨0x040, 0x058, 4, 16, 16⟩
def Reg.HOP.POISON_CNT.COUNT : RegFld := ⟨0x040, 0x058, 4, 15, 0⟩
def Reg.STOKER.ACTIVE.COUNT : RegFld := ⟨0x050, 0x020, 4, 14, 0⟩
def Reg.STOKER.RESIDENT.COUNT : RegFld := ⟨0x050, 0x024, 4, 14, 0⟩
def Reg.STOKER.TABLE_BASE.VALUE : RegFld := ⟨0x050, 0x028, 4, 27, 0⟩
def Reg.STOKER.ENTRIES.VALUE : RegFld := ⟨0x050, 0x02C, 4, 14, 0⟩
def Reg.STOKER.READ_BUDGET.VALUE : RegFld := ⟨0x050, 0x030, 4, 21, 0⟩
def Reg.STOKER.MAX_STREAMS.VALUE : RegFld := ⟨0x050, 0x034, 4, 13, 0⟩
def Reg.STOKER.CEILING.VALUE : RegFld := ⟨0x050, 0x038, 4, 21, 0⟩
def Reg.STOKER.GROUP_CEIL.GROUPS : RegFld := ⟨0x050, 0x03C, 4, 27, 24⟩
def Reg.STOKER.GROUP_CEIL.VALUE : RegFld := ⟨0x050, 0x03C, 4, 21, 0⟩
def Reg.STOKER.CHARGED.VALUE : RegFld := ⟨0x050, 0x040, 4, 21, 0⟩
def Reg.STOKER.REFUSED_CNT.OVF : RegFld := ⟨0x050, 0x044, 4, 16, 16⟩
def Reg.STOKER.REFUSED_CNT.COUNT : RegFld := ⟨0x050, 0x044, 4, 15, 0⟩
def Reg.STOKER.LATE_CNT.OVF : RegFld := ⟨0x050, 0x048, 4, 16, 16⟩
def Reg.STOKER.LATE_CNT.COUNT : RegFld := ⟨0x050, 0x048, 4, 15, 0⟩
def Reg.STOKER.REBUILD_CNT.OVF : RegFld := ⟨0x050, 0x04C, 4, 16, 16⟩
def Reg.STOKER.REBUILD_CNT.COUNT : RegFld := ⟨0x050, 0x04C, 4, 15, 0⟩
def Reg.STOKER.DATA_ERR_CNT.OVF : RegFld := ⟨0x050, 0x050, 4, 16, 16⟩
def Reg.STOKER.DATA_ERR_CNT.COUNT : RegFld := ⟨0x050, 0x050, 4, 15, 0⟩
def Reg.STOKER.LAST_REFUSE.SLOT : RegFld := ⟨0x050, 0x054, 4, 27, 22⟩
def Reg.STOKER.LAST_REFUSE.REASON : RegFld := ⟨0x050, 0x054, 4, 21, 14⟩
def Reg.STOKER.LAST_REFUSE.ENTRY : RegFld := ⟨0x050, 0x054, 4, 13, 0⟩
def Reg.STOKER.WORST.US : RegFld := ⟨0x050, 0x058, 4, 15, 0⟩
def Reg.STOKER.PIN_FIRST.ENTRY : RegFld := ⟨0x050, 0x060, 4, 13, 0⟩
def Reg.STOKER.PIN_LAST.ENTRY : RegFld := ⟨0x050, 0x064, 4, 13, 0⟩
def Reg.STOKER.PIN_CMD.UNPIN : RegFld := ⟨0x050, 0x068, 4, 1, 1⟩
def Reg.STOKER.PIN_CMD.PIN : RegFld := ⟨0x050, 0x068, 4, 0, 0⟩
def Reg.STOKER.PIN_STAT.DONE : RegFld := ⟨0x050, 0x06C, 4, 27, 14⟩
def Reg.STOKER.PIN_STAT.FAILED : RegFld := ⟨0x050, 0x06C, 4, 13, 0⟩
def Reg.STOKER.KILL.ENTRY : RegFld := ⟨0x050, 0x070, 4, 13, 0⟩
def Reg.STOKER.INSPECT_SEL.ENTRY : RegFld := ⟨0x050, 0x074, 4, 13, 0⟩
def Reg.STOKER.INSPECT_STATE.STATE : RegFld := ⟨0x050, 0x078, 4, 27, 26⟩
def Reg.STOKER.INSPECT_STATE.HEAD_VALID : RegFld := ⟨0x050, 0x078, 4, 25, 25⟩
def Reg.STOKER.INSPECT_STATE.OWNER : RegFld := ⟨0x050, 0x078, 4, 24, 19⟩
def Reg.STOKER.INSPECT_STATE.CHARGE : RegFld := ⟨0x050, 0x078, 4, 11, 0⟩
def Reg.STOKER.INSPECT_Q.Q_NEED : RegFld := ⟨0x050, 0x07C, 4, 27, 0⟩
def Reg.STOKER.GROUP_LOAD.CHARGED : RegFld := ⟨0x050, 0x080, 4, 21, 0⟩
def Reg.FLASH.STATUS.FAIL_REASON : RegFld := ⟨0x058, 0x020, 4, 23, 16⟩
def Reg.FLASH.STATUS.VOL_FMT : RegFld := ⟨0x058, 0x020, 4, 15, 8⟩
def Reg.FLASH.STATUS.MOUNT : RegFld := ⟨0x058, 0x020, 4, 2, 0⟩
def Reg.FLASH.GEOM0.GROUPS : RegFld := ⟨0x058, 0x024, 4, 27, 24⟩
def Reg.FLASH.GEOM0.PLANES : RegFld := ⟨0x058, 0x024, 4, 23, 20⟩
def Reg.FLASH.GEOM0.CW : RegFld := ⟨0x058, 0x024, 4, 19, 16⟩
def Reg.FLASH.GEOM0.PPB : RegFld := ⟨0x058, 0x024, 4, 13, 0⟩
def Reg.FLASH.GEOM1.BLOCKS : RegFld := ⟨0x058, 0x028, 4, 27, 14⟩
def Reg.FLASH.GEOM1.STRIPES : RegFld := ⟨0x058, 0x028, 4, 13, 0⟩
def Reg.FLASH.TIMING.TPROG : RegFld := ⟨0x058, 0x02C, 4, 27, 16⟩
def Reg.FLASH.TIMING.TR : RegFld := ⟨0x058, 0x02C, 4, 15, 6⟩
def Reg.FLASH.TIMING.TBERS : RegFld := ⟨0x058, 0x02C, 4, 5, 0⟩
def Reg.FLASH.CFG.RD_FRAC : RegFld := ⟨0x058, 0x030, 4, 27, 20⟩
def Reg.FLASH.CFG.MAINT_SHARE : RegFld := ⟨0x058, 0x030, 4, 19, 12⟩
def Reg.FLASH.CFG.WRITE_CAP : RegFld := ⟨0x058, 0x030, 4, 11, 0⟩
def Reg.FLASH.RD_LIMIT.LIMIT : RegFld := ⟨0x058, 0x034, 4, 19, 0⟩
def Reg.FLASH.REFRESH_BITS.BITS : RegFld := ⟨0x058, 0x038, 4, 9, 0⟩
def Reg.FLASH.MAPPED.COUNT : RegFld := ⟨0x058, 0x03C, 4, 16, 0⟩
def Reg.FLASH.FREE.COUNT : RegFld := ⟨0x058, 0x040, 4, 16, 0⟩
def Reg.FLASH.SPARE_MIN.PCT : RegFld := ⟨0x058, 0x044, 4, 27, 20⟩
def Reg.FLASH.SPARE_MIN.LUN : RegFld := ⟨0x058, 0x044, 4, 6, 0⟩
def Reg.FLASH.WEAR.PE_MAX : RegFld := ⟨0x058, 0x048, 4, 27, 14⟩
def Reg.FLASH.WEAR.PE_AVG : RegFld := ⟨0x058, 0x048, 4, 13, 0⟩
def Reg.FLASH.PATROL.AGE_H : RegFld := ⟨0x058, 0x04C, 4, 15, 0⟩
def Reg.FLASH.SOFT_CNT.OVF : RegFld := ⟨0x058, 0x050, 4, 16, 16⟩
def Reg.FLASH.SOFT_CNT.COUNT : RegFld := ⟨0x058, 0x050, 4, 15, 0⟩
def Reg.FLASH.RETRY_CNT.OVF : RegFld := ⟨0x058, 0x054, 4, 16, 16⟩
def Reg.FLASH.RETRY_CNT.COUNT : RegFld := ⟨0x058, 0x054, 4, 15, 0⟩
def Reg.FLASH.REBUILD_CNT.OVF : RegFld := ⟨0x058, 0x058, 4, 16, 16⟩
def Reg.FLASH.REBUILD_CNT.COUNT : RegFld := ⟨0x058, 0x058, 4, 15, 0⟩
def Reg.FLASH.LOSS_CNT.OVF : RegFld := ⟨0x058, 0x05C, 4, 16, 16⟩
def Reg.FLASH.LOSS_CNT.COUNT : RegFld := ⟨0x058, 0x05C, 4, 15, 0⟩
def Reg.FLASH.RELOC_CNT.OVF : RegFld := ⟨0x058, 0x060, 4, 16, 16⟩
def Reg.FLASH.RELOC_CNT.COUNT : RegFld := ⟨0x058, 0x060, 4, 15, 0⟩
def Reg.FLASH.REFRESH_CNT.OVF : RegFld := ⟨0x058, 0x064, 4, 16, 16⟩
def Reg.FLASH.REFRESH_CNT.COUNT : RegFld := ⟨0x058, 0x064, 4, 15, 0⟩
def Reg.FLASH.BAD_CNT.OVF : RegFld := ⟨0x058, 0x068, 4, 16, 16⟩
def Reg.FLASH.BAD_CNT.COUNT : RegFld := ⟨0x058, 0x068, 4, 15, 0⟩
def Reg.FLASH.LUN_STAT.STATE : RegFld := ⟨0x058, 0x100, 4, 27, 26⟩
def Reg.FLASH.LUN_STAT.SPARES : RegFld := ⟨0x058, 0x100, 4, 25, 12⟩
def Reg.FLASH.LUN_STAT.GROWN : RegFld := ⟨0x058, 0x100, 4, 11, 0⟩
def Reg.FCH.STATUS.LUNS : RegFld := ⟨0x060, 0x020, 4, 27, 23⟩
def Reg.FCH.STATUS.CE_MASK : RegFld := ⟨0x060, 0x020, 4, 22, 19⟩
def Reg.FCH.STATUS.VIO : RegFld := ⟨0x060, 0x020, 4, 18, 17⟩
def Reg.FCH.STATUS.MODE : RegFld := ⟨0x060, 0x020, 4, 16, 14⟩
def Reg.FCH.STATUS.MTS : RegFld := ⟨0x060, 0x020, 4, 13, 0⟩
def Reg.FCH.CFG.MODE_MAX : RegFld := ⟨0x060, 0x024, 4, 16, 14⟩
def Reg.FCH.CFG.MTS_MAX : RegFld := ⟨0x060, 0x024, 4, 13, 0⟩
def Reg.FCH.TIMEOUT_CNT.OVF : RegFld := ⟨0x060, 0x028, 4, 16, 16⟩
def Reg.FCH.TIMEOUT_CNT.COUNT : RegFld := ⟨0x060, 0x028, 4, 15, 0⟩
def Reg.FCH.TRAIN_CNT.OVF : RegFld := ⟨0x060, 0x02C, 4, 16, 16⟩
def Reg.FCH.TRAIN_CNT.COUNT : RegFld := ⟨0x060, 0x02C, 4, 15, 0⟩
def Reg.PORTS.GCFG.SRATE : RegFld := ⟨0x070, 0x020, 4, 9, 8⟩
def Reg.PORTS.GCFG.DELAY : RegFld := ⟨0x070, 0x020, 4, 6, 6⟩
def Reg.PORTS.GCFG.SLOTS : RegFld := ⟨0x070, 0x020, 4, 5, 4⟩
def Reg.PORTS.GCFG.MASTER : RegFld := ⟨0x070, 0x020, 4, 3, 3⟩
def Reg.PORTS.GCFG.GFMT : RegFld := ⟨0x070, 0x020, 4, 2, 0⟩
def Reg.PORTS.GSTAT.PHASE : RegFld := ⟨0x070, 0x024, 4, 15, 8⟩
def Reg.PORTS.GSTAT.GLOCK : RegFld := ⟨0x070, 0x024, 4, 2, 2⟩
def Reg.PORTS.GSTAT.VIO : RegFld := ⟨0x070, 0x024, 4, 1, 0⟩
def Reg.PORTS.LANE_CFG.VMUTE : RegFld := ⟨0x070, 0x030, 4, 3, 3⟩
def Reg.PORTS.LANE_CFG.DIR : RegFld := ⟨0x070, 0x030, 4, 2, 2⟩
def Reg.PORTS.LANE_CFG.FMT : RegFld := ⟨0x070, 0x030, 4, 1, 0⟩
def Reg.PORTS.LANE_STAT.MADI_CH : RegFld := ⟨0x070, 0x050, 4, 9, 3⟩
def Reg.PORTS.LANE_STAT.CFG_BAD : RegFld := ⟨0x070, 0x050, 4, 2, 2⟩
def Reg.PORTS.LANE_STAT.RATE_OK : RegFld := ⟨0x070, 0x050, 4, 1, 1⟩
def Reg.PORTS.LANE_STAT.LOCK : RegFld := ⟨0x070, 0x050, 4, 0, 0⟩
def Reg.PORTS.LANE_PERR.OVF : RegFld := ⟨0x070, 0x070, 4, 16, 16⟩
def Reg.PORTS.LANE_PERR.COUNT : RegFld := ⟨0x070, 0x070, 4, 15, 0⟩
def Reg.PORTS.LANE_VCNT.OVF : RegFld := ⟨0x070, 0x090, 4, 16, 16⟩
def Reg.PORTS.LANE_VCNT.COUNT : RegFld := ⟨0x070, 0x090, 4, 15, 0⟩
def Reg.PORTS.LANE_SLIP.OVF : RegFld := ⟨0x070, 0x0B0, 4, 16, 16⟩
def Reg.PORTS.LANE_SLIP.COUNT : RegFld := ⟨0x070, 0x0B0, 4, 15, 0⟩
def Reg.PORT_TABLE.BUF_BASE.ADDR : RegFld := ⟨0x078, 0x020, 4, 27, 0⟩
def Reg.PORT_TABLE.PT_WRITE.UPDATE : RegFld := ⟨0x078, 0x024, 4, 27, 0⟩
def Reg.PORT_TABLE.PT_SEL.PORT : RegFld := ⟨0x078, 0x028, 4, 9, 0⟩
def Reg.PORT_TABLE.PT_READ.ENTRY : RegFld := ⟨0x078, 0x02C, 4, 27, 4⟩
def Reg.PORT_TABLE.PT_READ.ACTIVE : RegFld := ⟨0x078, 0x02C, 4, 3, 3⟩
def Reg.PORT_TABLE.PT_QUEUE.COUNT : RegFld := ⟨0x078, 0x030, 4, 10, 0⟩
def Reg.PORT_TABLE.PORT_OWNER.OWN3 : RegFld := ⟨0x078, 0x100, 4, 27, 21⟩
def Reg.PORT_TABLE.PORT_OWNER.OWN2 : RegFld := ⟨0x078, 0x100, 4, 20, 14⟩
def Reg.PORT_TABLE.PORT_OWNER.OWN1 : RegFld := ⟨0x078, 0x100, 4, 13, 7⟩
def Reg.PORT_TABLE.PORT_OWNER.OWN0 : RegFld := ⟨0x078, 0x100, 4, 6, 0⟩
def Reg.MIDI.CFG.TX_HOP : RegFld := ⟨0x079, 0x020, 4, 15, 12⟩
def Reg.MIDI.CFG.AS_FILT : RegFld := ⟨0x079, 0x020, 4, 10, 10⟩
def Reg.MIDI.CFG.RT_PRI : RegFld := ⟨0x079, 0x020, 4, 9, 7⟩
def Reg.MIDI.CFG.PRI : RegFld := ⟨0x079, 0x020, 4, 6, 4⟩
def Reg.MIDI.CFG.HOP : RegFld := ⟨0x079, 0x020, 4, 3, 0⟩
def Reg.MIDI.STAT.TX_LEVEL : RegFld := ⟨0x079, 0x028, 4, 12, 4⟩
def Reg.MIDI.STAT.AS_TIMEOUT : RegFld := ⟨0x079, 0x028, 4, 2, 2⟩
def Reg.MIDI.STAT.AS_SEEN : RegFld := ⟨0x079, 0x028, 4, 1, 1⟩
def Reg.MIDI.STAT.RX_ACTIVE : RegFld := ⟨0x079, 0x028, 4, 0, 0⟩
def Reg.MIDI.TX_DATA.BYTE : RegFld := ⟨0x079, 0x030, 4, 7, 0⟩
def Reg.MIDI.RX_ERR_CNT.OVF : RegFld := ⟨0x079, 0x040, 4, 16, 16⟩
def Reg.MIDI.RX_ERR_CNT.COUNT : RegFld := ⟨0x079, 0x040, 4, 15, 0⟩
def Reg.MIDI.RX_DROP_CNT.OVF : RegFld := ⟨0x079, 0x048, 4, 16, 16⟩
def Reg.MIDI.RX_DROP_CNT.COUNT : RegFld := ⟨0x079, 0x048, 4, 15, 0⟩
def Reg.MIDI.TX_DROP_CNT.OVF : RegFld := ⟨0x079, 0x050, 4, 16, 16⟩
def Reg.MIDI.TX_DROP_CNT.COUNT : RegFld := ⟨0x079, 0x050, 4, 15, 0⟩
def Reg.HOSTLINK.STATUS.HALF : RegFld := ⟨0x080, 0x020, 4, 13, 13⟩
def Reg.HOSTLINK.STATUS.WIDTH : RegFld := ⟨0x080, 0x020, 4, 12, 12⟩
def Reg.HOSTLINK.STATUS.RATE : RegFld := ⟨0x080, 0x020, 4, 11, 8⟩
def Reg.HOSTLINK.STATUS.STATE : RegFld := ⟨0x080, 0x020, 4, 2, 0⟩
def Reg.HOSTLINK.CFG.L2_EN : RegFld := ⟨0x080, 0x024, 4, 5, 5⟩
def Reg.HOSTLINK.CFG.L1_EN : RegFld := ⟨0x080, 0x024, 4, 4, 4⟩
def Reg.HOSTLINK.CFG.RATE_MAX : RegFld := ⟨0x080, 0x024, 4, 3, 0⟩
def Reg.HOSTLINK.HOST_BASE.BASE : RegFld := ⟨0x080, 0x028, 4, 23, 0⟩
def Reg.HOSTLINK.CPL_TMO.TMO_US : RegFld := ⟨0x080, 0x02C, 4, 15, 0⟩
def Reg.HOSTLINK.E2E_CNT.OVF : RegFld := ⟨0x080, 0x030, 4, 16, 16⟩
def Reg.HOSTLINK.E2E_CNT.COUNT : RegFld := ⟨0x080, 0x030, 4, 15, 0⟩
def Reg.HOSTLINK.NAK_TX_CNT.OVF : RegFld := ⟨0x080, 0x034, 4, 16, 16⟩
def Reg.HOSTLINK.NAK_TX_CNT.COUNT : RegFld := ⟨0x080, 0x034, 4, 15, 0⟩
def Reg.HOSTLINK.NAK_RX_CNT.OVF : RegFld := ⟨0x080, 0x038, 4, 16, 16⟩
def Reg.HOSTLINK.NAK_RX_CNT.COUNT : RegFld := ⟨0x080, 0x038, 4, 15, 0⟩
def Reg.HOSTLINK.RETRY_CNT.OVF : RegFld := ⟨0x080, 0x03C, 4, 16, 16⟩
def Reg.HOSTLINK.RETRY_CNT.COUNT : RegFld := ⟨0x080, 0x03C, 4, 15, 0⟩
def Reg.HOSTLINK.TMO_CNT.OVF : RegFld := ⟨0x080, 0x040, 4, 16, 16⟩
def Reg.HOSTLINK.TMO_CNT.COUNT : RegFld := ⟨0x080, 0x040, 4, 15, 0⟩
def Reg.HOSTLINK.DROP_CNT.OVF : RegFld := ⟨0x080, 0x044, 4, 16, 16⟩
def Reg.HOSTLINK.DROP_CNT.COUNT : RegFld := ⟨0x080, 0x044, 4, 15, 0⟩
def Reg.HOSTLINK.NAK_LAST.TAG : RegFld := ⟨0x080, 0x048, 4, 16, 7⟩
def Reg.HOSTLINK.NAK_LAST.CODE : RegFld := ⟨0x080, 0x048, 4, 6, 4⟩
def Reg.HOSTLINK.NAK_LAST.TYPE : RegFld := ⟨0x080, 0x048, 4, 3, 0⟩
def Reg.ATTN.CFG.EN : RegFld := ⟨0x081, 0x020, 4, 16, 16⟩
def Reg.ATTN.CFG.HOLD : RegFld := ⟨0x081, 0x020, 4, 15, 8⟩
def Reg.ATTN.CFG.COUNT : RegFld := ⟨0x081, 0x020, 4, 5, 0⟩
def Reg.ATTN.STATUS.URGENT : RegFld := ⟨0x081, 0x024, 4, 17, 17⟩
def Reg.ATTN.STATUS.WAITING : RegFld := ⟨0x081, 0x024, 4, 16, 10⟩
def Reg.ATTN.STATUS.HOLD_T : RegFld := ⟨0x081, 0x024, 4, 9, 2⟩
def Reg.ATTN.STATUS.BYPASS : RegFld := ⟨0x081, 0x024, 4, 1, 1⟩
def Reg.ATTN.STATUS.HRB : RegFld := ⟨0x081, 0x024, 4, 0, 0⟩
def Reg.ATTN.BLK_EN.EN : RegFld := ⟨0x081, 0x028, 4, 27, 0⟩
def Reg.ATTN.BLK_EN2.EN : RegFld := ⟨0x081, 0x030, 4, 7, 0⟩
def Reg.ATTN.BLK_PEND.PEND : RegFld := ⟨0x081, 0x034, 4, 27, 0⟩
def Reg.POWER.DOMAIN_REQ.ABORT : RegFld := ⟨0x090, 0x020, 4, 1, 1⟩
def Reg.POWER.DOMAIN_REQ.GO : RegFld := ⟨0x090, 0x020, 4, 0, 0⟩
def Reg.POWER.RESULT.REASON : RegFld := ⟨0x090, 0x024, 4, 15, 8⟩
def Reg.POWER.RESULT.ABORT_LATE : RegFld := ⟨0x090, 0x024, 4, 7, 7⟩
def Reg.POWER.RESULT.STAGE : RegFld := ⟨0x090, 0x024, 4, 6, 4⟩
def Reg.POWER.RESULT.STATUS : RegFld := ⟨0x090, 0x024, 4, 3, 0⟩
def Reg.POWER.STATE.STATE : RegFld := ⟨0x090, 0x030, 4, 27, 0⟩
def Reg.POWER.STATE4.STATE : RegFld := ⟨0x090, 0x040, 4, 23, 0⟩
def Reg.POWER.REQ.CODE : RegFld := ⟨0x090, 0x044, 4, 27, 0⟩
def Reg.POWER.REQ4.CODE : RegFld := ⟨0x090, 0x054, 4, 23, 0⟩
def Reg.POWER.KEEP_SEL.DOMAIN : RegFld := ⟨0x090, 0x060, 4, 6, 0⟩
def Reg.POWER.KEEP.MASK : RegFld := ⟨0x090, 0x064, 4, 23, 0⟩
def Reg.POWER.BANK_COLD.COLD : RegFld := ⟨0x090, 0x068, 4, 23, 0⟩
def Reg.POWER.BANK_INIT.GO : RegFld := ⟨0x090, 0x06C, 4, 27, 27⟩
def Reg.POWER.BANK_INIT.REFUSED : RegFld := ⟨0x090, 0x06C, 4, 26, 26⟩
def Reg.POWER.BANK_INIT.DOMAIN : RegFld := ⟨0x090, 0x06C, 4, 22, 16⟩
def Reg.POWER.BANK_INIT.BANK : RegFld := ⟨0x090, 0x06C, 4, 4, 0⟩
def Reg.POWER.PAD_HELD.HELD : RegFld := ⟨0x090, 0x070, 4, 12, 0⟩
def Reg.POWER.PAD_RELEASE.RELEASE : RegFld := ⟨0x090, 0x074, 4, 12, 0⟩
def Reg.POWER.DRAIN_TMO.MS : RegFld := ⟨0x090, 0x078, 4, 15, 0⟩
def Reg.POWER.WAKE_CFG.SET : RegFld := ⟨0x090, 0x080, 4, 5, 4⟩
def Reg.POWER.WAKE_CFG.EDGE : RegFld := ⟨0x090, 0x080, 4, 2, 2⟩
def Reg.POWER.WAKE_CFG.POL : RegFld := ⟨0x090, 0x080, 4, 1, 1⟩
def Reg.POWER.WAKE_CFG.EN : RegFld := ⟨0x090, 0x080, 4, 0, 0⟩
def Reg.POWER.WAKE_CFG9.SET : RegFld := ⟨0x090, 0x0A4, 4, 5, 4⟩
def Reg.POWER.WAKE_CFG9.EN : RegFld := ⟨0x090, 0x0A4, 4, 0, 0⟩
def Reg.POWER.WAKE_SET0.MASK : RegFld := ⟨0x090, 0x0C0, 16, 27, 0⟩
def Reg.POWER.WAKE_SET1.MASK : RegFld := ⟨0x090, 0x0C4, 16, 27, 0⟩
def Reg.POWER.WAKE_SET2.MASK : RegFld := ⟨0x090, 0x0C8, 16, 11, 0⟩
def Reg.POWER.TICK_CMP_LO.CMP : RegFld := ⟨0x090, 0x100, 4, 27, 0⟩
def Reg.POWER.TICK_CMP_HI.CMP : RegFld := ⟨0x090, 0x104, 4, 19, 0⟩
def Reg.CLOCKS.CFG.N_LOG2 : RegFld := ⟨0x091, 0x020, 4, 12, 10⟩
def Reg.CLOCKS.CFG.MULT : RegFld := ⟨0x091, 0x020, 4, 9, 8⟩
def Reg.CLOCKS.CFG.FB : RegFld := ⟨0x091, 0x020, 4, 7, 7⟩
def Reg.CLOCKS.CFG.REF : RegFld := ⟨0x091, 0x020, 4, 5, 4⟩
def Reg.CLOCKS.CFG.MCLK_OUT_EN : RegFld := ⟨0x091, 0x020, 4, 1, 1⟩
def Reg.CLOCKS.CFG.WCLK_OUT_EN : RegFld := ⟨0x091, 0x020, 4, 0, 0⟩
def Reg.CLOCKS.STATUS.XTAL_OK : RegFld := ⟨0x091, 0x024, 4, 23, 23⟩
def Reg.CLOCKS.STATUS.PILOT_SUB : RegFld := ⟨0x091, 0x024, 4, 22, 22⟩
def Reg.CLOCKS.STATUS.PILOT_RUN : RegFld := ⟨0x091, 0x024, 4, 21, 21⟩
def Reg.CLOCKS.STATUS.FRAME_RUN : RegFld := ⟨0x091, 0x024, 4, 20, 20⟩
def Reg.CLOCKS.STATUS.LOCK : RegFld := ⟨0x091, 0x024, 4, 19, 19⟩
def Reg.CLOCKS.STATUS.HOLDOVER : RegFld := ⟨0x091, 0x024, 4, 18, 18⟩
def Reg.CLOCKS.STATUS.WRONG_RATE : RegFld := ⟨0x091, 0x024, 4, 17, 17⟩
def Reg.CLOCKS.STATUS.REF_PRESENT : RegFld := ⟨0x091, 0x024, 4, 16, 16⟩
def Reg.CLOCKS.STATUS.REF_PPM : RegFld := ⟨0x091, 0x024, 4, 15, 0⟩
def Reg.CLOCKS.ISLANDS.MIDI : RegFld := ⟨0x091, 0x028, 4, 14, 14⟩
def Reg.CLOCKS.ISLANDS.LANE : RegFld := ⟨0x091, 0x028, 4, 13, 6⟩
def Reg.CLOCKS.ISLANDS.AUDIO : RegFld := ⟨0x091, 0x028, 4, 5, 5⟩
def Reg.CLOCKS.ISLANDS.FLASH : RegFld := ⟨0x091, 0x028, 4, 4, 1⟩
def Reg.CLOCKS.ISLANDS.HOST : RegFld := ⟨0x091, 0x028, 4, 0, 0⟩
def Reg.CLOCKS.XRESET.GROUP : RegFld := ⟨0x091, 0x02C, 4, 15, 0⟩
def Reg.CLOCKS.XLOST.GROUP : RegFld := ⟨0x091, 0x030, 4, 15, 0⟩
def Reg.CLOCKS.PULSE_LOST_CNT.OVF : RegFld := ⟨0x091, 0x034, 4, 16, 16⟩
def Reg.CLOCKS.PULSE_LOST_CNT.COUNT : RegFld := ⟨0x091, 0x034, 4, 15, 0⟩
def Reg.CLOCKS.HOLDOVER_CNT.OVF : RegFld := ⟨0x091, 0x038, 4, 16, 16⟩
def Reg.CLOCKS.HOLDOVER_CNT.COUNT : RegFld := ⟨0x091, 0x038, 4, 15, 0⟩
def Reg.IMAGE.STATUS.RUN_SLOTS : RegFld := ⟨0x0A0, 0x020, 4, 22, 16⟩
def Reg.IMAGE.STATUS.RUN_MODE : RegFld := ⟨0x0A0, 0x020, 4, 11, 10⟩
def Reg.IMAGE.STATUS.RUN_AB : RegFld := ⟨0x0A0, 0x020, 4, 7, 7⟩
def Reg.IMAGE.STATUS.PEND : RegFld := ⟨0x0A0, 0x020, 4, 6, 4⟩
def Reg.IMAGE.REJECT.SECTION : RegFld := ⟨0x0A0, 0x024, 4, 27, 16⟩
def Reg.IMAGE.REJECT.SLOT : RegFld := ⟨0x0A0, 0x024, 4, 15, 8⟩
def Reg.IMAGE.REJECT.REASON : RegFld := ⟨0x0A0, 0x024, 4, 7, 0⟩
def Reg.IMAGE.RUN_ID.ID : RegFld := ⟨0x0A0, 0x028, 4, 27, 0⟩
def Reg.IMAGE.CTRL.TARGET : RegFld := ⟨0x0A0, 0x034, 4, 27, 16⟩
def Reg.IMAGE.CTRL.WHEN : RegFld := ⟨0x0A0, 0x034, 4, 4, 4⟩
def Reg.IMAGE.CTRL.ABORT : RegFld := ⟨0x0A0, 0x034, 4, 1, 1⟩
def Reg.IMAGE.CTRL.COMMIT : RegFld := ⟨0x0A0, 0x034, 4, 0, 0⟩
def Reg.IMAGE.RESULT.FRAME : RegFld := ⟨0x0A0, 0x038, 4, 27, 16⟩
def Reg.IMAGE.RESULT.ABORT_LATE : RegFld := ⟨0x0A0, 0x038, 4, 4, 4⟩
def Reg.IMAGE.RESULT.STATUS : RegFld := ⟨0x0A0, 0x038, 4, 3, 0⟩
def Reg.IMAGE.BUDGET_CNT.OVF : RegFld := ⟨0x0A0, 0x03C, 4, 16, 16⟩
def Reg.IMAGE.BUDGET_CNT.COUNT : RegFld := ⟨0x0A0, 0x03C, 4, 15, 0⟩
def Reg.IMAGE.CARRY.INIT : RegFld := ⟨0x0A0, 0x040, 4, 21, 11⟩
def Reg.IMAGE.CARRY.CARRIED : RegFld := ⟨0x0A0, 0x040, 4, 10, 0⟩
def Reg.IMAGE.CARRY_MOVED.MOVED : RegFld := ⟨0x0A0, 0x044, 4, 10, 0⟩
def Reg.IMAGE.SLOT_FIT.GROUP : RegFld := ⟨0x0A0, 0x100, 4, 21, 16⟩
def Reg.IMAGE.SLOT_FIT.PRESENT : RegFld := ⟨0x0A0, 0x100, 4, 11, 11⟩
def Reg.IMAGE.SLOT_FIT.CUTOFF : RegFld := ⟨0x0A0, 0x100, 4, 9, 0⟩
def Reg.IMAGE.SLOT_CNT.LATE_OVF : RegFld := ⟨0x0A0, 0x200, 4, 25, 25⟩
def Reg.IMAGE.SLOT_CNT.LATE : RegFld := ⟨0x0A0, 0x200, 4, 24, 13⟩
def Reg.IMAGE.SLOT_CNT.OVR_OVF : RegFld := ⟨0x0A0, 0x200, 4, 12, 12⟩
def Reg.IMAGE.SLOT_CNT.OVERRUN : RegFld := ⟨0x0A0, 0x200, 4, 11, 0⟩
def Reg.DEBUG.SEL.SLOT : RegFld := ⟨0x0F0, 0x020, 4, 5, 0⟩
def Reg.DEBUG.CTRL.RESUME : RegFld := ⟨0x0F0, 0x024, 4, 2, 2⟩
def Reg.DEBUG.CTRL.STEP : RegFld := ⟨0x0F0, 0x024, 4, 1, 1⟩
def Reg.DEBUG.CTRL.HALT : RegFld := ⟨0x0F0, 0x024, 4, 0, 0⟩
def Reg.DEBUG.PC.FETCH : RegFld := ⟨0x0F0, 0x028, 4, 14, 0⟩
def Reg.DEBUG.RSEL.SYS : RegFld := ⟨0x0F0, 0x02C, 4, 6, 6⟩
def Reg.DEBUG.RSEL.NUM : RegFld := ⟨0x0F0, 0x02C, 4, 5, 0⟩
def Reg.DEBUG.RDATA.DATA : RegFld := ⟨0x0F0, 0x030, 4, 27, 0⟩
def Reg.DEBUG.MADDR.ADDR : RegFld := ⟨0x0F0, 0x034, 4, 27, 0⟩
def Reg.DEBUG.MDATA.DATA : RegFld := ⟨0x0F0, 0x038, 4, 27, 0⟩
def Reg.DEBUG.MSTAT.CAUSE : RegFld := ⟨0x0F0, 0x03C, 4, 7, 0⟩

/-- A line of the directory (R470): pages, block type, first domain and its step, whether reads are never cold,
whether the page stages, whether SRST acts, the first shared source of R224 (none where 0), the SAT event bit of the
block (none where the block has none). -/
structure PageInfo where
  page : Nat
  npages : Nat
  type : Nat
  dom : Nat
  domStep : Nat
  never : Bool
  stageable : Bool
  srst : Bool
  source : Nat
  sat : Option Nat
  deriving DecidableEq, Repr
/-- The directory (R470). INSTANCE is the page's distance from `page`, but for HOP6 to HOP15. -/
def pageDir : List PageInfo := [
  -- DEVICE
  ⟨0x000, 1, 0x001, 0, 0, true, false, false, 0, none⟩,
  -- AON
  ⟨0x001, 1, 0x100, 0, 0, true, false, false, 88, some 2⟩,
  -- FUSE
  ⟨0x002, 1, 0x002, 0, 0, true, false, false, 0, none⟩,
  -- HEALTH
  ⟨0x003, 1, 0x003, 0, 0, true, false, false, 89, none⟩,
  -- HEARTH0 to HEARTH15
  ⟨0x010, 16, 0x010, 1, 1, false, false, false, 59, some 9⟩,
  -- CTRL0 to CTRL2
  ⟨0x020, 3, 0x020, 33, 1, false, false, false, 90, some 4⟩,
  -- ROUTER
  ⟨0x030, 1, 0x030, 67, 0, false, true, false, 94, none⟩,
  -- ROUTER source table
  ⟨0x031, 3, 0x031, 67, 0, false, true, false, 0, none⟩,
  -- HOP0 to HOP5
  ⟨0x040, 6, 0x040, 66, 0, false, false, false, 32, some 4⟩,
  -- HOP6 to HOP15
  ⟨0x046, 10, 0x040, 66, 0, false, true, false, 38, some 4⟩,
  -- STOKER
  ⟨0x050, 1, 0x050, 52, 0, false, true, false, 57, some 6⟩,
  -- FLASH management
  ⟨0x058, 1, 0x058, 53, 0, false, false, false, 75, some 9⟩,
  -- FCH0 to FCH7; two to a domain
  ⟨0x060, 8, 0x060, 53, 0, false, false, true, 76, some 2⟩,
  -- PORTS0 to PORTS7
  ⟨0x070, 8, 0x070, 57, 1, false, true, true, 48, some 6⟩,
  -- PORT_TABLE
  ⟨0x078, 1, 0x078, 57, 0, false, true, false, 93, none⟩,
  -- MIDI
  ⟨0x079, 1, 0x079, 57, 0, false, true, true, 56, some 4⟩,
  -- HOSTLINK
  ⟨0x080, 1, 0x080, 65, 0, false, false, true, 84, some 6⟩,
  -- ATTN
  ⟨0x081, 1, 0x081, 65, 0, false, false, false, 85, none⟩,
  -- POWER
  ⟨0x090, 1, 0x090, 0, 0, true, false, false, 86, none⟩,
  -- CLOCKS
  ⟨0x091, 1, 0x091, 0, 0, true, false, false, 87, some 8⟩,
  -- IMAGE
  ⟨0x0A0, 1, 0x0A0, 33, 0, false, false, false, 58, some 6⟩,
  -- DEBUG
  ⟨0x0F0, 1, 0x0F0, 0, 0, false, false, false, 0, none⟩]

/-- The directory's line of a page, none for a page number it does not list (R468). -/
def pageInfo (page : Nat) : Option PageInfo :=
  pageDir.find? (fun p => p.page ≤ page && page < p.page + p.npages)

/-- The domain of a page (R470). FCH pages lie two to a domain. -/
def pageDom (page : Nat) : Nat :=
  match pageInfo page with
  | some p => if p.page = 0x060 then 53 + (page - 0x060) / 2 else p.dom + p.domStep * (page - p.page)
  | none => 0

/-- PAGE_ID of a page (R459). -/
def pageId (page : Nat) : Nat :=
  match pageInfo page with
  | some p => p.type * 0x10000 + (page - (if p.page = 0x046 then 0x040 else p.page)) * 0x100 + 1
  | none => 0

/-- The shared source that a page's events fire, 0 where it has none (R224). -/
def pageSource (page : Nat) : Nat :=
  match pageInfo page with
  | some p => if p.source = 0 then 0 else p.source + (page - p.page)
  | none => 0

/-- The page behind a block source of R224 (32 to 94), none where the number is reserved. -/
def sourcePage (src : Nat) : Option Nat :=
  (pageDir.find? (fun p => p.source ≠ 0 && p.source ≤ src && src < p.source + p.npages)).map
    (fun p => p.page + (src - p.source))

/-- The SAT event bit of a page. -/
def pageSat (page : Nat) : Option Nat := (pageInfo page).bind (·.sat)

/-- The fields of a live register that hold RWS, as the mirror sees them (R460). -/
def mirrorMask (page off : Nat) : Nat :=
  match regRow page off with
  | some r => ((r.flds.filter (fun f => f.acc = .rws)).map (fun f => (2 ^ (f.hi + 1 - f.lo) - 1) * 2 ^ f.lo)).sum
  | none => 0

end Sys2Proof.Machine
end

