-- ==== Sys2Proof/Machine/State.lean ====
section
/-! DEFINITION. The state of the device as plain data, and the state that PORST_N leaves. -/

namespace Sys2Proof.Machine

/-- The header of a register page and its staging state (R459, R461). -/
structure PageHdr where
  en : Bool
  event : DW
  eventEn : DW
  /-- PAGE_CTRL.SRST reads 1 (R420) -/
  inReset : Bool
  /-- PAGE_CTRL.ARM_STAGE, PAGE_STAGE.AT and FRAME -/
  armed : Bool
  atFrame : Bool
  frame : BitVec 12
  /-- PAGE_ERRCNT -/
  corr : Nat
  corrOvf : Bool
  unc : Nat
  uncOvf : Bool
  /-- offsets of the registers whose dirty flag is set (R461) -/
  dirty : List Nat
  deriving DecidableEq, Repr

def PageHdr.reset : PageHdr := ⟨true, 0, 0, false, false, false, 0, 0, false, 0, false, []⟩

/-- What the code of a stored DW says (R192, R196). An unlisted word is good. -/
inductive WordTag where
  | good
  /-- the next read corrects it -/
  | correctable
  /-- the next read finds it uncorrectable -/
  | uncorrectable
  /-- it was found uncorrectable: it carries the poison mark -/
  | poisoned
  deriving DecidableEq, Repr

/-- The word holds no data that a read can deliver. -/
def WordTag.bad : WordTag → Bool
  | .uncorrectable => true
  | .poisoned => true
  | _ => false

/-- The event router's own state beside its registers (R220 to R239): what is lost whenever its domain is not ON. -/
structure Router where
  /-- pending private sources of each target (R222) -/
  pendP : Tab (BitVec 32)
  /-- pending shared sources, 32 to 543, in rising order (R222, R224) -/
  pendS : List Nat
  /-- per target, the private sources pending at the first run's frame entry and those fired since (R231) -/
  replayP : Tab (BitVec 32)
  /-- the shared sources pending at frame entry and those fired since (R231) -/
  replayS : List Nat
  /-- running stacks, top first (R228) -/
  runStacks : Tab (List Nat)
  /-- targets whose moderation window is open (R232) -/
  windows : List Nat
  /-- shared sources whose pulse crossing awaits its acknowledgement (R418) -/
  awaiting : List Nat
  /-- the pending counter of each source's crossing (R418) -/
  queued : Tab Nat
  deriving DecidableEq, Repr

/-- DESIGN CHOICE: log 5. -/
def Router.reset : Router := ⟨[], [], [], [], [], [], [], []⟩

/-- A word of a hopper as it is delivered (R248, R250, R257). -/
structure HWord where
  val : DW
  /-- what the code of the stored word says (R192) -/
  tag : WordTag
  /-- the word is the item's header -/
  head : Bool
  /-- payload words of the item still to be read after this one -/
  left : Nat
  /-- the account that is charged for the word, 4 where none is -/
  acct : Nat
  /-- the number of the item within the hopper -/
  item : Nat
  /-- PRIORITY and LENGTH as the item's descriptor keeps them -/
  prio : Nat
  len : Nat
  deriving DecidableEq, Repr

/-- An item that is stored in a hopper (R242). -/
structure HItem where
  id : Nat
  prio : Nat
  acct : Nat
  /-- the producer identity that pushed it (R244) -/
  producer : Nat
  /-- header and payload words, with what their codes say -/
  words : List (DW × WordTag)
  deriving DecidableEq, Repr

/-- What becomes of the words of an item that is still arriving (R245, R255). -/
inductive PartMode where
  /-- stored -/
  | keep
  /-- discarded on arrival, credit returned as they arrive -/
  | flushing
  /-- discarded on arrival, nothing charged -/
  | rejected
  deriving DecidableEq, Repr

/-- An item that is partly arrived, by its producer (R245). -/
structure HPart where
  producer : Nat
  acct : Nat
  mode : PartMode
  prio : Nat
  len : Nat
  words : List DW
  /-- words still to arrive -/
  left : Nat
  deriving DecidableEq, Repr

/-- A hopper's queue and marks (R242 to R259). -/
structure Hopper where
  /-- readable items of which nothing was delivered, in the order of R243 -/
  ready : List HItem
  /-- the rest of the item whose header was delivered last -/
  rest : List HWord
  /-- delivered words that are still stored, in order of delivery (R252) -/
  log : List HWord
  /-- how many words of the log lie before the mark -/
  mark : Nat
  /-- the delivery position in the log; its length where nothing is due again -/
  pos : Nat
  /-- how many of the words before it were popped by bundles whose outputs are still held (R174) -/
  tent : Nat
  /-- the word delivered just before the log begins -/
  before : Option HWord
  /-- items that are partly arrived -/
  parts : List HPart
  /-- complete items that slots pushed, held for the boundary (R29), in order of push -/
  held : List HItem
  /-- words charged to PROD0 to PROD3 and not yet returned -/
  heldW : Tab Nat
  /-- total words ever charged to the HOST account, modulo 2^24, and a CREDIT packet that must be sent (R369) -/
  charged : Nat
  creditDue : Bool
  /-- the number of the next item -/
  nextId : Nat
  /-- items found poisoned (R257) -/
  poisoned : List Nat
  /-- a flush is armed for the boundary (R255) -/
  flushArmed : Bool
  deriving DecidableEq, Repr

/-- DESIGN CHOICE: log 5. -/
def Hopper.reset : Hopper := ⟨[], [], [], 0, 0, 0, none, [], [], [], 0, false, 0, [], false⟩

/-- The state of a power domain (R387, R388). -/
inductive DomSt where
  | on
  | retain
  | off
  deriving DecidableEq, Repr

/-- A power-state entry in progress (R394 to R396). -/
structure EntryRec where
  /-- the domains that run every stage, with true for OFF and false for RETAIN -/
  doms : List (Nat × Bool)
  /-- domains in RETAIN that were given OFF: stage 6 only -/
  lower : List Nat
  /-- the stage that runs, 1 to 6 -/
  stage : Nat
  /-- the last stage that was completed -/
  done : Nat
  /-- the entry is abandoned and its completed stages are being undone -/
  undoing : Bool
  /-- the host aborted it before the commit point (R395) -/
  aborted : Bool
  /-- the reason of an abandonment, 0x06 or 0x07 (R396) -/
  abandoned : Option Nat
  /-- an abort arrived at or after the commit point -/
  late : Bool
  /-- the pad groups that its stage 4 held (R404) -/
  pads : List Nat
  /-- a frame boundary has come since stage 1 ended (R350, R394) -/
  past : Bool
  deriving DecidableEq, Repr

/-- An exit in progress (R402): the domains that are not ON yet, and what started it. -/
structure ExitRec where
  todo : List Nat
  /-- a request of the host runs in it -/
  request : Bool
  /-- a wake runs in it -/
  wake : Bool
  deriving DecidableEq, Repr

/-- The domain controller and the wake logic beside their registers (R387 to R406). -/
structure Power where
  dom : Tab DomSt
  entry : Option EntryRec
  exit : Option ExitRec
  /-- domains of wakes that wait for stage 6 to end (R396) -/
  queued : List Nat
  /-- BANK_KEEP of each domain (R387) -/
  keep : Tab Nat
  /-- the armed value of the tick compare (R398) -/
  tickCmp : Option Nat
  /-- the bank that BANK_INIT initialises (R391) -/
  bankInit : Option (Nat × Nat)
  /-- pad groups that are held, and releases that are armed (R404) -/
  held : List Nat
  release : List Nat
  /-- bytes received on each MIDI_RX while PORTS0 is not ON (R400) -/
  midiRx : Tab (List MidiByte)
  /-- pad groups whose I/O rail left tolerance while their domain was ON (R476, R480) -/
  railLost : List Nat
  deriving DecidableEq, Repr

def Power.reset : Power := ⟨[(0, .on)], none, none, [], [], none, none, [], [], [], []⟩

/-- Where start-up stands (R425). -/
inductive BootStage where
  /-- PORST_N is low -/
  | held
  /-- rows 1 and 2: fuses are being sensed -/
  | sensing
  /-- SYSRST_N is low -/
  | sysHeld
  /-- from row 3: domains come ON and CTRL0 runs ROM -/
  | starting
  /-- BOOT_READY was pushed -/
  | ready
  deriving DecidableEq, Repr

/-- A change of the fuses in progress (R448, R451). -/
inductive FuseBlow where
  | seal
  | floor (level : Nat)
  deriving DecidableEq, Repr

/-- Reset, start-up and clock state in AON beside its registers. -/
structure Aon where
  stage : BootStage
  /-- the 48-bit counters (R42, R431) -/
  frame : Count48
  ticks : Count48
  /-- the tick count of the last-wake record (R401) -/
  wakeStamp : Count48
  /-- pins as they are sampled -/
  bootsel : Nat
  /-- this start-up follows PORST_N, not SYSRST_N (R424, R426) -/
  afterPor : Bool
  blow : Option FuseBlow
  /-- the first write of the seal sequence was seen (R451) -/
  sealStep : Bool
  /-- the PLL realigns to the reference (R336, R414) -/
  realigning : Bool
  /-- row 12 to 15 of R425: a flash boot waits for its load, its pinning or its commit -/
  bootLoad : Bool
  bootPin : Bool
  bootSeq : Nat
  /-- the stream-table block of the boot copy, not written yet -/
  bootTable : List DW
  /-- outcome and detail of the boot (R427) -/
  bootOutcome : Nat
  bootDetail : Nat
  /-- ticks since the last reset, for AON.BOOT.FIRST_MS -/
  sinceReset : Nat
  deriving DecidableEq, Repr

def Aon.reset : Aon :=
  { stage := .held, frame := 0, ticks := 0, wakeStamp := 0, bootsel := 0, afterPor := false, blow := none
    sealStep := false, realigning := false, bootLoad := false, bootPin := false, bootSeq := 0, bootTable := []
    bootOutcome := 0, bootDetail := 0, sinceReset := 0 }

/-- The health state in AON beside the HEALTH page (R433 to R445). -/
structure Health where
  /-- the retirement map: HEARTH.CORES and HEARTH.SLOTMAP of each hearth (R443, R444) -/
  cores : Tab DW
  slotmap : Tab DW
  /-- lifetime sum and count of the seconds of R433 -/
  tjSum : Int
  tjSecs : Nat
  /-- per hearth, sum and count of v_reg over the frames of this hour, in codes of 5 mV (R435) -/
  vSum : Tab Nat
  vCnt : Tab Nat
  /-- per hearth, sum and count of the hourly values of this day (R436) -/
  headSum : Tab Nat
  headCnt : Tab Nat
  /-- per hearth, the daily means, newest first (R436) -/
  headDays : Tab (List Nat)
  /-- per hearth, frames of this day and those of them at flare (R437) -/
  dayFrames : Tab Nat
  dayFlare : Tab Nat
  /-- per hearth, AON ticks at flare since the last unit of 8 h (R437) -/
  flareTicks : Tab Nat
  /-- corrected and uncorrectable words of this day by class (R438) -/
  ceToday : Tab Nat
  ueToday : Tab Nat
  /-- state-block resets of this day (R439) -/
  srToday : Nat
  /-- HEALTH.HEAD[h].MIN holds a value -/
  minValid : List Nat
  /-- AON ticks since the last second with a HEARTH ON, towards HOURS -/
  hourSecs : Nat
  /-- a record must be written (R443, R455) -/
  recDue : Bool
  /-- the stripe the next record goes to: 0 for stripe 4, 1 for stripe 5 -/
  recStripe : Nat
  deriving DecidableEq, Repr

def Health.reset : Health := ⟨[], [], 0, 0, [], [], [], [], [], [], [], [], [], [], 0, [], 0, false, 0⟩

/-- The instructions of the TAP (R453). DESIGN CHOICE: log 14. -/
inductive TapIr where
  | extest
  | idcode
  | samplePreload
  | clamp
  | highz
  | dbgAddr
  | dbgData
  | dbgCtrl
  | bypass
  deriving DecidableEq, Repr

/-- The TAP (R453). -/
structure Tap where
  ir : TapIr
  /-- the DEBUG page offset, the data register and DBG_CTRL -/
  addr : BitVec 12
  data : DW
  ctrl : BitVec 2
  /-- what the selected register last gave to be shifted out -/
  out : Cont
  deriving DecidableEq, Repr

def Tap.reset : Tap := ⟨.idcode, 0, 0, 0, 0x15C8096B⟩

/-- A packet the device has sent, with the tick count at its sending (R368). DESIGN CHOICE: log 52. -/
structure SentPkt where
  pkt : Packet
  tick : Nat
  deriving DecidableEq, Repr

/-- A host request that has not taken effect, with its place in the order of arrival (R367), and whether its CPL is
discarded because the link went down (R383). -/
structure HostReq where
  seq : Nat
  pkt : Packet
  drop : Bool
  deriving DecidableEq, Repr

/-- A device-mastered read that is outstanding (R368, R371): the command it serves, whether it reads the descriptor
list, and the offset of its bytes in what it reads. DESIGN CHOICE: log 186. -/
structure DevRead where
  tag : Nat
  addr : Nat
  len : Nat
  hop : Nat
  cmdTag : Nat
  isList : Bool
  off : Nat
  /-- the command no longer waits for it: it ended, or the read timed out; the tag is outstanding until the CPL arrives -/
  closed : Bool
  deriving DecidableEq, Repr

/-- What waits for the link to be active (R371): a MEMWR of a command, and a completion item that follows the MEMWRs of
its command, with hopper, TAG, PRIORITY and TYPE of the command. -/
inductive OutItem where
  | write (hop tag : Nat) (p : Packet)
  | done (hop tag prio typ : Nat) (ws : List DW)
  deriving DecidableEq, Repr

/-- The host link beside its registers (R355 to R372). -/
structure Link where
  regQ : List HostReq
  memQ : List HostReq
  seq : Nat
  sent : List SentPkt
  reads : List DevRead
  /-- requests that arrived while HOSTLINK leaves ON: not accepted yet (R394) -/
  stalled : List Packet
  /-- what waits for the link to be active, oldest first -/
  out : List OutItem
  deriving DecidableEq, Repr

/-- DESIGN CHOICE: log 5. -/
def Link.reset : Link := ⟨[], [], 0, [], [], [], []⟩

/-- The attention unit (R377 to R382): the level that drives HRB_N, none where it is high-impedance, and the hold count. -/
structure Attn where
  hrb : Option Bool
  hold : Nat
  deriving DecidableEq, Repr

/-- HRB_N is driven low, and nothing is held. -/
def Attn.reset : Attn := ⟨some false, 0⟩

/-- While PORST_N is low (R379). -/
def Attn.released : Attn := ⟨none, 0⟩

/-- Where a host command stands. -/
inductive CmdStage where
  /-- its descriptor list is being read -/
  | list
  /-- its data is being read from host memory -/
  | data
  /-- its work in the device is in progress -/
  | work
  deriving DecidableEq, Repr

/-- A host command in progress (R370 to R376). -/
structure Cmd where
  hop : Nat
  tag : Nat
  prio : Nat
  typ : Nat
  args : List DW
  stage : CmdStage
  listAddr : Nat
  count : Nat
  /-- buffers of the descriptor list: address and bytes -/
  descs : List (Nat × Nat)
  /-- bytes of the string that the command needs -/
  need : Nat
  /-- bytes of the list or of the string that were asked for -/
  asked : Nat
  /-- bytes that arrived in order -/
  data : List Byte
  /-- pieces that arrived ahead of an earlier piece -/
  ahead : List (Nat × List Byte)
  committed : Bool
  aborted : Bool
  /-- containers, chunks or entries moved so far, and other numbers of the work -/
  moved : Nat
  aux : List Nat
  poison : Bool
  /-- data for the buffers that waits for data at lower addresses (R371): address and containers -/
  later : List (Nat × List Cont)
  deriving DecidableEq, Repr

/-- What a core does at the moment (R133, R46, R80, R189, R214). -/
inductive RunSt where
  /-- no run: the slot has no program, its hearth is not ON, or no frame was entered yet (R45, R389) -/
  | dormant
  /-- issues bundles -/
  | running
  /-- WAIT at U: the slot's frame is complete (R133) -/
  | waiting
  /-- WAIT at M, or on a control core: sleeps until a private source is pending (R133) -/
  | asleep
  /-- waits at a barrier (R46) -/
  | barrier (b : Nat)
  /-- the monitor ended the run (R214) -/
  | ended
  /-- the physical core is stopped, or runs the other slot of a fold (R179, R183) -/
  | stopped
  deriving DecidableEq, Repr

/-- A store on its way to memory: the W addresses it writes and the last step of its bundle (R155).
DEDUCED: log 131. -/
structure PendStore where
  addrs : List Nat
  step : Nat
  deriving DecidableEq, Repr

/-- The loop buffer (R118, R161): bundles of the iteration that were captured, none where the iteration is not
captured, and whether the iteration issues from the buffer. -/
structure LoopBuf where
  cap : Option Nat
  valid : Bool
  deriving DecidableEq, Repr

/-- Where a REP bundle or a long instruction stands inside the core, between its units of work (R164): its address, its
kind as LPROG has it, the latched count, the units done, and the step counts with which the instruction issued: steps and
penalty steps of the run, and steps in the phase. -/
structure Midway where
  addr : DW
  kind : Nat
  total : Nat
  done : Nat
  steps : Nat
  pen : Nat
  phaseSteps : Nat
  deriving DecidableEq, Repr

/-- A slot of a hearth, or a control core: what R87 gives a core, and what the device keeps for the slot. -/
structure Core where
  /-- D, P, M, B and L registers by general number (R87, R89) -/
  gr : Tab DW
  acc : Tab Acc
  lc : DW
  ls : DW
  le : DW
  lc1 : DW
  ls1 : DW
  le1 : DW
  ps : DW
  lprog : DW
  epc : DW
  ecause : DW
  eval : DW
  estat : DW
  eseal : DW
  /-- the shadow stack, top first; SSP is its depth (R112, R114) -/
  shadow : List DW
  fetch : DW
  /-- what R96 samples or copies at frame entry: frame number and TRAPS -/
  frameNo : Count48
  traps : BitVec 2
  phase : Nat
  run : RunSt
  /-- halted by debug (R454) -/
  halted : Bool
  /-- syllables of the bundle that have arrived (R104) -/
  bundle : List Instr
  /-- steps and penalty steps of this run, and steps in this phase (R152, R167, R55) -/
  steps : Nat
  pen : Nat
  phaseSteps : Nat
  /-- register bits that the last bundle's load writes: general number and mask (R154) -/
  loadBits : List (Nat × DW)
  stores : List PendStore
  /-- even W addresses of the DW that this run wrote in full (R197) -/
  written : List Nat
  /-- positions of output ports that this run wrote, with what they held before it (R29, R180) -/
  overwrote : List (Nat × W)
  loopBuf : LoopBuf
  /-- the units of a REP bundle or a long instruction that are done, where it goes on at its place -/
  midway : Option Midway
  /-- the next bundle is the retry of one whose compare failed (R163) -/
  retry : Bool
  /-- registers whose stored word is uncorrectable, by general number, and accumulators from 0x40 on (R192, R197) -/
  bad : List Nat
  /-- those whose stored word the next read corrects (R192, R194) -/
  weak : List Nat
  /-- the slot timer and whether it fired in this frame (R229) -/
  timer : BitVec 7
  timerFired : Bool
  /-- doorbells and CLR writes held for the boundary (R230) -/
  doors : List Nat
  clrs : List Nat
  /-- the record of the last run that the monitor ended (R214, R215): KIND, frame number, origin level, ECAUSE, EPC
  and EVAL; and the records that were not passed on yet, oldest first -/
  report : Option (List DW)
  reports : List (List DW)
  /-- the running program meets poison at fetch, or a re-run met one again: ended at every frame until an image is committed (R197, R214) -/
  fetchPoison : Bool
  /-- the selection of the next START and stores to SEL not seen yet, with the last step of their bundles (R272) -/
  sel : DW
  sels : List (Nat × DW)
  /-- the physical core is running the other slot it carries (R183) -/
  parked : Bool
  /-- the slot's WAIT has been released and no frame entry has followed (R233) -/
  idle : Bool
  deriving DecidableEq, Repr

/-- Registers as at frame entry (R87), no run. DESIGN CHOICE: log 5. -/
def Core.reset : Core :=
  { gr := [], acc := [], lc := 0, ls := 0, le := 0, lc1 := 0, ls1 := 0, le1 := 0, ps := 0, lprog := 0, epc := 0
    ecause := 0, eval := 0, estat := 0, eseal := 0, shadow := [], fetch := 0, frameNo := 0, traps := 0, phase := 0
    run := .dormant, halted := false, bundle := [], steps := 0, pen := 0, phaseSteps := 0, loadBits := []
    stores := [], written := [], overwrote := [], loopBuf := ⟨none, false⟩, midway := none, retry := false, bad := [], weak := [], timer := 0, timerFired := false, doors := [], clrs := []
    report := none, reports := [], fetchPoison := false, sel := 0, sels := [], parked := false, idle := false }

/-- A stream-table entry as the stoker latches it at a START (R267). -/
structure StreamDesc where
  resident : Bool
  loopMode : Nat
  ring4 : Bool
  format : Nat
  region : Nat
  chunk0 : Nat
  length : Nat
  loopStart : Nat
  loopEnd : Nat
  headAddr : Nat
  headFrames : Nat
  ringAddr : Nat
  rateMax : Nat
  deriving DecidableEq, Repr

/-- A stream (R269 to R275). It is tentatively active while `started`, tentatively stopped while `stopped`, and
active otherwise. -/
structure Stream where
  entry : Nat
  owner : Nat
  desc : StreamDesc
  started : Bool
  stopped : Bool
  charge : Nat
  qNeed : Nat
  need : Option Nat
  /-- demanded chunks that were not written yet, and those of them counted late -/
  waiting : List Nat
  late : List Nat
  killed : Bool
  /-- its region was withdrawn (R288) -/
  withdrawn : Bool
  deriving DecidableEq, Repr

/-- A START or STOP kept since frame entry (R276): the result word of a START, and whether the present run made or
repeated it. -/
structure KeptReq where
  slot : Nat
  entry : Nat
  isStart : Bool
  result : DW
  inRun : Bool
  deriving DecidableEq, Repr

/-- An output of a bundle that the damper holds beside registers, flags and the fetch address (R172). -/
inductive HeldOut where
  /-- a store that is released at a tick, of a bundle with a last step -/
  | storeD (addr : DW) (v : DW) (tick last : Nat)
  | storeP (addr : DW) (v w : DW) (tick last : Nat)
  | storeW (addr : DW) (v : W) (tick last : Nat)
  /-- the advance of a hopper's read position (R174) -/
  | popped (hop : Nat)
  /-- a START, with the kept request that it repeated, none for a new one (R274, R276) -/
  | started (entry : Nat) (again : Bool)
  /-- a NOTICE was read; the position before -/
  | noticed (pos : Nat)
  deriving DecidableEq, Repr

/-- A bundle, an iteration or an element in the damper (R151, R163, R172): the core before it, its issue step, its step
count, the primary and the back-transformed shadow result of each syllable, the fetch address that it drives, the outputs
that wait for release, the interrupt that an entry delivered (target, source, group), and whether it is a retry.
DESIGN CHOICE: log 187. -/
structure Held where
  before : Core
  first : Nat
  cost : Nat
  prim : List Eff
  shadow : List Eff
  next : Option DW
  outs : List HeldOut
  deliv : Option (Nat × Nat × Nat)
  retried : Bool
  deriving DecidableEq, Repr

/-- A PIN in progress (R285): its range. -/
structure PinRec where
  first : Nat
  last : Nat
  deriving DecidableEq, Repr

/-- A chunk of a head that is read again (R284): the entry and the stream that asked for it, as latched, and the chunk's
number within the head. DESIGN CHOICE: log 181. -/
structure HeadRead where
  entry : Nat
  desc : StreamDesc
  chunk : Nat
  deriving DecidableEq, Repr

/-- The stoker's stream-state memory (R263 to R291). -/
structure Stoker where
  streams : List Stream
  rereads : List HeadRead
  /-- entries whose head is pinned, with its address and its span in W -/
  headValid : Tab (Nat × Nat)
  kept : List KeptReq
  /-- per slot, the notices of this frame's list, how many of them were read, and those posted since (R282) -/
  notices : Tab (List DW)
  noticePos : Tab Nat
  posted : Tab (List DW)
  pin : Option PinRec
  deriving DecidableEq, Repr

/-- DESIGN CHOICE: log 5. -/
def Stoker.reset : Stoker := ⟨[], [], [], [], [], [], [], none⟩

/-- A map change that flash management works on (R313, R316, R317): the job, its region, its new entry, and the
stripe it writes. -/
structure FlashJob where
  job : JobRef
  region : Nat
  entry : MapEntry
  /-- relocation is counted as a refresh, not as a relocation -/
  refresh : Bool
  /-- chunks of the region that a relocation has read and written -/
  moved : Nat
  deriving DecidableEq, Repr

/-- Flash management and the region map (R299 to R322). -/
structure Flash where
  /-- the region map that readers see, by region; unlisted regions are unmapped (R307) -/
  map : Tab MapEntry
  /-- committed changes that become visible at the next boundary (R317): region, entry, and whether streams of the
  region end -/
  pend : List (Nat × MapEntry × Bool)
  jobs : List FlashJob
  /-- stripes waiting for their erase, and retired stripes, as group × 0x4000 + stripe -/
  erasing : List Nat
  retired : List Nat
  /-- program/erase and read counts by block, as LUN × 0x4000 + block (R313) -/
  pe : Tab Nat
  reads : Tab Nat
  /-- substituted blocks (R306) -/
  subst : Tab Nat
  /-- hours since each region was patrolled -/
  age : Tab Nat
  /-- journal records since the last map copy, and the copy that is rewritten next (R307) -/
  journal : Nat
  copyNext : Nat
  /-- consecutive timeouts and consecutive reads at step 4, by LUN (R310) -/
  timeouts : Tab Nat
  streak : Tab Nat
  /-- regions scheduled for refresh (R309), and chunks that the stoker passed on, as region × 2^20 + chunk (R283) -/
  due : List Nat
  owed : List Nat
  /-- the program or erase that keeps a LUN busy (R311): the block, and whether it is an erase -/
  busy : Tab (Nat × Bool)
  /-- bad blocks, as LUN × 0x4000 + block (R315) -/
  bad : List Nat
  /-- the next chunk that a patrol of a region reads (R313) -/
  patrols : Tab Nat
  /-- the sequence number of the boot copy in use and its place (R319) -/
  bootSeq : Nat
  bootCopy : Nat
  /-- what the last mount found of each channel, FCH.CFG as it took it, and per stripe that waits for its erase the
  positions erased (R296, R317, R324) -/
  chans : List ChanReport
  caps : List (Nat × Nat)
  erased : Tab Nat
  /-- a mount is asked for by the boot or by the return of FLASH0, not by a command (R299) -/
  autoMount : Bool
  deriving DecidableEq, Repr

/-- DESIGN CHOICE: log 5, 116. -/
def Flash.reset : Flash :=
  { map := [], pend := [], jobs := [], erasing := [], retired := [], pe := [], reads := [], subst := [], age := []
    journal := 0, copyNext := 0, timeouts := [], streak := [], due := [], owed := [], busy := [], bad := [], patrols := []
    bootSeq := 0, bootCopy := 0, chans := [], caps := [], erased := [], autoMount := false }

/-- What the flash cells hold, as far as the device has programmed them (R302, R304, R319): chunks by LUN, stripe, page
and place in the page; the chunks that are lost, as region × 2^20 + chunk (R308); and the boot copies by place. No reset
changes it. DESIGN CHOICE: log 180. -/
structure Nand where
  cells : Tab (List Byte)
  lost : List Nat
  boot : Tab BootCopy
  deriving DecidableEq, Repr

/-- DESIGN CHOICE: log 180. -/
def Nand.reset : Nand := ⟨[], [], []⟩

/-- A MIDI receiver and transmitter (R345 to R349). -/
structure Uart where
  /-- running status, 0 for none -/
  status : Nat
  /-- the message that is being assembled: its status byte, 0 for none, and its data bytes -/
  msg : Nat
  data : List Nat
  /-- a system exclusive is being received: bytes gathered for the next item, and whether an item was pushed -/
  sysex : Bool
  sxData : List Nat
  sxStarted : Bool
  /-- TAG count of items, modulo 128 -/
  tag : Nat
  fifo : List Byte
  /-- the byte on MIDI_TX -/
  sending : Option Byte
  deriving DecidableEq, Repr

/-- DESIGN CHOICE: log 5. -/
def Uart.reset : Uart := ⟨0, 0, [], false, [], false, 0, [], none⟩

/-- Lanes, port table and MIDI beside their registers (R325 to R351). -/
structure Ports where
  /-- port-table entries as PT_WRITE lays them out, by port (R342) -/
  table : Tab DW
  queue : List DW
  /-- ports active and shadowed at the last boundary (R343), and whether an invalid BUF_BASE held with an enabled entry
  (R338) -/
  active : List Nat
  shadowed : List Nat
  badBase : Bool
  /-- per block of four ports, the copy that output lanes send in this frame; unlisted blocks send zeros (R340, R341) -/
  rel : Tab Nat
  /-- last good sample by lane × 64 + channel (R344), and last good sensor reading (R334) -/
  good : Tab DW
  sensor : Tab DW
  /-- the elastic buffers by lane × 64 + channel (R333) -/
  elastic : Tab (List DW)
  /-- by lane × 64 + channel, the first position of the frame that was not captured yet -/
  next : Tab Nat
  /-- groups whose lanes stop while the bit clock relocks, with the position at which they run again (R351) -/
  stopped : Tab Nat
  /-- the word last serialised by lane × 64 + channel, and the frame of its channel-status block (R330) -/
  tx : Tab Cont
  status : Tab Nat
  uart : Tab Uart
  deriving DecidableEq, Repr

/-- DESIGN CHOICE: log 5. -/
def Ports.reset : Ports :=
  { table := [], queue := [], active := [], shadowed := [], badBase := false, rel := [], good := [], sensor := []
    elastic := [], next := [], stopped := [], tx := [], status := [], uart := [] }

/-- A window of a slot (R56). -/
structure Win where
  base : Nat
  limit : Nat
  rd : Bool
  wr : Bool
  deriving DecidableEq, Repr

/-- A SLOTCFG section (R56). -/
structure SlotCfg where
  callDepth : Nat
  traps : BitVec 2
  entry : Nat
  handler : Nat
  wins : List Win
  deriving DecidableEq, Repr

/-- A BANKS record (R57): its bank as a bank number of its domain, and the slot and access of each port. -/
structure BankRec where
  cls : Nat
  hearth : Nat
  bank : Nat
  phases : Nat
  state : Bool
  exchange : Bool
  slot0 : Nat
  acc0 : Nat
  slot1 : Nat
  acc1 : Nat
  deriving DecidableEq, Repr

/-- A STATE record (R59) with the block's generation (R60). -/
structure StateBlk where
  id : Nat
  slot : Nat
  index : Nat
  /-- section index of its INIT section, 0xFFFF for zeros -/
  init : Nat
  size : Nat
  base0 : Nat
  base1 : Nat
  hash : Nat
  gen : Nat
  deriving DecidableEq, Repr

/-- An INIT section: its index, the hearth whose data it writes (16 for shared memory and the attack cache), its
address, its DW (R54). -/
structure InitSec where
  sec : Nat
  hearth : Nat
  addr : Nat
  data : List DW
  deriving DecidableEq, Repr

/-- A STAGE record (R61). -/
structure StageRec where
  page : Nat
  off : Nat
  val : DW
  deriving DecidableEq, Repr

/-- The STREAMS section (R62). -/
structure StreamsSec where
  base : Nat
  entries : Nat
  budget : Nat
  max : Nat
  deriving DecidableEq, Repr

/-- A firing image that passed the checks of R63 (R52 to R62). -/
structure Image where
  /-- 0 GUARDED, 1 DENSE, 2 FIXED -/
  mode : Nat
  rate : Nat
  nLog2 : Nat
  id : Nat
  slotMask : Nat
  fixedMv : Nat
  phases : Nat
  /-- BARRIER[1] to BARRIER[7] -/
  barriers : List Nat
  /-- BUDGET[p][s] by p × 64 + s; unlisted budgets are 0 -/
  budgets : Tab Nat
  cfg : Tab SlotCfg
  banks : List BankRec
  blocks : List StateBlk
  inits : List InitSec
  stages : List StageRec
  streams : Option StreamsSec
  deriving DecidableEq, Repr

/-- A load in progress (R51, R77): who asked for it and the bytes delivered. -/
structure LoadJob where
  /-- hopper and TAG of the IMAGE_LOAD; none for the flash boot -/
  cmd : Option (Nat × Nat)
  bytes : List Byte
  deriving DecidableEq, Repr

/-- The loader and the running image beside the IMAGE page (R50 to R82). -/
structure Loader where
  run : Option Image
  loaded : Option Image
  load : Option LoadJob
  /-- slots that arrived at each barrier in this frame, and the barriers completed in it (R46, R48) -/
  arrived : Tab (List Nat)
  complete : List Nat
  /-- consecutive overrun frames of each slot (R81) -/
  series : Tab Nat
  /-- state blocks to be reset at the next boundary, as slot × 16 + index (R197) -/
  resets : List Nat
  /-- phases counted as over budget in this frame, as slot × 8 + phase (R55) -/
  overBudget : List Nat
  /-- slots counted LATE in this frame (R70) -/
  late : List Nat
  /-- per slot, the number modulo 4 of the last frame it completed (R81, R340) -/
  lastDone : Tab Nat
  /-- WHEN and TARGET as an armed COMMIT took them (R14, R74) -/
  armed : Option (Bool × Nat)
  /-- slots whose running image slot was in a cold bank at a frame entry: dormant until an image is committed (R390) -/
  stranded : List Nat
  deriving DecidableEq, Repr

/-- DESIGN CHOICE: log 5. -/
def Loader.reset : Loader := ⟨none, none, none, [], [], [], [], [], [], [], none, []⟩

/-- A hearth's supply and spare beside the HEARTH page (R65 to R70, R179 to R183). -/
structure Hearth where
  restarted : Bool
  watchFired : Bool
  /-- v_set as REG codes that take effect at order 7 of the next boundary -/
  nextSet : Option Nat
  /-- frames at the ceiling above the target (R66) -/
  high : Nat
  /-- instant, in T / 1,024, at which the last slot of the frame reached WAIT -/
  finish : Nat
  /-- the slot that waits for the spare to start (R181) -/
  awaiting : Option Nat
  /-- occupancy and overrun of the frame that has just ended, for TEMPO_REGULATION -/
  ended : Option Nat
  /-- a slot restarted in that frame -/
  endRestarted : Bool
  deriving DecidableEq, Repr

/-- DESIGN CHOICE: log 5. -/
def Hearth.reset : Hearth := ⟨false, false, none, 0, 0, none, none, false⟩

/-- A patch set that passed the checks of R447. -/
structure PatchSet where
  seq : Nat
  level : Nat
  raise : Bool
  body : List DW
  deriving DecidableEq, Repr

/-- The hoppers on which commands complete and reports go out (R373, R215). -/
inductive DoneHop where
  | hop4
  | hop5
  deriving DecidableEq, Repr

/-- The control firmware's own state beside its pages (R190, R191, R403, R446 to R449). -/
structure CtrlUnit where
  /-- the ACTIVE role is served (R403) -/
  serving : Bool
  /-- the core that holds STANDBY follows the journal and is ready -/
  ready : Bool
  /-- the patch set that PATCH_LOAD accepted, with the command's hopper and TAG, and whether its handover is armed -/
  patch : Option (PatchSet × Nat × Nat)
  handover : Bool
  /-- the patch set that the control cores run, none for ROM alone -/
  running : Option PatchSet
  /-- completions that wait for room: hopper and words (R373) -/
  doneQ : List (DoneHop × List DW)
  /-- the control SPARE runs its self-check (R190) -/
  selfcheck : Bool
  deriving DecidableEq, Repr

/-- DESIGN CHOICE: log 5. -/
def CtrlUnit.reset : CtrlUnit := ⟨false, false, none, false, none, [], false⟩

/-- The device: every piece of state that the manual gives it. -/
structure Dev where
  /-- live registers by page and offset; an unlisted register reads its reset value (R10, R466) -/
  regs : Tab DW
  /-- page headers (R459, R461); an unlisted page has the header of reset -/
  pages : Tab PageHdr
  /-- staged values (R461), by page and live offset -/
  mirror : Tab DW
  /-- high parts of 48-bit counters latched by a read of the low part, by requester and register (R23); of a control
  core k under 4 × register + k -/
  latchHost : Tab DW
  latchCtrl : Tab DW
  /-- what the last register read returned to the host and to a control core -/
  busHost : Cont
  busCtrl : DW
  /-- the next number of a free value; advanced by each use -/
  free : Nat
  /-- W memories (R30 to R36), by the address at which a control core sees them; an unlisted W is 0 -/
  mem : Tab W
  /-- codes of the stored DW, by even W address (R192); an unlisted DW is good -/
  tags : Tab WordTag
  /-- banks that are warm, as domain × 32 + bank, in rising order (R391) -/
  warm : List Nat
  router : Router
  hops : Tab Hopper
  cores : Tab Core
  /-- what each core's damper holds, oldest first (R172) -/
  held : Tab (List Held)
  hearths : Tab Hearth
  ctrl : CtrlUnit
  loader : Loader
  stoker : Stoker
  flash : Flash
  nand : Nand
  ports : Ports
  link : Link
  attn : Attn
  cmds : List Cmd
  power : Power
  aon : Aon
  health : Health
  tap : Tap
  deriving DecidableEq, Repr

/-- The device while PORST_N is low (R424): AON only, everything else OFF and lost. DESIGN CHOICE: log 4, 5. -/
def Dev.reset : Dev :=
  { regs := [], pages := [], mirror := [], latchHost := [], latchCtrl := [], busHost := 0, busCtrl := 0, free := 0
    mem := [], tags := [], warm := [], router := Router.reset, hops := [], cores := [], held := [], hearths := []
    ctrl := CtrlUnit.reset, loader := Loader.reset, stoker := Stoker.reset, flash := Flash.reset, nand := Nand.reset
    ports := Ports.reset, link := Link.reset, attn := Attn.released, cmds := [], power := Power.reset
    aon := Aon.reset, health := Health.reset, tap := Tap.reset }

/-- The machine: the device, and the commands that wait for it, first in, first out. -/
structure State where
  dev : Dev
  pending : List Instr
  deriving DecidableEq, Repr

/-- The machine right after reset: no command waits. DESIGN CHOICE: log 4. -/
def State.reset : State := ⟨Dev.reset, []⟩

/-- Reasons for which a command stops the machine with a fault. -/
inductive Fault where
  /-- raised by no command: the manual names no effect that stops the device. Safe. -/
  | none
  deriving DecidableEq, Repr

/-- Reasons for which a command has no meaning. -/
inductive Refusal where
  /-- raised by the dispatch for a command whose meaning is not modelled. Safe: nothing can be proved of it -/
  | notModelled (mnemonic : String)
  deriving DecidableEq, Repr

/-- The canonical form of memory (R30): addresses strictly rising, no W listed that is 0. DEDUCED: log 7. -/
def Memory.wf (m : Tab W) : Bool := tabWf (0#14) m

/-- Change the device and leave the queue. -/
def State.onDev (s : State) (f : Dev → Dev) : State := { s with dev := f s.dev }

end Sys2Proof.Machine
end

