-- ==== Sys2Proof/Machine/Ops.lean ====
section
/-! DEFINITION. Named operations over the device: register fields, page headers, domains, roles, sub-states, counters,
free values. -/

namespace Sys2Proof.Machine

/-! Registers (R10, R19). -/

/-- What a live register holds. DESIGN CHOICE: log 8. -/
def Dev.regGet (d : Dev) (key : Nat) : DW := (tabFind d.regs key).getD (regReset key)

/-- Set a live register. -/
def Dev.regSet (d : Dev) (key : Nat) (v : DW) : Dev := { d with regs := tabSet d.regs key v }

/-- Read a field of an instance of a page, element `idx` of its row. -/
def Dev.getAt (d : Dev) (f : RegFld) (inst idx : Nat) : Nat := bitsOf (d.regGet (f.key inst idx)).toNat f.hi f.lo

/-- Write a field. -/
def Dev.putAt (d : Dev) (f : RegFld) (inst idx : Nat) (v : Nat) : Dev :=
  d.regSet (f.key inst idx) (BitVec.ofNat 28 (withBits (d.regGet (f.key inst idx)).toNat f.hi f.lo v))

/-- A field of a page with one instance and of a register that stands alone. -/
def Dev.get (d : Dev) (f : RegFld) : Nat := d.getAt f 0 0
def Dev.put (d : Dev) (f : RegFld) (v : Nat) : Dev := d.putAt f 0 0 v

/-- Is a one-bit field set? -/
def Dev.flag (d : Dev) (f : RegFld) : Bool := d.get f = 1

/-- Forget every live register, staged value and header of a range of pages: they read their reset values again
(R388, R419). -/
def Dev.resetPages (d : Dev) (lo hi : Nat) : Dev :=
  { d with
    regs := tabDelRange d.regs (lo * 0x1000) ((hi + 1) * 0x1000)
    mirror := tabDelRange d.mirror (lo * 0x1000) ((hi + 1) * 0x1000)
    pages := tabDelRange d.pages lo (hi + 1)
    latchHost := tabDelRange d.latchHost (lo * 0x1000) ((hi + 1) * 0x1000)
    latchCtrl := tabDelRange d.latchCtrl (lo * 0x4000) ((hi + 1) * 0x4000) }

/-! Page headers (R459). -/

def Dev.page (d : Dev) (p : Nat) : PageHdr := tabGet PageHdr.reset d.pages p
def Dev.modPage (d : Dev) (p : Nat) (f : PageHdr → PageHdr) : Dev := { d with pages := tabMap PageHdr.reset d.pages p f }

/-- What the block's shared source and its attention contribution see of the page's events (R224, R459). -/
def PageHdr.line (h : PageHdr) : Bool := h.en && (h.event &&& h.eventEn) != 0#28

/-! Free values: what the manual does not state. -/

/-- A value below a bound that the manual does not state, for point `k` of the assumption log.
DESIGN CHOICE: log 9, 10. -/
def Dev.freeBelow (d : Dev) (k n : Nat) : Nat × Dev :=
  (Config.openValue k [d.free] % n, { d with free := d.free + 1 })

/-! Power domains and roles (R387, R190, R405). -/

def Dev.domSt (d : Dev) (n : Nat) : DomSt := tabGet DomSt.off d.power.dom n
def Dev.setDom (d : Dev) (n : Nat) (v : DomSt) : Dev := { d with power := { d.power with dom := tabSet d.power.dom n v } }

/-- The domains that an entry past its commit point has isolated (R394, R405). -/
def Power.isolated (p : Power) (n : Nat) : Bool :=
  match p.entry with
  | some e => decide (5 ≤ e.stage) && !e.undoing && e.doms.any (fun x => x.1 = n)
  | none => false

/-- A domain is in an entry that has not reached stage 5: it accepts no new work (R394). DESIGN CHOICE: log 178. -/
def Dev.stopping (d : Dev) (n : Nat) : Bool :=
  match d.power.entry with | some e => e.doms.any (·.1 = n) && decide (e.stage < 5) | none => false

/-- A domain is ON for accesses. -/
def Dev.isOn (d : Dev) (n : Nat) : Bool := d.domSt n = .on && !d.power.isolated n

/-- Domain numbers (R387). -/
def domHearth (h : Nat) : Nat := 1 + h
def domSpare (h : Nat) : Nat := 17 + h
def domCtrl (k : Nat) : Nat := 33 + k
def domStoker : Nat := 52
def domFlash (p : Nat) : Nat := 53 + p
def domPorts (g : Nat) : Nat := 57 + g
def domLink : Nat := 65
def domHoppers : Nat := 66
def domRouter : Nat := 67

/-- The control cores that hold the roles, 3 where none does (R190). DESIGN CHOICE: log 18. -/
def Dev.active (d : Dev) : Nat := d.get Reg.HEALTH.CTRL.ACTIVE
/-- DESIGN CHOICE: log 18. -/
def Dev.standby (d : Dev) : Nat := d.get Reg.HEALTH.CTRL.STANDBY
def Dev.spareCtrl (d : Dev) : Nat := d.get Reg.HEALTH.CTRL.SPARE

/-- ACTIVE is held, its core's domain is ON and it has resumed the role: the control functions are served (R403). -/
def Dev.served (d : Dev) : Bool := d.ctrl.serving && d.active < 3 && d.isOn (domCtrl d.active)

/-- Some control core is ON. -/
def Dev.anyCtrl (d : Dev) : Bool := d.isOn 33 || d.isOn 34 || d.isOn 35

/-- ACTIVE is free and STANDBY is about to take it (R191). DEDUCED: log 114. -/
def Dev.takeoverDue (d : Dev) : Bool := decide (d.active = 3) && decide (d.standby < 3)

/-- The domain whose state decides whether a page is reached (R18, R83, R470); the IMAGE page is reached while a
control core is ON and the ACTIVE role is served or about to be. -/
def Dev.pageOn (d : Dev) (p : Nat) : Bool :=
  match pageInfo p with
  | some i => if i.never || i.page = 0x0F0 then true else if p = 0x0A0 then d.anyCtrl && (d.ctrl.serving || d.takeoverDue) else d.isOn (pageDom p)
  | none => false

/-! Sub-states by number. -/

def Dev.hop (d : Dev) (n : Nat) : Hopper := tabGet Hopper.reset d.hops n
def Dev.modHop (d : Dev) (n : Nat) (f : Hopper → Hopper) : Dev := { d with hops := tabMap Hopper.reset d.hops n f }
def Dev.core (d : Dev) (n : Nat) : Core := tabGet Core.reset d.cores n
def Dev.setCore (d : Dev) (n : Nat) (c : Core) : Dev := { d with cores := tabSet d.cores n c }
def Dev.modCore (d : Dev) (n : Nat) (f : Core → Core) : Dev := d.setCore n (f (d.core n))
def Dev.hearth (d : Dev) (h : Nat) : Hearth := tabGet Hearth.reset d.hearths h
def Dev.modHearth (d : Dev) (h : Nat) (f : Hearth → Hearth) : Dev :=
  { d with hearths := tabMap Hearth.reset d.hearths h f }
def Dev.modRouter (d : Dev) (f : Router → Router) : Dev := { d with router := f d.router }
def Dev.modPower (d : Dev) (f : Power → Power) : Dev := { d with power := f d.power }
def Dev.modLoader (d : Dev) (f : Loader → Loader) : Dev := { d with loader := f d.loader }
def Dev.modStoker (d : Dev) (f : Stoker → Stoker) : Dev := { d with stoker := f d.stoker }
def Dev.modFlash (d : Dev) (f : Flash → Flash) : Dev := { d with flash := f d.flash }
def Dev.modPorts (d : Dev) (f : Ports → Ports) : Dev := { d with ports := f d.ports }
def Dev.modLink (d : Dev) (f : Link → Link) : Dev := { d with link := f d.link }
def Dev.modAon (d : Dev) (f : Aon → Aon) : Dev := { d with aon := f d.aon }
def Dev.modHealth (d : Dev) (f : Health → Health) : Dev := { d with health := f d.health }

/-! The running image (R50 to R56). -/

/-- The programs of the running image: bit s is set where slot s has one. -/
def Dev.runMask (d : Dev) : Nat := match d.loader.run with | some i => i.slotMask | none => 0
def Dev.hasProgram (d : Dev) (slot : Nat) : Bool := slot < 64 && bitOf d.runMask slot
def Dev.programs (d : Dev) : List Nat := bitList d.runMask 64
def Image.slot (i : Image) (s : Nat) : SlotCfg := tabGet ⟨0, 0, 0, 0, []⟩ i.cfg s
def Dev.slotCfg (d : Dev) (s : Nat) : SlotCfg := match d.loader.run with | some i => i.slot s | none => ⟨0, 0, 0, 0, []⟩

/-- The number of the running frame, bits [11:0] (R42). -/
def Dev.frame12 (d : Dev) : Nat := d.aon.frame.toNat % 0x1000

/-- Apply an operation for each number of a list, in order. -/
def Dev.each (d : Dev) (l : List Nat) (f : Dev → Nat → Dev) : Dev := l.foldl f d

/-- Apply an operation where a condition holds. -/
def Dev.iff (d : Dev) (b : Bool) (f : Dev → Dev) : Dev := if b then f d else d

/-! Class P counters stay at their maximum (R19). -/

def Dev.bumpP (d : Dev) (f : RegFld) (inst idx : Nat) (n : Nat) : Dev :=
  d.putAt f inst idx (Nat.min (d.getAt f inst idx + n) (2 ^ (f.hi + 1 - f.lo) - 1))

/-- What a lane group holds of its lanes' samples is gone: last good ones, elastic buffers, what was captured and
serialised (R419, R471). -/
def Ports.dropGroup (p : Ports) (g : Nat) : Ports :=
  let lo := 512 * g
  { p with
    good := tabDelRange p.good lo (lo + 512)
    sensor := tabDelRange p.sensor lo (lo + 512)
    elastic := tabDelRange p.elastic lo (lo + 512)
    next := tabDelRange p.next lo (lo + 512)
    tx := tabDelRange p.tx lo (lo + 512)
    status := tabDelRange p.status lo (lo + 512) }

end Sys2Proof.Machine
end

