-- ==== Sys2Proof/Machine/Wake.lean ====
section
/-! DEFINITION. Implied sets, exits and wakes (R392, R396, R397, R401, R402). -/

namespace Sys2Proof.Machine

/-- Union of two lists of numbers in rising order. -/
def setUnion (a b : List Nat) : List Nat := b.foldl setInsert a

/-- The domains of the cores that hold ACTIVE and STANDBY (R190, R393). -/
def Dev.ctrlDoms (d : Dev) : List Nat := setUnion [] (([d.active, d.standby].filter (· < 3)).map domCtrl)

/-- The domains that must be ON for a domain to be ON (R387, R239, R261, R293, R350, R384). -/
def Dev.needs (d : Dev) (n : Nat) : List Nat :=
  if 1 ≤ n && n ≤ 16 then [domHoppers, domRouter, domPorts 0] ++ d.ctrlDoms
  else if 17 ≤ n && n ≤ 32 then [domHoppers, domRouter] ++ d.ctrlDoms
  else if 33 ≤ n && n ≤ 35 then [domHoppers, domRouter]
  else if n = 52 then domFlash 0 :: d.ctrlDoms
  else if n = 53 then d.ctrlDoms
  else if 54 ≤ n && n ≤ 56 then domFlash 0 :: d.ctrlDoms
  else if 58 ≤ n && n ≤ 64 then [domPorts 0]
  else if n = 65 then [domHoppers]
  else []

/-- One round of adding what a set needs. -/
def Dev.implyOnce (d : Dev) (l : List Nat) : List Nat := l.foldl (fun a n => setUnion a (d.needs n)) l

/-- A set of domains with its implied set (R392). Three rounds close it: PORTS, FLASH or HEARTH need CTRL, which
needs ROUTER and HOPPERS. -/
def Dev.implied (d : Dev) (l : List Nat) : List Nat := d.implyOnce (d.implyOnce (d.implyOnce (setUnion [] l)))

/-- The spare of a hearth runs a slot, by the retirement map in AON: C4 is neither unused nor retired (R182, R443). -/
def Dev.spareRuns (d : Dev) (h : Nat) : Bool :=
  match tabFind d.health.cores h with
  | some v =>
    let st := bitsOf (bitsOf v.toNat Reg.HEARTH.CORES.STATE.hi Reg.HEARTH.CORES.STATE.lo) 9 8
    st = 1 || st = 2
  | none => false

/-- A hearth that returns brings its spare with it where the spare runs a slot (R182, R402). -/
def Dev.withSpares (d : Dev) (l : List Nat) : List Nat :=
  setUnion l ((l.filter (fun n => 1 ≤ n && n ≤ 16 && d.spareRuns (n - 1))).map (· + 16))

/-- The domains of a list that are not ON. -/
def Dev.notOn (d : Dev) (l : List Nat) : List Nat := l.filter (fun n => d.domSt n ≠ .on)

/-- The pilot oscillator starts on demand (R412). -/
def Dev.pilotStart (d : Dev) : Dev := d.put Reg.CLOCKS.STATUS.PILOT_RUN 1

/-- Start an exit for the domains of a set that are not ON, or add them to the exit that runs (R402). -/
def Dev.startExit (d : Dev) (l : List Nat) (request wake : Bool) : Dev :=
  d.pilotStart.modPower fun p =>
    match p.exit with
    | some e => { p with exit := some ⟨setUnion e.todo (d.notOn (d.withSpares l)), e.request || request, e.wake || wake⟩ }
    | none => { p with exit := some ⟨d.notOn (d.withSpares l), request, wake⟩ }

/-- A 68-bit mask of domains as its parts of 28 bits. -/
def domMask (l : List Nat) (r : Nat) : Nat := ((l.filter (fun n => n / 28 = r)).map (fun n => 2 ^ (n % 28))).sum

/-- Write the last-wake record, or mark it where it already holds a wake (R401). DESIGN CHOICE: log 87. -/
def Dev.recordWake (d : Dev) (source level set : Nat) (many during : Bool) (doms : List Nat) : Dev :=
  if d.flag Reg.AON.WAKE_LAST.VALID then d.put Reg.AON.WAKE_LAST.MULTIPLE 1
  else
    let d := d.put Reg.AON.WAKE_LAST.VALID 1
    let d := d.put Reg.AON.WAKE_LAST.DURING_ENTRY (b2n during)
    let d := d.put Reg.AON.WAKE_LAST.MULTIPLE (b2n many)
    let d := d.put Reg.AON.WAKE_LAST.LEVEL level
    let d := d.put Reg.AON.WAKE_LAST.SET set
    let d := d.put Reg.AON.WAKE_LAST.SOURCE source
    let d := d.putAt Reg.AON.WAKE_WOKEN.MASK 0 0 (domMask doms 0)
    let d := d.putAt Reg.AON.WAKE_WOKEN.MASK 0 1 (domMask doms 1)
    let d := d.putAt Reg.AON.WAKE_WOKEN.MASK 0 2 (domMask doms 2)
    d.modAon fun a => { a with wakeStamp := a.ticks }

/-- A wake fires (R396, R397, R401): its lowest source, the level seen, its set, whether several fired, and the
domains of its set. -/
def Dev.wakeFire (d : Dev) (source level set : Nat) (many : Bool) (doms : List Nat) : Dev :=
  let full := d.withSpares (d.implied doms)
  match d.power.entry with
  | none =>
    let new := d.notOn full
    if new.isEmpty then d
    else
      match d.power.exit with
      | some e =>
        if new.all (fun n => e.todo.contains n) then d.recordWake source level set many false new
        else (d.recordWake source level set many false new).startExit new false true
      | none => (d.recordWake source level set many false new).startExit new false true
  | some e =>
    let mine := setUnion (setUnion [] (e.doms.map (·.1))) e.lower
    if full.any (fun n => mine.contains n) then
      if e.stage < 5 then
        let d := d.recordWake source level set many true mine
        d.modPower fun p =>
          { p with entry := some { e with abandoned := some (e.abandoned.getD 0x06) }, queued := setUnion p.queued full }
      else
        let d := d.recordWake source level set many true (full.filter (fun n => d.domSt n ≠ .on || mine.contains n))
        d.modPower fun p => { p with queued := setUnion p.queued full }
    else
      let new := d.notOn full
      if new.isEmpty then d else (d.recordWake source level set many true new).startExit new false true

end Sys2Proof.Machine
end

