-- ==== Sys2Proof/Machine/Events.lean ====
section
/-! DEFINITION. Page events, class S counters, and the firing of sources at the event router (R19, R222 to R236). -/

namespace Sys2Proof.Machine

/-- The key of SRC_CFG[n] (R241). -/
def srcKey (n : Nat) : Nat := regKey (0x031 + (n - 32) / 192) (0x100 + 4 * ((n - 32) % 192))

/-- The fields of SRC_CFG[n]. -/
def Dev.srcTarget (d : Dev) (n : Nat) : Nat := bitsOf (d.regGet (srcKey n)).toNat 6 0
def Dev.srcPrio (d : Dev) (n : Nat) : Nat := bitsOf (d.regGet (srcKey n)).toNat 15 8
def Dev.srcEnabled (d : Dev) (n : Nat) : Bool := bitOf (d.regGet (srcKey n)).toNat 16
def Dev.srcWake (d : Dev) (n : Nat) : Bool := bitOf (d.regGet (srcKey n)).toNat 17

/-- The domain that serves a target, none where no core holds the role (R234). -/
def Dev.targetDom (d : Dev) (t : Nat) : Option Nat :=
  if t < 64 then some (domHearth (t / 4))
  else if t = 64 then (if d.active < 3 then some (domCtrl d.active) else none)
  else if t = 65 then (if d.standby < 3 then some (domCtrl d.standby) else none)
  else none

/-- A target is asleep (R234). -/
def Dev.asleep (d : Dev) (t : Nat) : Bool := match d.targetDom t with | some n => !d.isOn n | none => true

/-- The crossing group (R417) between a shared source's block and the router, for the blocks that have a clock of
their own. DEDUCED: log 53. -/
def crossingOf (n : Nat) : Option Nat :=
  if 48 ≤ n && n ≤ 55 then some (n - 42)
  else if n = 56 then some 14
  else if 76 ≤ n && n ≤ 83 then some (1 + (n - 76) / 2)
  else if n = 84 then some 0
  else if 96 ≤ n && n ≤ 159 then some (6 + (n - 96) / 8)
  else none

/-- An event bit that becomes set, a source that pulses at its block, or a source whose pulse reaches the router. -/
inductive Work where
  | ev (page mask : Nat)
  | pulse (n : Nat)
  | fire (n : Nat)
  deriving DecidableEq, Repr

/-- What a page's line fires as it rises: the block's source (R224). -/
def pageFires (page : Nat) : List Work := if pageSource page = 0 then [] else [.pulse (pageSource page)]

/-- The firings of a change of a page header. -/
def lineRise (old new : PageHdr) (page : Nat) : List Work := if !old.line && new.line then pageFires page else []

/-- A firing for a target asks for a wake: the target is asleep, or its domain is in stages 1 to 4 of an entry (R234,
R406). -/
def Dev.needsWake (d : Dev) (t : Nat) : Bool :=
  d.asleep t || (match d.targetDom t with | some n => d.stopping n | none => false)

/-- A shared source that is pending is looked at: a sleeping target may be woken, a slot without a program is
reported; ROUTER acts only while it is ON (R234, R235). -/
def Dev.present (d : Dev) (n : Nat) : Dev × List Work :=
  let t := d.srcTarget n
  if 65 < t || !d.isOn domRouter then (d, [])
  else
    let wakes := d.srcEnabled n && d.srcWake n && d.needsWake t
    let d' := if wakes then (match d.targetDom t with | some m => d.wakeFire 0x10 0 0 false [m] | none => d) else d
    (d', (if wakes then [.ev 0x030 1] else []) ++ (if t < 64 && !d.hasProgram t then [.ev 0x030 2] else []))

/-- Make a shared source pending; lost while ROUTER is not ON (R222, R231, R238). -/
def Dev.pendShared (d : Dev) (n : Nat) : Dev :=
  d.modRouter fun r => { r with pendS := setInsert r.pendS n, replayS := setInsert r.replayS n }

/-- The bit of a crossing group is set in XRESET or XLOST (R417). -/
def Dev.setGroup (d : Dev) (f : RegFld) (g : Nat) : Dev := d.put f (d.get f ||| 2 ^ g)

/-- A pulse is lost at a full crossing: PULSE_LOST_CNT counts it, and the events follow (R418, R19). -/
def Dev.pulseLost (d : Dev) (g : Nat) : Dev × List Work :=
  let d := d.setGroup Reg.CLOCKS.XLOST.GROUP g
  let c := d.get Reg.CLOCKS.PULSE_LOST_CNT.COUNT
  if c < 2 ^ (Reg.CLOCKS.PULSE_LOST_CNT.COUNT.hi + 1 - Reg.CLOCKS.PULSE_LOST_CNT.COUNT.lo) - 1 then
    (d.put Reg.CLOCKS.PULSE_LOST_CNT.COUNT (c + 1), [.ev 0x091 0x40])
  else if d.flag Reg.CLOCKS.PULSE_LOST_CNT.OVF then (d, [.ev 0x091 0x40])
  else
    (d.put Reg.CLOCKS.PULSE_LOST_CNT.OVF 1,
      [.ev 0x091 (0x40 ||| (match pageSat 0x091 with | some b => 2 ^ b | none => 0))])

/-- A source pulses at its block: each source has a crossing of its own where the block has a clock (R222, R418). -/
def Dev.pulse (d : Dev) (n : Nat) : Dev × List Work :=
  match crossingOf n with
  | none => (d, [.fire n])
  | some g =>
    if !d.router.awaiting.contains n then (d.modRouter fun r => { r with awaiting := setInsert r.awaiting n }, [.fire n])
    else if tabGet 0 d.router.queued n < 7 then
      (d.modRouter fun r => { r with queued := tabMap 0 r.queued n (· + 1) }, [])
    else d.pulseLost g

/-- Do one piece of work, with the work that follows from it; a block source's mirror fires with it (R224). -/
def Dev.work (d : Dev) (w : Work) : Dev × List Work :=
  match w with
  | .ev page mask =>
    let old := d.page page
    let new := { old with event := old.event ||| BitVec.ofNat 28 mask }
    (d.modPage page fun _ => new, lineRise old new page)
  | .pulse n => d.pulse n
  | .fire n =>
    if d.isOn domRouter then
      let (d, ws) := (d.pendShared n).present n
      (d, ws ++ (if 32 ≤ n && n ≤ 95 then [.fire (n + 448)] else []))
    else (d, [])

/-- Do work until none is left. A page's line rises at most once, so the fuel is never short. DEDUCED: log 53. -/
def Dev.works : Nat → List Work → Dev → Dev
  | 0, _, d => d
  | _, [], d => d
  | k + 1, w :: ws, d => Dev.works k (ws ++ (d.work w).2) (d.work w).1

/-- Set event bits of a page. DEDUCED: log 53. -/
def Dev.raiseMask (d : Dev) (page mask : Nat) : Dev := Dev.works 64 [.ev page mask] d
def Dev.raise (d : Dev) (page bit : Nat) : Dev := d.raiseMask page (2 ^ bit)

/-- Fire a shared source at the router (R222, R224). -/
def Dev.fireShared (d : Dev) (n : Nat) : Dev := Dev.works 64 [.fire n] d

/-- A shared source pulses at its block (R222, R418). DEDUCED: log 53. -/
def Dev.pulseShared (d : Dev) (n : Nat) : Dev := Dev.works 64 [.pulse n] d

/-- Change a page's header; its line may rise (R224). -/
def Dev.changePage (d : Dev) (page : Nat) (f : PageHdr → PageHdr) : Dev :=
  Dev.works 64 (lineRise (d.page page) (f (d.page page)) page) (d.modPage page f)

/-- Make a private source of a target pending (R222, R223, R231, R235). DEDUCED: log 54. -/
def Dev.firePriv (d : Dev) (t s : Nat) : Dev :=
  if d.isOn domRouter then
    let d := d.modRouter fun r =>
      { r with
        pendP := tabMap 0#32 r.pendP t (· ||| (1#32 <<< s))
        replayP := tabMap 0#32 r.replayP t (· ||| (1#32 <<< s)) }
    if t < 64 && !d.hasProgram t then d.raise 0x030 1 else d
  else d

/-- Count one in a class S counter (R19): at its maximum it sets OVF, and raises the page's SAT event where OVF was
clear. -/
def Dev.countS (d : Dev) (cnt ovf : RegFld) (inst idx : Nat) : Dev :=
  let m := 2 ^ (cnt.hi + 1 - cnt.lo) - 1
  let c := d.getAt cnt inst idx
  if c < m then d.putAt cnt inst idx (c + 1)
  else if d.getAt ovf inst idx = 1 then d
  else
    let d := d.putAt ovf inst idx 1
    match pageSat (cnt.page + inst) with
    | some b => d.raise (cnt.page + inst) b
    | none => d

/-- Count n in a class S counter. -/
def Dev.countSN (d : Dev) (cnt ovf : RegFld) (inst idx n : Nat) : Dev :=
  let m := 2 ^ (cnt.hi + 1 - cnt.lo) - 1
  let c := d.getAt cnt inst idx
  if c + n ≤ m then d.putAt cnt inst idx (c + n)
  else if n = 0 then d
  else (d.putAt cnt inst idx m).countS cnt ovf inst idx

/-- Count a corrected word in PAGE_ERRCNT of a page (R459). -/
def Dev.countCorr (d : Dev) (page : Nat) : Dev :=
  let h := d.page page
  if h.corr < 0xFFFF then d.modPage page fun h => { h with corr := h.corr + 1 }
  else if h.corrOvf then d
  else
    let d := d.modPage page fun h => { h with corrOvf := true }
    match pageSat page with | some b => d.raise page b | none => d

/-- Count an uncorrectable word in PAGE_ERRCNT of a page (R459). -/
def Dev.countUnc (d : Dev) (page : Nat) : Dev :=
  let h := d.page page
  if h.unc < 0xFF then d.modPage page fun h => { h with unc := h.unc + 1 }
  else if h.uncOvf then d
  else
    let d := d.modPage page fun h => { h with uncOvf := true }
    match pageSat page with | some b => d.raise page b | none => d

end Sys2Proof.Machine
end

