-- ==== Sys2Proof/Machine/FlashPair.lean ====
section
/-! DEFINITION. The data-interface mode of a flash channel pair (R295, R296, R321). -/

namespace Sys2Proof.Machine

/-- The I/O rail of a channel pair was sensed at its return, and is within tolerance (R475, R476). -/
def Dev.pairRail (d : Dev) (p : Nat) : Bool := d.getAt Reg.FCH.STATUS.VIO (2 * p) 0 ≠ 0 && !d.power.railLost.contains p

/-- What a channel shows: a pair without its rail answers no LUN (R475). -/
def Dev.chanSeen (d : Dev) (c : Nat) (r : ChanReport) : ChanReport :=
  if d.pairRail (c / 2) then r else { r with ceMask := 0 }

/-- The highest rate of a mode in MT/s: F-SDR, F-DDR-A, F-DDR-B, F-LP. -/
def modeLimit : Nat → Nat
  | 0 => 50
  | 1 => 800
  | 2 => 1600
  | _ => 3600

/-- A mode works with a sensed rail: 1 is 1.2 V, 2 is 1.8 V. -/
def modeRail (m vio : Nat) : Bool := if m = 0 then vio = 1 || vio = 2 else if m = 1 then vio = 2 else vio = 1

/-- The highest rate that a channel's LUNs declare for a mode, 0 for none. -/
def chanRate (c : ChanReport) (m : Nat) : Nat := (c.modes[m]?).getD 0

/-- What a pair selects: mode and rate; none where no mode is possible. -/
def Dev.pairMode (d : Dev) (p : Nat) (a b : ChanReport) : Option (Nat × Nat) :=
  let vio := d.getAt Reg.FCH.STATUS.VIO (2 * p) 0
  let caps (c : Nat) : Nat × Nat := (d.flash.caps[c]?).getD (0, 0)
  let top := Nat.min (caps (2 * p)).1 (caps (2 * p + 1)).1
  let cap := Nat.min (caps (2 * p)).2 (caps (2 * p + 1)).2
  let rate (m : Nat) : Nat := Nat.min (Nat.min (chanRate a m) (chanRate b m)) (Nat.min cap (modeLimit m))
  let ok (m : Nat) : Bool := modeRail m vio && decide (m ≤ top) && chanRate a m ≠ 0 && chanRate b m ≠ 0
  match [3, 2, 1, 0].find? ok with
  | some m => if m = 0 || (a.trainOk && b.trainOk) then some (m, rate m) else some (0, rate 0)
  | none => none

/-- The pair fell back to F-SDR as its training failed. DESIGN CHOICE: log 122. -/
def fellBack (a b : ChanReport) : Bool := !(a.trainOk && b.trainOk)

/-- A pair is switched to the mode it selects. DESIGN CHOICE: log 122. -/
def Dev.trainPair (d : Dev) (p : Nat) : Dev :=
  match d.flash.chans[2 * p]?, d.flash.chans[2 * p + 1]? with
  | some a, some b =>
    let (m, r) := (d.pairMode p a b).getD (7, 0)
    d.each [2 * p, 2 * p + 1] fun d c =>
      let d := (d.putAt Reg.FCH.STATUS.MODE c 0 m).putAt Reg.FCH.STATUS.MTS c 0 r
      if fellBack a b then d.raise (0x060 + c) 1 else d
  | _, _ => d

/-- A pair is trained again after the mount. DESIGN CHOICE: log 122. -/
def Dev.retrainPair (d : Dev) (p : Nat) : Dev :=
  (d.trainPair p).each [2 * p, 2 * p + 1] fun d c =>
    let d := match d.flash.chans[c]? with
      | some x =>
        let r := d.chanSeen c x
        (d.putAt Reg.FCH.STATUS.CE_MASK c 0 r.ceMask.toNat).putAt Reg.FCH.STATUS.LUNS c 0
          ((bitList r.ceMask.toNat 4).length * r.lunsPerTarget.toNat)
      | none => d
    (d.countS Reg.FCH.TRAIN_CNT.COUNT Reg.FCH.TRAIN_CNT.OVF c 0).raise (0x060 + c) 1

end Sys2Proof.Machine
end

