-- ==== Sys2Proof/Machine/Hoppers.lean ====
section
/-! DEFINITION. Hoppers: items, credit, delivery, PACKET and REPLAY mode, FLUSH, DROP, the LEVEL event (R242 to
R261). -/

namespace Sys2Proof.Machine

/-! Configuration (R244). -/

def Dev.hopReplay (d : Dev) (n : Nat) : Bool := d.getAt Reg.HOP.CFG.MODE n 0 = 1
def Dev.hopLevel (d : Dev) (n : Nat) : Nat := d.getAt Reg.HOP.CFG.LEVEL n 0

/-- The consumer of a hopper; a value that the table of R244 leaves blank acts as 0x7F. -/
def Dev.hopConsumer (d : Dev) (n : Nat) : Nat :=
  let v := d.getAt Reg.HOP.CFG.CONSUMER n 0
  if v ≤ 64 || v = 0x7E then v else 0x7F

/-- The producer and credit that account k is configured with. -/
def Dev.hopProd (d : Dev) (n k : Nat) : Nat × Nat :=
  let (v, c) := if k = 0 then (d.getAt Reg.HOP.PROD0.ID n 0, d.getAt Reg.HOP.PROD0.CREDIT n 0)
    else (d.getAt Reg.HOP.PROD.ID n (k - 1), d.getAt Reg.HOP.PROD.CREDIT n (k - 1))
  (if v ≤ 67 then v else 0x7F, c)

/-- What each account grants: a repeated producer grants nothing, and the credits are cut to 4,096 words in all. -/
def grants : List (Nat × Nat) → List Nat → Nat → List (Nat × Nat)
  | [], _, _ => []
  | (p, c) :: t, seen, sum =>
    if p = 0x7F || seen.contains p then (0x7F, 0) :: grants t seen sum
    else (p, Nat.min c (4096 - sum)) :: grants t (p :: seen) (Nat.min 4096 (sum + c))

/-- The accounts of a hopper with what they grant. -/
def Dev.hopAccts (d : Dev) (n : Nat) : List (Nat × Nat) := grants ((List.range 4).map (d.hopProd n)) [] 0

/-- PAGE_STATUS.CLIPPED: the credits were reduced. -/
def Dev.hopClipped (d : Dev) (n : Nat) : Bool :=
  decide (4096 < (((d.hopAccts n).zip ((List.range 4).map (d.hopProd n))).map
    (fun x => if x.1.1 = 0x7F then 0 else x.2.2)).sum)

/-- The account of a producer, none where no account names it. -/
def Dev.hopAcct (d : Dev) (n prod : Nat) : Option Nat :=
  let k := (d.hopAccts n).findIdx (fun a => a.1 = prod && a.1 ≠ 0x7F)
  if k < 4 then some k else none

def Hopper.charge (h : Hopper) (k : Nat) : Nat := tabGet 0 h.heldW k

/-- ACCT.AVAIL of account k. -/
def Dev.hopAvail (d : Dev) (n k : Nat) : Nat := (((d.hopAccts n)[k]?).getD (0x7F, 0)).2 - (d.hop n).charge k

/-! The stored words. -/

/-- The header that an item with an uncorrectable header reads as (R257). -/
def lostHeader (prio len : Nat) : DW := BitVec.ofNat 28 (prio * 2 ^ 25 + len * 2 ^ 19 + 0x7FFFF)

def HItem.count (i : HItem) : Nat := i.words.length

/-- An item's words as they are delivered (R257). -/
def HItem.unpack (i : HItem) : List HWord :=
  i.words.zipIdx.map fun (w, k) =>
    { val := if w.2.bad then (if k = 0 then lostHeader i.prio (i.count - 1) else 0#28) else w.1
      tag := w.2, head := k = 0, left := i.count - 1 - k, acct := i.acct, item := i.id, prio := i.prio, len := i.count - 1 }

/-- FILL: words that POP will still deliver (R248). -/
def Hopper.fill (h : Hopper) : Nat := (h.log.length - h.pos) + h.rest.length + (h.ready.map HItem.count).sum

/-- USED: words stored. -/
def Hopper.used (h : Hopper) : Nat :=
  h.log.length + h.rest.length + (h.ready.map HItem.count).sum + (h.held.map HItem.count).sum
    + (h.parts.map (fun p => if p.mode = .keep then p.words.length else 0)).sum

/-- DISCARDING: a flush still discards words on arrival. -/
def Hopper.discarding (h : Hopper) : Bool := h.parts.any (fun p => p.mode = .flushing)

/-- The word delivered last, which ITEM describes. DESIGN CHOICE: log 98. -/
def Hopper.lastWord (h : Hopper) : Option HWord := if h.pos = 0 then h.before else h.log[h.pos - 1]?

/-- ITEM (R248): POISON and IN_ITEM describe the item being read. DESIGN CHOICE: log 98. -/
def Hopper.item (h : Hopper) : DW :=
  match h.lastWord with
  | some w => if w.left = 0 then 0 else
      BitVec.ofNat 28 (b2n (h.poisoned.contains w.item) * 2 ^ 27 + 2 ^ 26 + w.left)
  | none => 0

/-- Return credit for n words of account k (R246). -/
def Hopper.refund (h : Hopper) (k n : Nat) : Hopper := { h with heldW := tabMap 0 h.heldW k (· - n) }

def Hopper.refundWords (h : Hopper) (ws : List HWord) : Hopper := ws.foldl (fun h w => h.refund w.acct 1) h
def Hopper.refundItems (h : Hopper) (is : List HItem) : Hopper := is.foldl (fun h i => h.refund i.acct i.count) h

/-- The next word that POP would return (R248). -/
def Hopper.next (h : Hopper) : Option HWord :=
  match h.log[h.pos]? with
  | some w => some w
  | none =>
    match h.rest with
    | w :: _ => some w
    | [] => (h.ready.head?).bind (fun i => i.unpack.head?)

/-- Deliver the next word: the delivery position moves past it. -/
def Hopper.advance (h : Hopper) : Hopper :=
  if h.pos < h.log.length then { h with pos := h.pos + 1 }
  else
    match h.rest with
    | w :: ws => { h with rest := ws, log := h.log ++ [w], pos := h.pos + 1 }
    | [] =>
      match h.ready with
      | i :: is =>
        match i.unpack with
        | w :: ws => { h with ready := is, rest := ws, log := h.log ++ [w], pos := h.pos + 1 }
        | [] => { h with ready := is }
      | [] => h

/-- Free the first k words of the delivered sequence, with their credit (R252). -/
def Hopper.freeFirst (h : Hopper) (k : Nat) : Hopper :=
  { h.refundWords (h.log.take k) with
    log := h.log.drop k
    before := if k = 0 then h.before else (h.log[k - 1]?).orElse (fun _ => h.before)
    pos := h.pos - k
    mark := h.mark - k }

/-- MARK, REWIND and RELEASE (R252), judged on released pops (R172, R251). A pop that is still held when a REWIND acts
delivers its word again. DEDUCED: log 163. -/
def Hopper.doMark (h : Hopper) : Hopper := { h with mark := h.pos - h.tent }
/-- DEDUCED: log 163. -/
def Hopper.doRewind (h : Hopper) : Hopper := { h with pos := h.mark, tent := 0 }
/-- DEDUCED: log 163. -/
def Hopper.doRelease (h : Hopper) : Hopper := h.freeFirst h.mark

/-- The last tentative pop is returned by a discard (R174). DEDUCED: log 163. -/
def Hopper.untake (h : Hopper) : Hopper :=
  if h.tent = 0 then h else { h with pos := h.pos - 1, tent := h.tent - 1 }

/-- Put an item among the readable ones: behind every item of its priority or above (R243). -/
def insertItem : List HItem → HItem → List HItem
  | [], i => [i]
  | j :: t, i => if j.prio < i.prio then i :: j :: t else j :: insertItem t i

def Hopper.addReady (h : Hopper) (i : HItem) : Hopper := { h with ready := insertItem h.ready i }

/-! One beat: the LEVEL event, and the host's credit (R256, R369). -/

/-- The LEVEL event and HOPLEVEL source where FILL crossed LEVEL upward. -/
def Dev.levelCheck (d : Dev) (n was : Nat) : Dev :=
  let l := d.hopLevel n
  if l ≠ 0 && was < l && l ≤ (d.hop n).fill then
    let d := d.raise (0x040 + n) 0
    if 6 ≤ n && d.hopConsumer n < 64 then d.firePriv (d.hopConsumer n) (n + 2) else d
  else d

/-- A beat in which a hopper changes. -/
def Dev.hopBeat (d : Dev) (n : Nat) (f : Dev → Dev) : Dev :=
  let was := (d.hop n).fill
  let d' := f d
  let d' := match d'.hopAcct n 65 with
    | some k => if (d'.hop n).charge k < (d.hop n).charge k then d'.modHop n fun h => { h with creditDue := true } else d'
    | none => d'
  d'.levelCheck n was

/-! Pops (R248 to R252, R257). -/

/-- The next word is the header of an item of which nothing was delivered. -/
def Hopper.fresh (h : Hopper) : Bool := (h.next.map (·.head)).getD false && h.pos = h.log.length && h.rest.isEmpty

/-- The codes that the next delivery reads: those of every word of an item whose header is delivered, else that of the
word (R257). -/
def Hopper.nextTags (h : Hopper) : List WordTag :=
  if h.fresh then (h.ready.head?.map fun i => i.words.map (·.2)).getD [] else (h.next.map fun w => [w.tag]).getD []

/-- A correctable word is written back (R257). -/
def WordTag.mended : WordTag → WordTag
  | .correctable => .good
  | t => t

def HWord.mended (w : HWord) : HWord := { w with tag := w.tag.mended }

/-- The words that the next delivery reads are written back where they were correctable. -/
def Hopper.mendNext (h : Hopper) : Hopper :=
  { h with
    log := h.log.mapIdx fun i w => if i = h.pos then w.mended else w
    rest := if h.pos = h.log.length then h.rest.mapIdx fun i w => if i = 0 then w.mended else w else h.rest
    ready := if h.fresh then h.ready.mapIdx fun i x =>
        if i = 0 then { x with words := x.words.map fun w => (w.1, w.2.mended) } else x
      else h.ready }

/-- A corrected word of a hopper is counted (R257, R438). -/
def Dev.hopCorrected (d : Dev) (n : Nat) : Dev :=
  (d.modHealth fun x => { x with ceToday := tabMap 0 x.ceToday 4 (· + 1) }).countCorr (0x040 + n)

/-- A poisoned item is counted (R257). -/
def Dev.hopPoisoned (d : Dev) (n : Nat) : Dev :=
  let d := d.countUnc (0x040 + n)
  let d := d.modHealth fun x => { x with ueToday := tabMap 0 x.ueToday 4 (· + 1) }
  let d := d.countS Reg.HOP.POISON_CNT.COUNT Reg.HOP.POISON_CNT.OVF n 0
  d.raise (0x040 + n) 2

/-- The codes of what is delivered next are read: correctable words are written back and counted, and an item that is
found poisoned is counted once (R257). -/
def Dev.poisonCheck (d : Dev) (n : Nat) : Dev :=
  let tags := (d.hop n).nextTags
  let weak := tags.filter (· = .correctable)
  let d := if weak.isEmpty then d
    else weak.foldl (fun d _ => d.hopCorrected n) (d.modHop n Hopper.mendNext)
  let h := d.hop n
  match h.next with
  | none => d
  | some w =>
    let bad := tags.any WordTag.bad
    if bad && !h.poisoned.contains w.item then
      (d.modHop n fun h => { h with poisoned := setInsert h.poisoned w.item }).hopPoisoned n
    else d

/-! Codes of stored words (R192, R257). -/

/-- A stored word with what its code says; an uncorrectable one reads as R257 states. -/
def HWord.marked (w : HWord) (t : WordTag) : HWord :=
  { w with tag := t, val := if t.bad then (if w.head then lostHeader w.prio w.len else 0#28) else w.val }

/-- Mark the k-th word of an item. -/
def HItem.mark (i : HItem) (k : Nat) (t : WordTag) : HItem :=
  { i with words := i.words.mapIdx fun j w => if j = k then (w.1, t) else w }

/-- Mark the k-th word of a list of items. -/
def markItems : List HItem → Nat → WordTag → List HItem
  | [], _, _ => []
  | i :: l, k, t => if k < i.count then i.mark k t :: l else i :: markItems l (k - i.count) t

/-- Mark the k-th stored word: delivered ones first, then the item being read, readable items and held ones. -/
def Hopper.markWord (h : Hopper) (k : Nat) (t : WordTag) : Hopper :=
  let a := h.log.length
  let b := a + h.rest.length
  let c := b + (h.ready.map HItem.count).sum
  if k < a then { h with log := h.log.mapIdx fun i w => if i = k then w.marked t else w }
  else if k < b then { h with rest := h.rest.mapIdx fun i w => if i = k - a then w.marked t else w }
  else if k < c then { h with ready := markItems h.ready (k - b) t }
  else { h with held := markItems h.held (k - c) t }

/-- An uncorrectable descriptor discards its item, with its credit, as a poisoned item (R257). -/
def Dev.hopLost (d : Dev) (n k : Nat) : Dev :=
  match (d.hop n).ready[k]? with
  | none => d
  | some i =>
    (d.hopBeat n fun d => d.modHop n fun h => { h.refund i.acct i.count with ready := h.ready.eraseIdx k }).hopPoisoned n

/-- What POP returns: 0 where no word is to be delivered (R249). -/
def Dev.hopNext (d : Dev) (n : Nat) : DW := match (d.hop n).next with | some w => w.val | none => 0

/-- POP in a primary pass: the next word is delivered, tentatively (R174). -/
def Dev.hopTake (d : Dev) (n : Nat) : Dev :=
  if (d.hop n).next.isNone then d
  else d.hopBeat n fun d => (d.poisonCheck n).modHop n fun h => { h.advance with tent := h.tent + 1 }

/-- The release of a pop: its own advance is permanent, and in PACKET mode its own word is freed (R174, R246). -/
def Dev.hopSettle (d : Dev) (n : Nat) : Dev :=
  if (d.hop n).tent = 0 then d
  else
    d.hopBeat n fun d =>
      let d := d.modHop n fun h => { h with tent := h.tent - 1 }
      if d.hopReplay n then d else d.modHop n (·.freeFirst 1)

/-- A POP by the host, which no damper holds. -/
def Dev.hopPop (d : Dev) (n : Nat) : Dev := (d.hopTake n).hopSettle n

/-- PEEK delivers nothing, but finds a poisoned word. -/
def Dev.hopPeek (d : Dev) (n : Nat) : Dev := d.poisonCheck n

/-- MARK, REWIND and RELEASE by a port: nothing in PACKET mode; MARK and RELEASE of a slot are ignored, the hopper
keeps the mark itself (R252, R253). -/
def Dev.hopMark (d : Dev) (n : Nat) (slot : Bool) : Dev :=
  if d.hopReplay n && !slot then d.modHop n Hopper.doMark else d
def Dev.hopRelease (d : Dev) (n : Nat) (slot : Bool) : Dev :=
  if d.hopReplay n && !slot then d.hopBeat n (·.modHop n Hopper.doRelease) else d
def Dev.hopRewind (d : Dev) (n : Nat) : Dev :=
  if d.hopReplay n then d.hopBeat n (·.modHop n Hopper.doRewind) else d

/-- The words of the item most recently opened by a released header pop that no released pop has delivered (R251). -/
def Hopper.unread (h : Hopper) : List HWord :=
  let l := h.log.drop (h.pos - h.tent) ++ h.rest
  l.takeWhile (fun w => !w.head)

/-- They are discarded. -/
def Hopper.dropRest (h : Hopper) : Hopper :=
  let k := h.unread.length
  let first := h.pos - h.tent
  let kept := h.log.drop (first + k)
  { h.refundWords h.unread with
    log := h.log.take first ++ kept, rest := h.rest.drop (k - (h.log.length - first)), before := none
    tent := h.tent - k, pos := first + (h.tent - k) }

/-- DROP (R251): before the pop of the item's last word the rest is discarded; later it is late. Ignored in REPLAY
mode. -/
def Dev.hopDrop (d : Dev) (n : Nat) : Dev :=
  if d.hopReplay n then d
  else if (d.hop n).unread.isEmpty then
    (d.putAt Reg.HOP.DROP_RES.ABORT_LATE n 0 1).putAt Reg.HOP.DROP_RES.STATUS n 0 1
  else
    let d := d.hopBeat n (·.modHop n Hopper.dropRest)
    (d.putAt Reg.HOP.DROP_RES.ABORT_LATE n 0 0).putAt Reg.HOP.DROP_RES.STATUS n 0 2

/-! Pushes (R245, R247). -/

/-- Count a discarded push (R245, R247, R491). -/
def Dev.countProto (d : Dev) (n reason prod : Nat) : Dev :=
  let d := d.countS Reg.HOP.PROTO_CNT.COUNT Reg.HOP.PROTO_CNT.OVF n 0
  let d := d.putAt Reg.HOP.PROTO_LAST.FRAME n 0 d.frame12
  let d := d.putAt Reg.HOP.PROTO_LAST.PRODUCER n 0 prod
  let d := d.putAt Reg.HOP.PROTO_LAST.REASON n 0 reason
  d.raise (0x040 + n) 1

/-- A complete item: held for the boundary where a slot pushed it, readable at once otherwise (R29, R243). -/
def Hopper.complete (h : Hopper) (prod acct prio : Nat) (ws : List DW) : Hopper :=
  let i : HItem := ⟨h.nextId, prio, acct, prod, ws.map (·, .good)⟩
  let h := { h with nextId := h.nextId + 1 }
  if prod < 64 then { h with held := h.held ++ [i] } else h.addReady i

/-- The partial item of a producer. -/
def Hopper.part (h : Hopper) (prod : Nat) : Option HPart := h.parts.find? (·.producer = prod)
def Hopper.dropPart (h : Hopper) (prod : Nat) : Hopper := { h with parts := h.parts.filter (·.producer ≠ prod) }
def Hopper.putPart (h : Hopper) (p : HPart) : Hopper := { h with parts := (h.dropPart p.producer).parts ++ [p] }

/-- A further word of an item that is partly arrived (R245, R255). -/
def Hopper.more (h : Hopper) (p : HPart) (v : DW) : Hopper :=
  match p.mode with
  | .keep =>
    if p.left ≤ 1 then (h.dropPart p.producer).complete p.producer p.acct p.prio (p.words ++ [v])
    else h.putPart { p with words := p.words ++ [v], left := p.left - 1 }
  | .flushing =>
    let h := h.refund p.acct 1
    if p.left ≤ 1 then h.dropPart p.producer else h.putPart { p with left := p.left - 1 }
  | .rejected => if p.left ≤ 1 then h.dropPart p.producer else h.putPart { p with left := p.left - 1 }

/-- A header arrives and is refused: its item is discarded as it arrives. -/
def Hopper.reject (h : Hopper) (prod prio len : Nat) : Hopper :=
  if len = 0 then h else h.putPart ⟨prod, 4, .rejected, prio, len, [], len⟩

/-- A header arrives and is charged. -/
def Hopper.start (h : Hopper) (prod acct prio len : Nat) (v : DW) : Hopper :=
  let h := { h with
    heldW := tabMap 0 h.heldW acct (· + len + 1)
    charged := if prod = 65 then (h.charged + len + 1) % 2 ^ 24 else h.charged }
  if len = 0 then h.complete prod acct prio [v] else h.putPart ⟨prod, acct, .keep, prio, len, [v], len⟩

/-- A producer pushes a word (R245, R247). -/
def Dev.hopPush (d : Dev) (n prod : Nat) (v : DW) : Dev :=
  d.hopBeat n fun d =>
    match (d.hop n).part prod with
    | some p => d.modHop n (·.more p v)
    | none =>
      let prio := bitsOf v.toNat 27 25
      let len := bitsOf v.toNat 24 19
      let type := bitsOf v.toNat 18 8
      match d.hopAcct n prod with
      | none => (d.modHop n (·.reject prod prio len)).countProto n 0x03 prod
      | some k =>
        if type = 0 || type = 0x7FF then (d.modHop n (·.reject prod prio len)).countProto n 0x02 prod
        else if d.hopAvail n k < len + 1 then (d.modHop n (·.reject prod prio len)).countProto n 0x01 prod
        else d.modHop n (·.start prod k prio len v)

/-- Push a whole item, header first. -/
def Dev.hopPushAll (d : Dev) (n prod : Nat) (ws : List DW) : Dev := ws.foldl (fun d w => d.hopPush n prod w) d

/-- A header word (R242). -/
def itemHeader (prio len type tag : Nat) : DW :=
  BitVec.ofNat 28 (prio % 8 * 2 ^ 25 + len % 64 * 2 ^ 19 + type % 2048 * 2 ^ 8 + tag % 256)

/-! FLUSH (R255). -/

/-- Discard every readable item and the rest of the item being read, and begin to discard partial items of producers
that are no slots. -/
def Hopper.doFlush (h : Hopper) : Hopper :=
  let h := ((h.refundItems h.ready).refundWords h.rest).refundWords h.log
  let h := h.parts.foldl (fun h p => if 64 ≤ p.producer && p.mode = .keep then h.refund p.acct p.words.length else h) h
  { h with
    ready := [], rest := [], log := [], mark := 0, pos := 0, tent := 0, before := none, flushArmed := false
    parts := h.parts.map fun p =>
      if 64 ≤ p.producer && p.mode = .keep then { p with mode := .flushing, words := [] } else p }

/-- A flush acts. -/
def Dev.hopFlushNow (d : Dev) (n : Nat) : Dev :=
  let partial' := (d.hop n).parts.any (fun p => 64 ≤ p.producer && p.mode = .keep)
  let d := d.hopBeat n (·.modHop n Hopper.doFlush)
  if partial' then d.raise (0x040 + n) 3 else d

/-- HOP.CTRL.FLUSH: at once, or armed where the consumer is a slot. While it reads 1 a further write has no effect
(R14). -/
def Dev.hopFlush (d : Dev) (n : Nat) : Dev :=
  if (d.hop n).flushArmed || (d.hop n).discarding then d
  else if d.hopConsumer n < 64 then d.modHop n fun h => { h with flushArmed := true }
  else d.hopFlushNow n

/-! A slot's run is discarded (R80, R180, R246). -/

/-- The items and the partial item that a slot pushed in this frame are discarded, with their credit. -/
def Hopper.discardRun (h : Hopper) (slot : Nat) : Hopper :=
  let h := h.refundItems (h.held.filter (·.producer = slot))
  let h := match h.part slot with
    | some p => if p.mode = PartMode.keep then h.refund p.acct (p.len + 1) else h
    | none => h
  { h.dropPart slot with held := h.held.filter (·.producer ≠ slot) }

/-- Every hopper number. -/
def hopAll : List Nat := List.range 16

def Dev.discardPushes (d : Dev) (slot : Nat) : Dev := d.each hopAll fun d n => d.modHop n (·.discardRun slot)

/-- The hoppers that a slot consumes are rewound (R80, R180); nothing happens in PACKET mode (R252). -/
def Dev.rewindHops (d : Dev) (slot : Nat) : Dev :=
  d.each hopAll fun d n => if d.hopConsumer n = slot then d.hopRewind n else d

/-! The boundary (R253, R491). -/

/-- An item that a slot pushed only in part by B: discarded with its credit, and counted where the slot completed the
frame. -/
def Dev.hopPartial (d : Dev) (n slot : Nat) (completed : Bool) : Dev :=
  match (d.hop n).part slot with
  | none => d
  | some p =>
    let d := d.modHop n fun h => (if p.mode = .keep then h.refund p.acct (p.len + 1) else h).dropPart slot
    if completed then d.countProto n 0x04 slot else d

/-- The items that completed slots pushed become readable, in the order of their accounts, then in order of push. -/
def Hopper.releaseHeld (h : Hopper) (done : List Nat) : Hopper :=
  let go := h.held.filter (fun i => done.contains i.producer)
  let h := (List.range 5).foldl (fun h k => (go.filter (·.acct = k)).foldl Hopper.addReady h) h
  { h with held := h.held.filter (fun i => !done.contains i.producer) }

/-- Order 3 of a boundary for one hopper: `done` completed the frame just ended, `over` overran. -/
def Dev.hopOrder3 (d : Dev) (n : Nat) (done excess : List Nat) : Dev :=
  d.hopBeat n fun d =>
    let c := d.hopConsumer n
    let isSlot := decide (c < 64)
    let d := if isSlot && d.hopReplay n then
        (if done.contains c then d.modHop n (fun h => h.doMark.doRelease)
         else if excess.contains c then d.modHop n Hopper.doRewind else d)
      else d
    let d := if isSlot && (d.hop n).flushArmed then
        let partial' := (d.hop n).parts.any (fun p => 64 ≤ p.producer && p.mode = .keep)
        let d := d.modHop n Hopper.doFlush
        if partial' then d.raise (0x040 + n) 3 else d
      else d
    let d := d.each excess fun d s => (d.hopPartial n s false).modHop n (·.discardRun s)
    let d := d.each done fun d s => d.hopPartial n s true
    let d := d.modHop n (·.releaseHeld done)
    if isSlot && d.hopReplay n then d.modHop n Hopper.doMark else d

/-- A change of CONSUMER or MODE at order 5 or 6 acts on a hopper that holds items (R258). -/
def Dev.hopReconf (d : Dev) (n : Nat) (wasReplay : Bool) : Dev :=
  let d := if wasReplay && !d.hopReplay n then
      d.hopBeat n (·.modHop n fun h => { h.doMark.doRelease with mark := 0 })
    else if !wasReplay && d.hopReplay n then d.modHop n Hopper.doMark else d
  if (d.hop n).flushArmed && 64 ≤ d.hopConsumer n then d.hopFlushNow n else d

end Sys2Proof.Machine
end

