-- ==== Sys2Proof/Machine/Memory.lean ====
section
/-! DEFINITION. The memories: banks, warmth, codes, reads and writes, by the address at which a control core sees a W
(R5, R93, R97, R98, R192 to R197, R391). -/

namespace Sys2Proof.Machine

/-- Domain and bank of a W address (R97, R387, R391); a program bank is number 16 + 2s + i of its hearth. -/
def memBank (a : Nat) : Option (Nat × Nat) :=
  if a < 0x800000 then some (domHearth (a / 0x80000), a % 0x80000 / 0x8000)
  else if 0x1000000 ≤ a && a < 0x1800000 then
    let b := (a - 0x1000000) / 0x40000
    some (36 + b / 4, b % 4)
  else if 0x2000000 ≤ a && a < 0x4000000 then
    let b := (a - 0x2000000) / 0x80000
    some (44 + b / 8, b % 8)
  else if 0xC000000 ≤ a && a < 0xC300000 then some (33, (a - 0xC000000) / 0x40000)
  else if 0xD000000 ≤ a && a < 0xD400000 then
    let o := a - 0xD000000
    some (domHearth (o / 0x40000), 16 + o % 0x40000 / 0x8000)
  else none

/-- The W addresses of a bank, from the first up to but without the second. -/
def bankRange (dom bank : Nat) : Option (Nat × Nat) :=
  if 1 ≤ dom && dom ≤ 16 then
    if bank < 16 then let lo := 0x80000 * (dom - 1) + 0x8000 * bank; some (lo, lo + 0x8000)
    else if bank < 24 then let lo := 0xD000000 + 0x40000 * (dom - 1) + 0x8000 * (bank - 16); some (lo, lo + 0x8000)
    else none
  else if dom = 33 then
    if bank < 12 then let lo := 0xC000000 + 0x40000 * bank; some (lo, lo + 0x40000) else none
  else if 36 ≤ dom && dom ≤ 43 then
    if bank < 4 then let lo := 0x1000000 + 0x40000 * (4 * (dom - 36) + bank); some (lo, lo + 0x40000) else none
  else if 44 ≤ dom && dom ≤ 51 then
    if bank < 8 then let lo := 0x2000000 + 0x80000 * (8 * (dom - 44) + bank); some (lo, lo + 0x80000) else none
  else none

/-- The key of a bank in the list of warm banks. -/
def bankKey (dom bank : Nat) : Nat := dom * 32 + bank

/-- A domain serves its memory: control memory is powered while any control core is ON (R27). -/
def Dev.memOn (d : Dev) (dom : Nat) : Bool := if dom = 33 then d.anyCtrl else d.isOn dom

/-- A W lies in no bank that is warm and ON. -/
def Dev.isCold (d : Dev) (a : Nat) : Bool :=
  match memBank a with
  | some (dom, b) => !(d.memOn dom && d.warm.contains (bankKey dom b))
  | none => true

/-! W and DW (R5). -/

/-- DEDUCED: log 7. -/
def Dev.wAt (d : Dev) (a : Nat) : W := tabGet 0#14 d.mem a
/-- DEDUCED: log 7. -/
def Dev.putW (d : Dev) (a : Nat) (v : W) : Dev := { d with mem := tabPut 0#14 d.mem a v }

/-- The DW at an even address. -/
def Dev.dwAt (d : Dev) (a : Nat) : DW := d.wAt (a + 1) ++ d.wAt a
def Dev.putDW (d : Dev) (a : Nat) (v : DW) : Dev := (d.putW a (v.extractLsb' 0 14)).putW (a + 1) (v.extractLsb' 14 14)

/-! Codes (R192, R196). -/

/-- The even address of the DW that holds a W. -/
def evenOf (a : Nat) : Nat := a - a % 2

def Dev.tagAt (d : Dev) (a : Nat) : WordTag := tabGet WordTag.good d.tags (evenOf a)
def Dev.setTag (d : Dev) (a : Nat) (t : WordTag) : Dev := { d with tags := tabPut WordTag.good d.tags (evenOf a) t }

/-- A read of the DW that holds a W meets no data. -/
def Dev.poisonAt (d : Dev) (a : Nat) : Bool := d.tagAt a = .uncorrectable || d.tagAt a = .poisoned

/-- A store of a whole DW; it replaces a poison code (R196). -/
def Dev.storeDW (d : Dev) (a : Nat) (v : DW) : Dev := (d.putDW a v).setTag a .good

/-- A store of one W; a poisoned DW stays poisoned (R196). -/
def Dev.storeW (d : Dev) (a : Nat) (v : W) : Dev := if d.poisonAt a then d else d.putW a v

/-- The memory class of HEALTH.CE_DAY (R438). -/
def memClass (a : Nat) : Nat :=
  if a < 0x1000000 then 0 else if a < 0x2000000 then 1 else if a < 0x4000000 then 2 else if a < 0xD000000 then 3 else 0

/-- The hearth whose page counts a word, where the word lies in a hearth (R201). -/
def memHearth (a : Nat) : Option Nat :=
  if a < 0x800000 then some (a / 0x80000)
  else if 0xD000000 ≤ a && a < 0xD400000 then some ((a - 0xD000000) / 0x40000) else none

/-- A corrected word is counted (R194, R198). -/
def Dev.noteCorrected (d : Dev) (a : Nat) : Dev :=
  let d := d.modHealth fun x => { x with ceToday := tabMap 0 x.ceToday (memClass a) (· + 1) }
  match memHearth a with | some h => d.countCorr (0x010 + h) | none => d

/-- A word that a read first finds uncorrectable is counted (R196). -/
def Dev.noteUncorrectable (d : Dev) (a : Nat) : Dev :=
  let d := d.modHealth fun x => { x with ueToday := tabMap 0 x.ueToday (memClass a) (· + 1) }
  match memHearth a with | some h => d.countUnc (0x010 + h) | none => d

/-- What a read of a word does to its stored code: it is corrected and written back, or rewritten with the poison code
(R194, R196). -/
def Dev.readCode (d : Dev) (a : Nat) : Dev :=
  match d.tagAt a with
  | .correctable => (d.setTag a .good).noteCorrected a
  | .uncorrectable => ((d.putDW (evenOf a) 0#28).setTag a .poisoned).noteUncorrectable a
  | _ => d

/-- What a read of a DW delivers where it meets no poison. -/
def Dev.dwRead (d : Dev) (a : Nat) : DW := if d.poisonAt a then 0#28 else d.dwAt (evenOf a)

/-! Banks (R391). -/

/-- A bank is written with zeros and correct codes, and is warm. DEDUCED: log 7. -/
def Dev.initBank (d : Dev) (dom bank : Nat) : Dev :=
  match bankRange dom bank with
  | some (lo, hi) =>
    { d with mem := tabDelRange d.mem lo hi, tags := tabDelRange d.tags lo hi
             warm := setInsert d.warm (bankKey dom bank) }
  | none => d

/-- A bank loses its contents (R388). DEDUCED: log 7. -/
def Dev.loseBank (d : Dev) (dom bank : Nat) : Dev :=
  match bankRange dom bank with
  | some (lo, hi) =>
    { d with mem := tabDelRange d.mem lo hi, tags := tabDelRange d.tags lo hi
             warm := setErase d.warm (bankKey dom bank) }
  | none => d

/-- The banks of a domain. -/
def domBanks (dom : Nat) : List Nat :=
  if 1 ≤ dom && dom ≤ 16 then List.range 24
  else if dom = 33 then List.range 12
  else if 36 ≤ dom && dom ≤ 43 then List.range 4
  else if 44 ≤ dom && dom ≤ 51 then List.range 8
  else []

/-- Initialise the bank that holds an address, where it is cold. -/
def Dev.warmAt (d : Dev) (a : Nat) : Dev :=
  match memBank a with
  | some (dom, b) => if d.memOn dom && !d.warm.contains (bankKey dom b) then d.initBank dom b else d
  | none => d

/-! Program memory (R98). -/

/-- The address of syllable k of image slot i of a slot. -/
def progAddr (slot i k : Nat) : Nat := 0xD000000 + 0x40000 * (slot / 4) + 0x8000 * (2 * (slot % 4) + i) + 2 * k

/-- The running image slot: 0 is A, 1 is B. -/
def Dev.runAB (d : Dev) : Nat := d.get Reg.IMAGE.STATUS.RUN_AB

/-- A W address lies in the running image slot of a slot that has a program. -/
def Dev.inRunning (d : Dev) (a : Nat) : Bool :=
  0xD000000 ≤ a && a < 0xD400000 &&
    (let o := a - 0xD000000
     let b := o % 0x40000 / 0x8000
     b % 2 = d.runAB && d.hasProgram (4 * (o / 0x40000) + b / 2))

/-! State blocks (R59, R60). -/

/-- The control-core address of an address that a slot uses. -/
def slotAddr (slot a : Nat) : Nat := if a < 0x80000 then a + 0x80000 * (slot / 4) else a

/-- A W lies in a copy of a state block. -/
def StateBlk.holds (b : StateBlk) (a : Nat) : Bool :=
  let l := slotAddr b.slot b.base0
  let r := slotAddr b.slot b.base1
  (l ≤ a && a < l + 2 * b.size) || (r ≤ a && a < r + 2 * b.size)

def Dev.blocks (d : Dev) : List StateBlk := match d.loader.run with | some i => i.blocks | none => []

/-- The BANKS records that cover a W (R57). -/
def BankRec.covers (r : BankRec) (a : Nat) : Bool :=
  match memBank a with
  | some (dom, b) =>
    if r.cls = 0 then dom = domHearth r.hearth && a < 0x800000 && b = r.bank
    else if r.cls = 1 then 36 ≤ dom && dom ≤ 43 && 4 * (dom - 36) + b = r.bank
    else 44 ≤ dom && dom ≤ 51 && 8 * (dom - 44) + b = r.bank
  | none => false

/-! Barrier groups (R71). -/

/-- One round of joining: every slot that shares a barrier with a slot of the set. -/
def joinOnce (bars : List Nat) (g : Nat) : Nat := bars.foldl (fun g b => if g &&& b = 0 then g else g ||| b) g

/-- The barrier group of a slot as a mask; seven barriers are joined within seven rounds. DESIGN CHOICE: log 95. -/
def groupMask (bars : List Nat) (s : Nat) : Nat := (List.range 7).foldl (fun g _ => joinOnce bars g) (2 ^ s)

/-- The slots of a slot's barrier group in the running image. -/
def Dev.group (d : Dev) (s : Nat) : List Nat :=
  match d.loader.run with
  | some i => bitList (groupMask i.barriers s) 64
  | none => [s]

end Sys2Proof.Machine
end

