-- ==== Sys2Proof/Machine/Nand.lean ====
section
/-! DEFINITION. Where a chunk lies in flash, what the cells hold, and how a chunk is read (R301 to R304, R306 to R311,
R313). -/

namespace Sys2Proof.Machine

/-! The region map and the place of a chunk (R301 to R303, R305 to R307). -/

def MapEntry.none : MapEntry := ⟨0, 0, 0, 0, 0⟩
def Dev.region (d : Dev) (r : Nat) : MapEntry := tabGet MapEntry.none d.flash.map r

/-- A region is mapped (R307). -/
def isMapped (m : MapEntry) : Bool := m.state = 1 || m.state = 2

/-- What a read names by a region number: a data region, or from 0xFF00 a stripe of the system area, which no data
region's number names (R305). -/
def isSystem (r : Nat) : Bool := decide (0xFF00 ≤ r) && decide (r < 0xFF06)
def Dev.readable (d : Dev) (r : Nat) : MapEntry :=
  if isSystem r then { MapEntry.none with stripe := BitVec.ofNat 14 (r - 0xFF00) } else d.region r

/-- Chunks per page. -/
def Dev.cpp (d : Dev) : Nat := 2 * d.get Reg.FLASH.GEOM0.CW

/-- Where chunk k of a region in stripe s lies: position, page, codeword and half (R303). -/
structure ChunkPlace where
  pos : Nat
  row : Nat
  cw : Nat
  half : Nat
  deriving DecidableEq, Repr

/-- The position that holds the parity of a row. -/
def parityPos (s row : Nat) : Nat := (s + row) % 16

def chunkPlace (cpp s k : Nat) : ChunkPlace :=
  let dp := k / cpp
  let row := dp / 15
  let j := dp % 15
  ⟨if j < parityPos s row then j else j + 1, row, k % cpp / 2, k % 2⟩

/-- The LUN group, channel and slot of a global LUN number (R301). -/
def lunGroup (lun : Nat) : Nat := lun / 16
def lunChan (lun : Nat) : Nat := lun % 8
def lunSlot (lun : Nat) : Nat := 2 * (lun / 16) + lun % 16 / 8

/-- The chip enable of a LUN and its number within the target: slot p is CE × LPT + u over the chip enables in use
(R301). -/
def lunTarget (ceMask lpt lun : Nat) : Nat × Nat :=
  (((bitList ceMask 4)[lunSlot lun / lpt]?).getD 0, lunSlot lun % lpt)

/-- The global LUN number of a chunk of a region. -/
def Dev.chunkLun (d : Dev) (r k : Nat) : Nat :=
  let m := d.readable r
  16 * m.group.toNat + (chunkPlace d.cpp m.stripe.toNat k).pos

/-- The block that holds a stripe in a LUN, and the stripe that a block holds (R306). DESIGN CHOICE: log 120. -/
def Dev.blockOf (d : Dev) (lun s : Nat) : Nat := tabGet s d.flash.subst (lun * 0x4000 + s)
def Dev.stripeOf (d : Dev) (lun b : Nat) : Nat :=
  match d.flash.subst.find? (fun e => e.1 / 0x4000 = lun && e.2 = b) with
  | some e => e.1 % 0x4000
  | none => b

/-! What the cells hold (R302, R304, R316). -/

/-- The number of a chunk's cells: LUN, stripe, page, and codeword and half. -/
def cellKey (lun s page col : Nat) : Nat := ((lun * 0x4000 + s) * 0x4000 + page) * 0x40 + col

/-- The cells of a chunk at a position of its row. -/
def cellAt (m : MapEntry) (cpp k pos : Nat) : Nat :=
  let p := chunkPlace cpp m.stripe.toNat k
  cellKey (16 * m.group.toNat + pos) m.stripe.toNat p.row (2 * p.cw + p.half)

/-- Exactly n bytes: what is missing is 0. -/
def fitBytes (n : Nat) (l : List Byte) : List Byte := (l ++ List.replicate n 0#8).take n

def xorBytes (a b : List Byte) : List Byte := List.zipWith (· ^^^ ·) a b

/-- The tag of a chunk (R304). -/
def chunkTag (r k : Nat) : Nat := k % 2 ^ 20 + r % 2 ^ 12 * 2 ^ 20

/-- A chunk as the device programs it: 2,044 bytes of data and the tag. -/
def tagged (r k : Nat) (b : List Byte) : List Byte := fitBytes 2044 b ++ leBytes 4 (chunkTag r k)

/-- A chunk carries its tag; chunks of the system area carry none (R319). -/
def tagOk (r k : Nat) (b : List Byte) : Bool := isSystem r || leNat (b.drop 2044) = chunkTag r k

/-- A chunk is programmed, and the parity of its row with it: the XOR of the chunks at the same place (R302).
DESIGN CHOICE: log 180. -/
def Dev.programChunk (d : Dev) (m : MapEntry) (k : Nat) (b : List Byte) : Dev :=
  let p := chunkPlace d.cpp m.stripe.toNat k
  let par := cellAt m d.cpp k (parityPos m.stripe.toNat p.row)
  let old := tabGet (List.replicate 2048 0#8) d.nand.cells par
  { d with nand := { d.nand with cells := tabSet (tabSet d.nand.cells (cellAt m d.cpp k p.pos) b) par (xorBytes old b) } }

/-- The cells of one LUN's block of a stripe are erased. -/
def Dev.eraseCells (d : Dev) (lun s : Nat) : Dev :=
  { d with nand := { d.nand with cells := tabDelRange d.nand.cells (cellKey lun s 0 0) (cellKey lun (s + 1) 0 0) } }

/-- A chunk of a region that is lost; a new content of the region is not (R308). -/
def lostKey (r k : Nat) : Nat := r * 2 ^ 20 + k
def Dev.isLost (d : Dev) (r k : Nat) : Bool := d.nand.lost.contains (lostKey r k)
def Dev.forgetLost (d : Dev) (r : Nat) : Dev :=
  { d with nand := { d.nand with lost := d.nand.lost.filter fun x => x / 2 ^ 20 ≠ r } }

/-! LUNs that cannot be read (R310, R311, R321). -/

def Dev.lunBad (d : Dev) (n : Nat) : Bool := d.getAt Reg.FLASH.LUN_STAT.STATE 0 n = 3
def Dev.groupBad (d : Dev) (g : Nat) : Bool := (List.range 16).any fun p => d.lunBad (16 * g + p)

/-- A LUN is busy with a program or an erase. -/
def Dev.lunBusy (d : Dev) (n : Nat) : Bool := (tabFind d.flash.busy n).isSome
def Dev.groupBusy (d : Dev) (g : Nat) : Bool := (List.range 16).any fun p => d.lunBusy (16 * g + p)

/-- The level of WP_N of a channel: high while a program or an erase is in progress on it, low under pad hold (R321,
R404). -/
def Dev.wpHigh (d : Dev) (c : Nat) : Bool :=
  d.flash.busy.any (fun e => lunChan e.1 = c) && !d.power.held.contains (c / 2)

/-- The channel pair of a LUN is there: ON, and not under pad hold (R404). -/
def Dev.pairOn (d : Dev) (p : Nat) : Bool := d.isOn (domFlash p) && !d.power.held.contains p

/-- A LUN can be reached: its pair is there, with its rail. -/
def Dev.lunOn (d : Dev) (n : Nat) : Bool := d.pairOn (lunChan n / 2) && d.pairRail (lunChan n / 2)

/-- Reads of a LUN go to the rebuild. -/
def Dev.lunDown (d : Dev) (n : Nat) : Bool := d.lunBad n || d.lunBusy n || !d.lunOn n

/-- The other fifteen LUNs of a LUN's group. -/
def otherLuns (n : Nat) : List Nat := ((List.range 16).map (16 * (n / 16) + ·)).filter (· ≠ n)

/-! Reading a chunk (R308, R309). -/

/-- A chunk that was read: the step of R308, the bits corrected, and the bytes. -/
structure Got where
  step : Nat
  bits : Nat
  bytes : List Byte
  deriving DecidableEq, Repr

/-- The bytes of a chunk that decodes: those that its cells hold, or those that the read found.
DESIGN CHOICE: log 116. -/
def Dev.cellBytes (d : Dev) (r k : Nat) (b : List Byte) : List Byte :=
  let m := d.readable r
  (tabFind d.nand.cells (cellAt m d.cpp k (chunkPlace d.cpp m.stripe.toNat k).pos)).getD (fitBytes 2048 b)

/-- A decode counts with at most `limit` bit errors and the right tag. -/
def Dev.accept (d : Dev) (r k step limit : Nat) : Option Decoded → Option Got
  | some x =>
    let b := d.cellBytes r k x.bytes
    if decide (x.bits ≤ limit) && tagOk r k b then some ⟨step, x.bits, b⟩ else none
  | none => none

/-- The rebuilt bytes: the XOR of the other positions of the row where its parity is held (R302).
DESIGN CHOICE: log 180. -/
def Dev.rowXor (d : Dev) (r k : Nat) (b : List Byte) : List Byte :=
  let m := d.readable r
  let p := chunkPlace d.cpp m.stripe.toNat k
  match tabFind d.nand.cells (cellAt m d.cpp k (parityPos m.stripe.toNat p.row)) with
  | none => fitBytes 2048 b
  | some par =>
    ((List.range 16).filter fun i => i ≠ p.pos && i ≠ parityPos m.stripe.toNat p.row).foldl (fun a i =>
      match tabFind d.nand.cells (cellAt m d.cpp k i) with
      | some c => xorBytes a c
      | none => a) par

/-- The die-parity rebuild: the other fifteen LUNs must be there. -/
def Dev.rebuild (d : Dev) (r k : Nat) : Option (List Byte) → Option Got
  | some b =>
    if (otherLuns (d.chunkLun r k)).any d.lunDown then none
    else
      let x := d.rowXor r k b
      if tagOk r k x then some ⟨4, 0, x⟩ else none
  | none => none

/-- The whole ladder (R308); a lost chunk stays lost. -/
def Dev.climb (d : Dev) (r k : Nat) (x : FlashRead) : Option Got :=
  if d.isLost r k then none
  else if d.lunDown (d.chunkLun r k) then d.rebuild r k x.die
  else
    d.accept r k 1 160 x.hard <|> d.accept r k 2 400 x.soft <|> d.accept r k 3 400 x.retry <|> d.rebuild r k x.die

/-- The stoker's ladder (R283): after the hard decode the soft decode and the rebuild run together. -/
def Dev.climbShort (d : Dev) (r k : Nat) (x : FlashRead) : Option Got :=
  if d.isLost r k then none
  else if d.lunDown (d.chunkLun r k) then d.rebuild r k x.die
  else
    d.accept r k 1 160 x.hard <|>
      (if x.dieFirst then d.rebuild r k x.die <|> d.accept r k 2 400 x.soft
       else d.accept r k 2 400 x.soft <|> d.rebuild r k x.die)

/-! What a read leaves behind (R309, R310, R313, R324). -/

/-- Page reads of the block that holds a stripe in a LUN. -/
def Dev.addReads (d : Dev) (s n : Nat) (lun : Nat) : Dev :=
  d.modFlash fun f => { f with reads := tabMap 0 f.reads (lun * 0x4000 + d.blockOf lun s) (· + n) }

/-- A region is scheduled for refresh; the system area has no such schedule. -/
def Dev.refreshDue (d : Dev) (r : Nat) : Dev :=
  if isSystem r then d else d.modFlash fun f => { f with due := setInsert f.due r }

/-- A codeword of a channel was corrected, or lost. -/
def Dev.chanCount (d : Dev) (lun : Nat) (lost : Bool) : Dev :=
  let page := 0x060 + lunChan lun
  if !d.lunOn lun then d else if lost then d.countUnc page else d.countCorr page

/-- A read answers in time, so its LUN's timeouts are no longer in a row; and it reached step 4, or did not.
DESIGN CHOICE: log 117. -/
def Dev.lunStreak (d : Dev) (lun : Nat) (four : Bool) : Dev :=
  d.modFlash fun f =>
    { f with timeouts := tabDel f.timeouts lun
             streak := if four then tabMap 0 f.streak lun (· + 1) else tabDel f.streak lun }

/-- The chunk reached step 5. It stays lost, but for a LUN that is only busy or whose pair is not ON.
DESIGN CHOICE: log 117. -/
def Dev.loseChunk (d : Dev) (r k : Nat) : Dev :=
  let lun := d.chunkLun r k
  if (lun :: otherLuns lun).any (fun n => d.lunBusy n || !d.lunOn n) then d
  else { d with nand := { d.nand with lost := setInsert d.nand.lost (lostKey r k) } }

/-- What a chunk read counts: `own` page reads of its own block where that is not skipped, one of each other block where
the rebuild ran, and what its outcome means. DESIGN CHOICE: log 117. -/
def Dev.noteRead (d : Dev) (r k own : Nat) (die : Bool) (got : Option Got) : Dev :=
  let lun := d.chunkLun r k
  let s := (d.readable r).stripe.toNat
  let skip := d.lunDown lun
  let d := if skip then d else (d.addReads s own lun).lunStreak lun (match got with | some g => decide (4 ≤ g.step) | none => true)
  let d := if die then (otherLuns lun).foldl (fun d n => d.addReads s 1 n) d else d
  match got with
  | some g =>
    let d := if g.bits ≠ 0 || (g.step = 4 && !skip) then d.chanCount lun false else d
    if 2 ≤ g.step || decide (d.get Reg.FLASH.REFRESH_BITS.BITS < g.bits) then d.refreshDue r else d
  | none => d.chanCount lun true

/-- A read outside the stoker: the steps it reaches count (R308). DESIGN CHOICE: log 117. -/
def Dev.ladder (d : Dev) (r k : Nat) (x : FlashRead) : Dev :=
  let c (f g : RegFld) (d : Dev) : Dev := d.countS f g 0 0
  let lost (d : Dev) : Dev := (c Reg.FLASH.LOSS_CNT.COUNT Reg.FLASH.LOSS_CNT.OVF d).raise 0x058 2
  if d.isLost r k then lost d
  else
    let got := d.climb r k x
    let step := match got with | some g => g.step | none => 5
    let skip := d.lunDown (d.chunkLun r k)
    let own := if step = 1 then 1 else if step = 2 then 3 else 3 + x.tries.toNat
    let d := d.noteRead r k own (decide (4 ≤ step)) got
    let d := if 2 ≤ step && !skip then c Reg.FLASH.SOFT_CNT.COUNT Reg.FLASH.SOFT_CNT.OVF d else d
    let d := if 3 ≤ step && !skip then c Reg.FLASH.RETRY_CNT.COUNT Reg.FLASH.RETRY_CNT.OVF d else d
    let d := if 4 ≤ step then c Reg.FLASH.REBUILD_CNT.COUNT Reg.FLASH.REBUILD_CNT.OVF d else d
    if step = 5 then lost (d.loseChunk r k) else d

/-- The bytes that a read delivers: zeros where the chunk is lost. -/
def gotBytes : Option Got → List Byte
  | some g => g.bytes
  | none => List.replicate 2048 0#8

/-- A read of the stoker. DESIGN CHOICE: log 117. -/
def Dev.ladderShort (d : Dev) (r k : Nat) (x : FlashRead) : Dev :=
  if d.isLost r k then d
  else
    let got := d.climbShort r k x
    let step := match got with | some g => g.step | none => 5
    d.noteRead r k (if step = 1 then 1 else 3) (2 ≤ step || d.lunDown (d.chunkLun r k)) got

/-! Packed samples (R263). -/

/-- Seven bytes hold two DW. -/
def unpackDW : List Byte → List DW
  | a :: b :: c :: e :: f :: g :: h :: t =>
    let v : BitVec 56 := h ++ g ++ f ++ e ++ c ++ b ++ a
    v.extractLsb' 0 28 :: v.extractLsb' 28 28 :: unpackDW t
  | _ => []

/-- The DW of a chunk: its first 2,044 bytes (R264). -/
def chunkDW (b : List Byte) : List DW := unpackDW (b.take 2044)

end Sys2Proof.Machine
end

