-- ==== Sys2Proof/Machine/Stoker.lean ====
section
/-! DEFINITION. The stoker: the stream table, admission, refill, notices, pinning (R263 to R291). -/

namespace Sys2Proof.Machine

/-! Formats and the stream table (R263, R267, R268). -/

/-- Frames per chunk F. -/
def fmtFrames (f : Nat) : Nat := if f = 0 then 584 else if f = 1 then 1168 else if f = 2 then 292 else 584

/-- W per frame. -/
def fmtW (f : Nat) : Nat := if f = 0 then 2 else if f = 1 then 1 else if f = 2 then 4 else 2

def StreamDesc.F (s : StreamDesc) : Nat := fmtFrames s.format
def StreamDesc.rc (s : StreamDesc) : Nat := if s.ring4 then 4 else 2

/-- Cache-fed: it needs no flash reads once its head is pinned (R268). -/
def StreamDesc.cacheFed (s : StreamDesc) : Bool := s.resident || s.loopMode = 1

/-- Chunks of the head, and the head's span in W. -/
def StreamDesc.headChunks (s : StreamDesc) : Nat := cdiv s.headFrames s.F
def StreamDesc.headSpan (s : StreamDesc) : Nat := s.headChunks * 1168

/-- Stream data of the attack cache: the head of a pinned entry, the head or the ring of a stream (R197, R269). -/
def StreamDesc.inHead (s : StreamDesc) (a : Nat) : Bool := decide (s.headAddr ≤ a) && decide (a < s.headAddr + s.headSpan)
def StreamDesc.inRing (s : StreamDesc) (a : Nat) : Bool := decide (s.ringAddr ≤ a) && decide (a < s.ringAddr + s.rc * 1168)
def inPinned (p : Nat × Nat) (a : Nat) : Bool := decide (p.1 ≤ a) && decide (a < p.1 + p.2)
def Dev.isStreamWord (d : Dev) (a : Nat) : Bool :=
  d.stoker.headValid.any (fun e => inPinned e.2 a) || d.stoker.streams.any (fun s => s.desc.inHead a || s.desc.inRing a)

/-- DW i of stream-table entry e. -/
def Dev.entryDW (d : Dev) (e i : Nat) : Nat :=
  (d.dwRead (d.get Reg.STOKER.TABLE_BASE.VALUE + 32 * e + 2 * i)).toNat

/-- The fields of an entry (R267). -/
def Dev.entryDesc (d : Dev) (e : Nat) : StreamDesc :=
  let c := d.entryDW e 0
  { resident := bitOf c 27, loopMode := bitsOf c 26 25, ring4 := bitOf c 24, format := bitsOf c 1 0
    region := bitsOf (d.entryDW e 1) 15 0, chunk0 := bitsOf (d.entryDW e 2) 19 0, length := d.entryDW e 3
    loopStart := d.entryDW e 4, loopEnd := d.entryDW e 5, headAddr := d.entryDW e 6, headFrames := d.entryDW e 7
    ringAddr := d.entryDW e 8, rateMax := d.entryDW e 9 }

/-- The stoker reads an entry: the codes of its words (R192, R194, R196). -/
def Dev.readEntry (d : Dev) (e : Nat) : Dev :=
  (List.range 16).foldl (fun d i => d.readCode (d.get Reg.STOKER.TABLE_BASE.VALUE + 32 * e + 2 * i)) d

/-- Every reserved bit of an entry is 0. -/
def Dev.entryReserved (d : Dev) (e : Nat) : Bool :=
  bitsOf (d.entryDW e 0) 23 2 = 0 && bitsOf (d.entryDW e 1) 27 16 = 0 && bitsOf (d.entryDW e 2) 27 20 = 0
    && (List.range 6).all (fun i => d.entryDW e (10 + i) = 0)

/-- A span of W lies in the attack cache. -/
def inAcc (a n : Nat) : Bool := 0x2000000 ≤ a && a + n ≤ 0x4000000

/-- What R268 asks of the fields of an entry. DESIGN CHOICE: log 96. -/
def StreamDesc.valid (s : StreamDesc) : Bool :=
  s.loopMode ≠ 3 && s.length ≠ 0 && s.headAddr % 2 = 0 && s.ringAddr % 2 = 0
    && (if s.resident then s.headFrames = s.length else s.headFrames % s.F = 0 && s.headFrames < s.length)
    && inAcc s.headAddr s.headSpan
    && inAcc s.ringAddr (s.rc * 1168)
    && (s.ringAddr - 0x2000000) / 0x80000 = (s.ringAddr + s.rc * 1168 - 1 - 0x2000000) / 0x80000
    && (s.loopMode ≠ 1 || (s.loopStart ≤ s.loopEnd && s.loopEnd < s.headFrames))
    && (s.loopMode ≠ 2 ||
        (s.loopStart % s.F = 0 && (s.loopEnd + 1) % s.F = 0 && s.headFrames ≤ s.loopStart && s.loopEnd < s.length
          && s.loopStart + s.rc * s.F ≤ s.loopEnd + 1))

/-- The entry lies in memory that can be read, and is valid. -/
def Dev.entryValid (d : Dev) (e : Nat) : Bool :=
  !d.isCold (d.get Reg.STOKER.TABLE_BASE.VALUE + 32 * e) && d.entryReserved e && (d.entryDesc e).valid

/-- The sample chunk that play-order chunk q holds, none past the end (R269). -/
def StreamDesc.sampleChunk (s : StreamDesc) (q : Nat) : Option Nat :=
  let c := s.headFrames / s.F + q
  if s.loopMode = 2 then
    let lo := s.loopStart / s.F
    let hi := (s.loopEnd + 1) / s.F - 1
    some (if hi < c then lo + (c - lo) % (hi - lo + 1) else c)
  else if cdiv s.length s.F - 1 < c then none
  else some c

/-- The W address of the ring position of chunk q. -/
def StreamDesc.ringPos (s : StreamDesc) (q : Nat) : Nat := s.ringAddr + 1168 * (q % s.rc)

/-! Streams. -/

def Dev.streams (d : Dev) : List Stream := d.stoker.streams
def Dev.setStreams (d : Dev) (l : List Stream) : Dev := d.modStoker fun s => { s with streams := l }
def Dev.stream (d : Dev) (e : Nat) : Option Stream := d.streams.find? (·.entry = e)
def Dev.modStream (d : Dev) (e : Nat) (f : Stream → Stream) : Dev :=
  d.setStreams (d.streams.map fun s => if s.entry = e then f s else s)

/-- Active or tentatively active. DEDUCED: log 88. -/
def Stream.live (s : Stream) : Bool := !s.stopped

/-- STOKER.ACTIVE, RESIDENT, CHARGED and GROUP_LOAD. -/
def Dev.activeCount (d : Dev) : Nat := (d.streams.filter (fun s => s.live && !s.desc.cacheFed)).length
def Dev.residentCount (d : Dev) : Nat := (d.streams.filter (fun s => s.live && s.desc.cacheFed)).length
def Dev.charged (d : Dev) : Nat := ((d.streams.filter Stream.live).map (·.charge)).sum
def Dev.groupLoad (d : Dev) (g : Nat) : Nat :=
  ((d.streams.filter (fun s => s.live && !s.desc.cacheFed && (d.region s.desc.region).group.toNat = g)).map (·.charge)).sum

/-! The frame period (R40). -/

/-- Fp in Hz and N of the running image: T is N / Fp. -/
def Image.fp (i : Image) : Nat := (if bitOf i.rate 0 then 48000 else 44100) * 2 ^ bitsOf i.rate 2 1
def Image.n (i : Image) : Nat := 2 ^ i.nLog2

def Dev.fp (d : Dev) : Nat := match d.loader.run with | some i => i.fp | none => 48000
def Dev.frameN (d : Dev) : Nat := match d.loader.run with | some i => i.n | none => 4

/-- x / rate is at least 1.5 ms + 2 T (R277, R278): x and rate in frames and frames per second. -/
def longEnough (x rate fp n : Nat) : Bool := rate * (3 * fp + 4000 * n) ≤ x * 2000 * fp

/-! Admission (R277). -/

/-- The charge of a stream (R277). -/
def StreamDesc.charge (s : StreamDesc) : Nat := if s.cacheFed then 0 else cdiv s.rateMax s.F

/-- Start reads outstanding at a LUN. -/
def Dev.startReads (d : Dev) (lun : Nat) : Nat :=
  (d.streams.map (fun s => (s.waiting.filter (fun q => q < s.desc.rc &&
    ((s.desc.sampleChunk q).map (fun c => decide (d.chunkLun s.desc.region (s.desc.chunk0 + c) = lun))).getD false)).length)).sum

/-- A LUN of chunks 0 to RC − 1 would have more than 16 start reads outstanding. -/
def Dev.lunsFull (d : Dev) (s : StreamDesc) : Bool :=
  let luns := (List.range s.rc).filterMap (fun q => (s.sampleChunk q).map (fun c => d.chunkLun s.region (s.chunk0 + c)))
  luns.any (fun l => 16 < d.startReads l + (luns.filter (· = l)).length)

/-- The reason for which a START is refused, none where it is admitted (R277). DESIGN CHOICE: log 96, 178. -/
def Dev.startReason (d : Dev) (e : Nat) : Option Nat :=
  let s := d.entryDesc e
  let flash := !s.cacheFed
  let m := d.region s.region
  let hasStreams := match d.loader.run with | some i => i.streams.isSome | none => false
  if !hasStreams || !d.isOn domStoker || d.stopping domStoker then some 0x0D
  else if d.get Reg.STOKER.ENTRIES.VALUE ≤ e then some 0x09
  else if !d.entryValid e then some 0x0A
  else if flash && (m.state ≠ 1 || m.chunks.toNat ≤ s.chunk0 + cdiv s.length s.F - 1) then some 0x0B
  else if (tabFind d.stoker.headValid e).isNone then some 0x0C
  else if flash && !(2 * s.rateMax ≤ s.headFrames * 1000 && longEnough s.headFrames s.rateMax d.fp d.frameN) then some 0x07
  else if flash && !longEnough ((s.rc - 1) * s.F) s.rateMax d.fp d.frameN then some 0x08
  else if (d.stream e).isSome then some 0x05
  else if d.streams.any (fun x => x.desc.ringAddr = s.ringAddr) then some 0x06
  else if flash && d.get Reg.STOKER.MAX_STREAMS.VALUE ≤ d.activeCount then some 0x02
  else if flash && d.get Reg.STOKER.READ_BUDGET.VALUE < d.charged + s.charge then some 0x01
  else if flash && d.get Reg.STOKER.GROUP_CEIL.VALUE < d.groupLoad m.group.toNat + s.charge then some 0x03
  else if flash && d.lunsFull s then some 0x04
  else none

/-- The result word of a START (R274). -/
def startWord (e : Nat) (r : Option Nat) : DW :=
  match r with
  | none => BitVec.ofNat 28 (2 ^ 27 + e)
  | some k => BitVec.ofNat 28 (k * 2 ^ 16 + e)

/-- The kept START or STOP that a request of a restarted run repeats (R276). -/
def Dev.keptMatch (d : Dev) (slot e : Nat) (isStart : Bool) : Option KeptReq :=
  d.stoker.kept.find? (fun k => k.slot = slot && k.entry = e && k.isStart = isStart && !k.inRun)

/-- Mark the first request that matches as repeated. -/
def markKept : List KeptReq → Nat → Nat → Bool → List KeptReq
  | [], _, _, _ => []
  | k :: t, slot, e, b =>
    if k.slot = slot && k.entry = e && k.isStart = b && !k.inRun then { k with inRun := true } :: t
    else k :: markKept t slot e b

/-- What a START for an entry returns to a slot. -/
def Dev.startResult (d : Dev) (slot e : Nat) : DW :=
  match d.keptMatch slot e true with
  | some k => k.result
  | none => startWord e (d.startReason e)

/-- Zero the ring positions of chunks, and ask for them (R280). -/
def Dev.demand (d : Dev) (e : Nat) (qs : List Nat) : Dev :=
  match d.stream e with
  | none => d
  | some s =>
    let qs := if s.desc.cacheFed then [] else qs.filter (fun q => (s.desc.sampleChunk q).isSome)
    let d := d.each qs fun d q =>
      let a := s.desc.ringPos q
      { d with mem := tabDelRange d.mem a (a + 1168), tags := tabDelRange d.tags a (a + 1168) }
    d.modStream e fun s => { s with waiting := s.waiting ++ qs.filter (fun q => !s.waiting.contains q) }

/-- Keep a request for the frame (R276). -/
def Dev.keep (d : Dev) (k : KeptReq) : Dev := d.modStoker fun s => { s with kept := s.kept ++ [k] }

/-- A START is decided and reserves its stream (R274). -/
def Dev.doStart (d : Dev) (slot e : Nat) : Dev :=
  match d.keptMatch slot e true with
  | some _ => d.modStoker fun s => { s with kept := markKept s.kept slot e true }
  | none =>
    let r := d.startReason e
    let desc := d.entryDesc e
    let d := d.readEntry e
    let d := d.keep ⟨slot, e, true, startWord e r, true⟩
    match r with
    | some k =>
      if d.isOn domStoker then
        let d := d.countS Reg.STOKER.REFUSED_CNT.COUNT Reg.STOKER.REFUSED_CNT.OVF 0 0
        let d := d.put Reg.STOKER.LAST_REFUSE.SLOT slot
        let d := d.put Reg.STOKER.LAST_REFUSE.REASON k
        let d := d.put Reg.STOKER.LAST_REFUSE.ENTRY e
        d.raise 0x050 0
      else d
    | none =>
      let first := if desc.cacheFed then [] else (List.range desc.rc).filter (fun q => (desc.sampleChunk q).isSome)
      d.setStreams (d.streams ++ [⟨e, slot, desc, true, false, desc.charge, 0, none, first, [], false, false⟩])

/-- Whether a START would repeat one of the discarded run. -/
def Dev.startRepeats (d : Dev) (slot e : Nat) : Bool := (d.keptMatch slot e true).isSome

/-- The release of a START: the first chunks of an admitted stream that were not written yet are demanded (R274). -/
def Dev.startReleased (d : Dev) (e : Nat) : Dev :=
  match d.stream e with
  | some s => if s.started then d.demand e (s.waiting.filter (· < s.desc.rc)) else d
  | none => d

/-- Take out the last request that matches. -/
def dropKept (l : List KeptReq) (slot e : Nat) : List KeptReq :=
  let is (k : KeptReq) : Bool := k.slot = slot && k.entry = e && k.isStart && k.inRun
  match l.reverse.findIdx? is with
  | some i => (l.reverse.eraseIdx i).reverse
  | none => l

/-- The last repeated request that matches counts as not repeated. -/
def unmarkKept (l : List KeptReq) (slot e : Nat) : List KeptReq :=
  let is (k : KeptReq) : Bool := k.slot = slot && k.entry = e && k.isStart && k.inRun
  match l.reverse.findIdx? is with
  | some i => ((l.reverse.zipIdx.map fun x => if x.2 = i then { x.1 with inRun := false } else x.1)).reverse
  | none => l

/-- A discarded START returns its reservation (R274). -/
def Dev.startReturned (d : Dev) (slot e : Nat) (again : Bool) : Dev :=
  if again then d.modStoker fun s => { s with kept := unmarkKept s.kept slot e }
  else
    let admitted := d.stoker.kept.any (fun k => k.slot = slot && k.entry = e && k.isStart && k.inRun && k.result.getLsbD 27)
    let d := d.modStoker fun s => { s with kept := dropKept s.kept slot e }
    if admitted then d.setStreams (d.streams.filter fun s => !(s.entry = e && s.owner = slot && s.started)) else d

/-- A STOP is released (R273): ignored where the slot does not own the stream. -/
def Dev.doStop (d : Dev) (slot e : Nat) : Dev :=
  match d.keptMatch slot e false with
  | some _ => d.modStoker fun s => { s with kept := markKept s.kept slot e false }
  | none =>
    match d.stream e with
    | some s =>
      if s.owner = slot && !s.stopped then
        (d.modStream e fun s => { s with stopped := true }).keep ⟨slot, e, false, 0, true⟩
      else d
    | none => d

/-- A NEED is released: held for the boundary; below Q_NEED it is ignored (R273). -/
def Dev.doNeed (d : Dev) (slot e q : Nat) : Dev :=
  d.modStream e fun s => if s.owner = slot && s.qNeed ≤ q then { s with need := some q } else s

/-- A two-DW store to REQ (R272). -/
def Dev.doReq (d : Dev) (slot : Nat) (req arg : DW) : Dev :=
  let e := bitsOf req.toNat 13 0
  match bitsOf req.toNat 27 24 with
  | 1 => d.doStop slot e
  | 2 => d.doNeed slot e arg.toNat
  | _ => d

/-! Notices (R282). -/

def noticeWord (kind q e : Nat) : DW := BitVec.ofNat 28 (kind * 2 ^ 24 + q % 1024 * 2 ^ 14 + e)

def Dev.post (d : Dev) (slot : Nat) (w : DW) : Dev :=
  d.modStoker fun s => { s with posted := tabMap [] s.posted slot (· ++ [w]) }

/-- The next notice of a slot's list, and its length. -/
def Dev.noticeList (d : Dev) (slot : Nat) : List DW := tabGet [] d.stoker.notices slot
def Dev.nextNotice (d : Dev) (slot : Nat) : DW := ((d.noticeList slot)[tabGet 0 d.stoker.noticePos slot]?).getD 0#28
/-- DEDUCED: log 139. -/
def Dev.readNotice (d : Dev) (slot : Nat) : Dev :=
  d.modStoker fun s =>
    { s with noticePos := tabMap 0 s.noticePos slot (fun k => Nat.min (k + 1) (tabGet [] s.notices slot).length) }

/-- The list is fixed at frame entry; STREAM fires where it is not empty. -/
def Dev.fixNotices (d : Dev) (slot : Nat) : Dev :=
  let p := tabGet [] d.stoker.posted slot
  let l := if p.length ≤ 16 then p else p.take 15 ++ [noticeWord 0xF 0 0]
  let d := d.modStoker fun s =>
    { s with notices := tabSet s.notices slot l, noticePos := tabSet s.noticePos slot 0, posted := tabSet s.posted slot [] }
  let d := if 16 < p.length then d.raise 0x050 4 else d
  if l.isEmpty then d else d.firePriv slot 4

/-! Refill (R280 to R284). -/

/-- Write DW through the refill port at rising even addresses; words of a cold bank are not written. -/
def Dev.refill (d : Dev) (a : Nat) : List DW → Dev
  | [] => d
  | w :: ws => Dev.refill (if d.isCold a then d else d.storeDW a w) (a + 2) ws

/-- Make a list of exactly n DW: what is missing is 0. DESIGN CHOICE: log 103. -/
def fitDW (n : Nat) (l : List DW) : List DW := (l ++ List.replicate n 0#28).take n

/-- The DW of chunk c of a sample, frames past its end as zero (R264). DESIGN CHOICE: log 103. -/
def StreamDesc.chunkData (s : StreamDesc) (c : Nat) (dws : List DW) : List DW :=
  let keep := (s.length - c * s.F) * fmtW s.format
  (fitDW 584 dws).zipIdx.map fun (w, i) =>
    if 2 * i + 2 ≤ keep then w else if 2 * i + 1 = keep then w &&& 0x0003FFF else 0#28

/-- A read of the stoker failed (R283): flash management takes the chunk over. -/
def Dev.chunkOwed (d : Dev) (r k : Nat) : Dev :=
  let d := d.countS Reg.STOKER.DATA_ERR_CNT.COUNT Reg.STOKER.DATA_ERR_CNT.OVF 0 0
  (d.modFlash fun f => { f with due := setInsert f.due r, owed := setInsert f.owed (lostKey r k) }).raise 0x050 3

/-- A chunk of a stream is written where the read gave it. DESIGN CHOICE: log 182. -/
def Dev.chunkPut (d : Dev) (desc : StreamDesc) (a c : Nat) (x : FlashRead) : Dev :=
  let r := desc.region
  let k := desc.chunk0 + c
  let got := d.climbShort r k x
  let won := match got with | some g => decide (g.step = 4) | none => false
  let d := d.ladderShort r k x
  let d := if won then (d.countS Reg.STOKER.REBUILD_CNT.COUNT Reg.STOKER.REBUILD_CNT.OVF 0 0).raise 0x050 2 else d
  match got with
  | some g => d.refill a (desc.chunkData c (chunkDW g.bytes))
  | none => d.chunkOwed r k

/-- A demanded chunk is written (R280), or left as zeros (R283). -/
def Dev.chunkLand (d : Dev) (e q : Nat) (x : FlashRead) (us : Nat) : Dev :=
  match d.stream e with
  | none => d
  | some s =>
    if !s.waiting.contains q then d
    else
      let c := (s.desc.sampleChunk q).getD 0
      let d := d.modStream e fun s => { s with waiting := setErase s.waiting q, late := setErase s.late q }
      let failed := (d.climbShort s.desc.region (s.desc.chunk0 + c) x).isNone
      let d := d.chunkPut s.desc (s.desc.ringPos q) c x
      if failed then d.post s.owner (noticeWord 0x2 q e)
      else d.put Reg.STOKER.WORST.US (Nat.max (d.get Reg.STOKER.WORST.US) (Nat.min us 0xFFFF))

/-- A chunk of a head that was read again lands (R284); one that cannot be read leaves its bad word.
DESIGN CHOICE: log 181. -/
def Dev.headLand (d : Dev) (e c : Nat) (x : FlashRead) : Dev :=
  match d.stoker.rereads.find? (fun h => h.entry = e && h.chunk = c) with
  | none => d
  | some h =>
    let d := d.modStoker fun s => { s with rereads := s.rereads.filter (· ≠ h) }
    d.chunkPut h.desc (h.desc.headAddr + 1168 * c) c x

/-- A demanded chunk was not written within 1.5 ms (R281). -/
def Dev.chunkIsLate (d : Dev) (e q : Nat) : Dev :=
  match d.stream e with
  | none => d
  | some s =>
    if s.waiting.contains q && !s.late.contains q then
      let d := d.modStream e fun s => { s with late := setInsert s.late q }
      let d := d.countS Reg.STOKER.LATE_CNT.COUNT Reg.STOKER.LATE_CNT.OVF 0 0
      (d.post s.owner (noticeWord 0x1 q e)).raise 0x050 1
    else d

/-- A chunk of a head is to be read again. DESIGN CHOICE: log 181. -/
def Dev.readAgain (d : Dev) (h : HeadRead) : Dev :=
  if d.stoker.rereads.contains h then d else d.modStoker fun s => { s with rereads := s.rereads ++ [h] }

/-- A slot load met a bad word in stream data (R284): the chunk of a ring that still lies in its stream's window is
demanded again; a chunk of a head is read again, for each stream that plays it, or for its pinned entry where none does.
DESIGN CHOICE: log 181. -/
def Dev.streamBad (d : Dev) (a : Nat) : Dev :=
  let heads := d.streams.filter fun s => s.desc.inHead a
  let d := d.streams.foldl (fun d s =>
    if !s.desc.cacheFed && s.desc.inRing a then
      let p := (a - s.desc.ringAddr) / 1168
      d.demand s.entry ((List.range s.desc.rc).filterMap fun i =>
        let q := s.qNeed + i
        if q % s.desc.rc = p then some q else none)
    else d) d
  let d := heads.foldl (fun d s => d.readAgain ⟨s.entry, s.desc, (a - s.desc.headAddr) / 1168⟩) d
  let d := if heads.isEmpty then
      (d.stoker.headValid.filter fun e => inPinned e.2 a).foldl (fun d e =>
        d.readAgain ⟨e.1, d.entryDesc e.1, (a - e.2.1) / 1168⟩) d
    else d
  (d.countS Reg.STOKER.DATA_ERR_CNT.COUNT Reg.STOKER.DATA_ERR_CNT.OVF 0 0).raise 0x050 3

/-! The boundary (R275, R276, R288, R289). -/

/-- A kept request of the slot's final run. -/
def Dev.confirmed (d : Dev) (slot e : Nat) (isStart : Bool) : Bool :=
  d.stoker.kept.any (fun k => k.slot = slot && k.entry = e && k.isStart = isStart && k.inRun
    && (!isStart || k.result.getLsbD 27))

/-- What becomes of a stream of a slot at the boundary: none where it ends. -/
def Dev.settleStream (d : Dev) (completed : Bool) (s : Stream) : Option Stream :=
  let started := completed && d.confirmed s.owner s.entry true
  let stopped := completed && d.confirmed s.owner s.entry false
  if s.started && !started then none
  else if s.stopped && stopped then none
  else some { s with started := false, stopped := false, need := if completed then s.need else none }

/-- NEED takes effect: the chunks that enter the window are demanded (R270, R280). -/
def Dev.applyNeed (d : Dev) (e : Nat) : Dev :=
  match d.stream e with
  | some s =>
    match s.need with
    | some n =>
      let first := Nat.max n (s.qNeed + s.desc.rc)
      let d := d.modStream e fun s =>
        { s with qNeed := n, need := none, waiting := s.waiting.filter (n ≤ ·), late := s.late.filter (n ≤ ·) }
      d.demand e ((List.range (n + s.desc.rc - first)).map (first + ·))
    | none => d
  | none => d

/-- Order 3 at the stoker, for the slots that completed and those that overran. -/
def Dev.stokerOrder3 (d : Dev) (done excess : List Nat) : Dev :=
  let d := d.setStreams (d.streams.filterMap fun s =>
    if done.contains s.owner then d.settleStream true s
    else if excess.contains s.owner then d.settleStream false s else some s)
  let d := (d.streams.map (·.entry)).foldl Dev.applyNeed d
  let d := d.modStoker fun s => { s with kept := [] }
  let ended := d.streams.filter (fun s => s.killed || s.withdrawn)
  let d := ended.foldl (fun d s => d.post s.owner (noticeWord (if s.killed then 0x3 else 0x4) 0 s.entry)) d
  d.setStreams (d.streams.filter fun s => !(s.killed || s.withdrawn))

/-- A restart: requests of the discarded run are kept, its NEEDs are not; the notice list is read again (R276,
R282). DESIGN CHOICE: log 100. -/
def Dev.stokerRestart (d : Dev) (slot : Nat) : Dev :=
  d.modStoker fun s =>
    { s with
      kept := s.kept.map fun k => if k.slot = slot then { k with inRun := false } else k
      streams := s.streams.map fun x => if x.owner = slot then { x with need := none } else x
      noticePos := tabSet s.noticePos slot 0 }

/-! Pinning (R285, R286). -/

/-- Does every chunk of a head have a read that succeeds? -/
def Dev.headReads (d : Dev) (s : StreamDesc) (heads : List FlashRead) : Bool :=
  decide (s.headChunks ≤ heads.length)
    && (heads.take s.headChunks).zipIdx.all fun x => (d.climbShort s.region (s.chunk0 + x.2) x.1).isSome

/-- One entry of a PIN, with the reads of its chunks in order; one that fails is left unpinned. DONE and FAILED count
modulo 2^14. DESIGN CHOICE: log 102, 168. -/
def Dev.pinEntry (d : Dev) (e : Nat) (heads : List FlashRead) : Dev :=
  let s := d.entryDesc e
  if e < d.get Reg.STOKER.ENTRIES.VALUE && d.entryValid e then
    let good := d.headReads s heads
    let reads := (heads.take s.headChunks).zipIdx
    if good then
      let d := (List.range (s.headSpan / 2)).foldl (fun d i => d.warmAt (s.headAddr + 2 * i)) d
      let d := reads.foldl (fun d x => d.chunkPut s (s.headAddr + 1168 * x.2) x.2 x.1) d
      let d := d.modStoker fun x => { x with headValid := tabSet x.headValid e (s.headAddr, s.headSpan) }
      d.put Reg.STOKER.PIN_STAT.DONE (d.get Reg.STOKER.PIN_STAT.DONE + 1)
    else
      let d := reads.foldl (fun d x => d.ladderShort s.region (s.chunk0 + x.2) x.1) d
      let d := d.modStoker fun x => { x with headValid := tabDel x.headValid e }
      d.put Reg.STOKER.PIN_STAT.FAILED (d.get Reg.STOKER.PIN_STAT.FAILED + 1)
  else
    let d := d.modStoker fun x => { x with headValid := tabDel x.headValid e }
    d.put Reg.STOKER.PIN_STAT.FAILED (d.get Reg.STOKER.PIN_STAT.FAILED + 1)

/-- Entries of a PIN in order, with the reads of their heads; those that are missing could not be read. -/
def Dev.pinAll (d : Dev) : Nat → Nat → List (List FlashRead) → Dev
  | 0, _, _ => d
  | n + 1, e, [] => Dev.pinAll (d.pinEntry e []) n (e + 1) []
  | n + 1, e, h :: hs => Dev.pinAll (d.pinEntry e h) n (e + 1) hs

/-- PIN_CMD.PIN: the range is read once, as the command starts (R14). DESIGN CHOICE: log 102. -/
def Dev.doPin (d : Dev) : Dev :=
  if !d.isOn domStoker || d.stopping domStoker || d.stoker.pin.isSome then d
  else
    let d := d.put Reg.STOKER.PIN_STAT.DONE 0
    let d := d.put Reg.STOKER.PIN_STAT.FAILED 0
    d.modStoker fun s => { s with pin := some ⟨d.get Reg.STOKER.PIN_FIRST.ENTRY, d.get Reg.STOKER.PIN_LAST.ENTRY⟩ }

/-- A PIN finishes. -/
def Dev.doPinDone (d : Dev) (heads : List (List FlashRead)) : Dev :=
  match d.stoker.pin with
  | none => d
  | some p =>
    let d := d.pinAll (p.last + 1 - p.first) p.first heads
    (d.modStoker fun s => { s with pin := none }).raise 0x050 5

/-- PIN_CMD.UNPIN. -/
def Dev.doUnpin (d : Dev) : Dev :=
  if !d.isOn domStoker then d
  else
    let lo := d.get Reg.STOKER.PIN_FIRST.ENTRY
    let hi := d.get Reg.STOKER.PIN_LAST.ENTRY
    (d.modStoker fun s => { s with headValid := tabDelRange s.headValid lo (hi + 1) }).raise 0x050 5

/-- STOKER.KILL (R289). DESIGN CHOICE: log 101. -/
def Dev.doKill (d : Dev) (v : DW) : Dev :=
  if !d.isOn domStoker then d
  else d.modStream (bitsOf v.toNat 13 0) fun s => if s.started then s else { s with killed := true }

/-- A commit: the new STREAMS section, clamped; streams of slots without a program end (R287, R286, R292).
DESIGN CHOICE: log 104. -/
def Dev.stokerCommit (d : Dev) (sec : Option StreamsSec) (mask : Nat) : Dev :=
  let s := sec.getD ⟨0, 0, 0, 0⟩
  let moved := d.get Reg.STOKER.TABLE_BASE.VALUE ≠ s.base || d.get Reg.STOKER.ENTRIES.VALUE ≠ s.entries
  let d := d.put Reg.STOKER.TABLE_BASE.VALUE s.base
  let d := d.put Reg.STOKER.ENTRIES.VALUE s.entries
  let d := d.put Reg.STOKER.READ_BUDGET.VALUE (Nat.min s.budget (d.get Reg.STOKER.CEILING.VALUE))
  let d := d.put Reg.STOKER.MAX_STREAMS.VALUE (Nat.min s.max 8192)
  let d := if moved then d.modStoker fun x => { x with headValid := [] } else d
  d.setStreams (d.streams.filter fun x => bitOf mask x.owner)

end Sys2Proof.Machine
end

