-- ==== Sys2Proof/Machine/Router.lean ====
section
/-! DEFINITION. The event router at its targets: selection, delivery, the slot's event interface, restarts, software
pending (R226 to R238). -/

namespace Sys2Proof.Machine

/-! Pending sources (R222, R226). -/

/-- The private sources that are pending for a target. -/
def Dev.pendPriv (d : Dev) (t : Nat) : BitVec 32 := tabGet 0#32 d.router.pendP t

/-- Private source s of a target is enabled (R240). -/
def Dev.privEnabled (d : Dev) (t s : Nat) : Bool :=
  if s < 16 then bitOf (d.getAt Reg.ROUTER.TGT_EN_LO.EN 0 t) s else bitOf (d.getAt Reg.ROUTER.TGT_EN_HI.EN 0 t) (s - 16)

/-- PRIORITY of private source s: PRIV_PRI on a slot target; the manual gives none for a control target's.
DESIGN CHOICE: log 10. -/
def Dev.privPrio (d : Dev) (t s : Nat) : Nat :=
  if t < 64 then bitsOf (d.regGet (regKey 0x030 (0x060 + 4 * (s / 3)))).toNat (8 * (s % 3) + 7) (8 * (s % 3))
  else Config.openValue 1 [t, s] % 256

/-- SHARED of a control target: an enabled shared source is pending for it (R223). -/
def Dev.sharedPending (d : Dev) (t : Nat) : Bool :=
  d.router.pendS.any (fun n => d.srcTarget n = t && d.srcEnabled n)

/-- Private source s of a target is pending; SHARED, 5 of a control target, while it holds (R223). -/
def Dev.privPending (d : Dev) (t s : Nat) : Bool :=
  (d.pendPriv t).getLsbD s || (decide (64 ≤ t) && s = 5 && d.sharedPending t)

/-- The pending, enabled sources of a target with their priorities, by rising number. -/
def Dev.candidates (d : Dev) (t : Nat) : List (Nat × Nat) :=
  ((List.range 32).filter (fun s => d.privPending t s && d.privEnabled t s)).map (fun s => (d.privPrio t s, s))
    ++ (d.router.pendS.filter (fun n => d.srcTarget n = t && d.srcEnabled n)).map (fun n => (d.srcPrio n, n))

/-- The first candidate of the lowest priority. -/
def selectMin : List (Nat × Nat) → Option (Nat × Nat)
  | [] => none
  | x :: t =>
    match selectMin t with
    | some y => if x.1 ≤ y.1 then some x else some y
    | none => some x

def Dev.stack (d : Dev) (t : Nat) : List Nat := tabGet [] d.router.runStacks t

/-- The source that may be delivered to a target now, with its group part (R227). -/
def Dev.deliverable (d : Dev) (t : Nat) : Option (Nat × Nat) :=
  match selectMin (d.candidates t) with
  | none => none
  | some (prio, n) =>
    let g := prio / 2 ^ d.getAt Reg.ROUTER.TGT_CFG.GROUP_BITS 0 t
    let st := d.stack t
    let above := match st with | [] => true | top :: _ => decide (g < top)
    if d.isOn domRouter && !d.asleep t && above && st.length < 8 && !d.router.windows.contains t then some (n, g) else none

/-- Delivery clears the pending bit, pushes the group and opens the moderation window (R227, R232). -/
def Dev.deliver (d : Dev) (t n g : Nat) : Dev :=
  d.modRouter fun r =>
    { r with
      pendP := if n < 32 then tabMap 0#32 r.pendP t (fun v => v &&& ~~~(1#32 <<< n)) else r.pendP
      pendS := if n < 32 then r.pendS else setErase r.pendS n
      runStacks := tabMap [] r.runStacks t (g :: ·)
      windows := if t < 64 && d.getAt Reg.ROUTER.TGT_CFG.MOD_WIN 0 t ≠ 0 then setInsert r.windows t else r.windows }

/-- The window of a target ends (R232). -/
def Dev.windowEnd (d : Dev) (t : Nat) : Dev := d.modRouter fun r => { r with windows := setErase r.windows t }

/-- A private source of a target is pending, SHARED among them (R133). -/
def Dev.anyPrivate (d : Dev) (t : Nat) : Bool := d.pendPriv t != 0#32 || (64 ≤ t && d.sharedPending t)

/-- The target that a core serves (R220). -/
def Dev.targetOf (d : Dev) (core : Nat) : Option Nat :=
  if core < 64 then some core
  else if d.active = core - 64 then some 64
  else if d.standby = core - 64 then some 65
  else none

/-- A core that sleeps in WAIT wakes once a private source of its target is pending (R133, R233). -/
def Dev.rouse (d : Dev) (core : Nat) : Dev :=
  if (d.core core).run = .asleep && ((d.targetOf core).map d.anyPrivate).getD false then d.modCore core fun c => { c with run := .running } else d

/-- The cores that sleep in WAIT. -/
def Dev.sleepers (d : Dev) : List Nat := (d.cores.filter fun e => e.2.run = .asleep).map (·.1)

/-- Every core that sleeps looks for a source that wakes it. -/
def Dev.rouseAll (d : Dev) : Dev := d.sleepers.foldl Dev.rouse d

/-! The slot's event interface (R229, R230). -/

/-- RUNNING. -/
def Dev.runningReg (d : Dev) (t : Nat) : DW :=
  match d.stack t with
  | [] => 0x00000FF
  | top :: r => BitVec.ofNat 28 ((r.length + 1) * 256 + top)

/-- EOI pops the running stack (R228). -/
def Dev.doEoi (d : Dev) (t : Nat) : Dev := d.modRouter fun r => { r with runStacks := tabMap [] r.runStacks t List.tail }

/-- A CLR takes effect at the boundary (R229, R230). -/
def Dev.applyClr (d : Dev) (slot n : Nat) : Dev :=
  if n < 32 then d.modRouter fun r => { r with pendP := tabMap 0#32 r.pendP slot (fun v => v &&& ~~~(1#32 <<< n)) }
  else if d.srcTarget n = slot then d.modRouter fun r => { r with pendS := setErase r.pendS n }
  else d

/-- A doorbell rings: DOORBELL of targets 0 to 65. -/
def Dev.ring (d : Dev) (t : Nat) : Dev := if t < 66 then d.firePriv t 2 else d

/-- TIMER fires where EN is set, the count has reached AT, and it did not fire in this frame (R229). -/
def Dev.timerCheck (d : Dev) (slot tick : Nat) : Dev :=
  let c := d.core slot
  if c.timer.getLsbD 6 && (c.timer.toNat % 64 ≤ tick / 16) && !c.timerFired then
    (d.modCore slot fun c => { c with timerFired := true }).firePriv slot 3
  else d

/-- A store to TIMER. -/
def Dev.setTimer (d : Dev) (slot : Nat) (v : BitVec 7) (tick : Nat) : Dev :=
  (d.modCore slot fun c => { c with timer := v }).timerCheck slot tick

/-! Frame entry, restart and overrun (R228, R231, R232). -/

/-- What the router keeps for a replay is what is pending at frame entry. -/
def Dev.routerSnapshot (d : Dev) : Dev := d.modRouter fun r => { r with replayP := r.pendP, replayS := r.pendS }

/-- A slot target's running stack is emptied and its window ends. -/
def Dev.routerClear (d : Dev) (t : Nat) : Dev :=
  d.modRouter fun r => { r with runStacks := tabSet r.runStacks t [], windows := setErase r.windows t }

/-- The pending state of a slot's sources returns to that of the first run's frame entry, with every firing since. -/
def Dev.routerReplay (d : Dev) (t : Nat) : Dev :=
  let back := d.router.replayS.filter (fun n => d.srcTarget n = t)
  d.modRouter fun r =>
    { r with pendP := tabSet r.pendP t (tabGet 0#32 r.replayP t ||| tabGet 0#32 r.pendP t)
             pendS := setUnion r.pendS back }

/-! Software pending (R236). -/

/-- Private sources that never fire: 5 to 7 and 18 to 23 of a slot target; SHARED of a control target is computed.
DEDUCED: log 54. -/
def privReserved (t s : Nat) : Bool :=
  if t < 64 then (5 ≤ s && s ≤ 7) || (18 ≤ s && s ≤ 23) else s = 5

/-- DEDUCED: log 54. -/
def Dev.doSetPend (d : Dev) (v : DW) : Dev :=
  let n := bitsOf v.toNat 9 0
  let t := bitsOf v.toNat 22 16
  if n < 32 then (if t ≤ 65 && !privReserved t n then d.firePriv t n else d)
  else if n < 480 && n ≠ 95 then d.fireShared n
  else d

/-- DEDUCED: log 54. -/
def Dev.doClrPend (d : Dev) (v : DW) : Dev :=
  let n := bitsOf v.toNat 9 0
  let t := bitsOf v.toNat 22 16
  if n < 32 then
    (if t ≤ 65 then d.modRouter fun r => { r with pendP := tabMap 0#32 r.pendP t (fun v => v &&& ~~~(1#32 <<< n)) } else d)
  else d.modRouter fun r => { r with pendS := setErase r.pendS n }

/-- Pending sources whose routing changed, or whose target fell asleep, are looked at again (R234, R237). -/
def Dev.represent (d : Dev) (l : List Nat) : Dev :=
  (l.filter (fun n => d.router.pendS.contains n)).foldl (fun d n => let (d, w) := d.present n; Dev.works 16 w d) d

end Sys2Proof.Machine
end

