-- ==== Sys2Proof/Machine/Restart.lean ====
section
/-! DEFINITION. Frame entry and restarts of a slot, its place on a physical core, flare (R28, R68, R69, R72, R87, R180,
R183, R197, R214). -/

namespace Sys2Proof.Machine

/-! The physical core of a slot (R28, R183, R201). -/

/-- The field of SLOTMAP that names the core of a slot position. -/
def slotmapFld : Nat → RegFld
  | 0 => Reg.HEARTH.SLOTMAP.CORE0
  | 1 => Reg.HEARTH.SLOTMAP.CORE1
  | 2 => Reg.HEARTH.SLOTMAP.CORE2
  | _ => Reg.HEARTH.SLOTMAP.CORE3

/-- The physical core of a slot, 7 for none. -/
def Dev.coreOf (d : Dev) (slot : Nat) : Nat := d.getAt (slotmapFld (slot % 4)) (slot / 4) 0
def Dev.setCoreOf (d : Dev) (slot k : Nat) : Dev := d.putAt (slotmapFld (slot % 4)) (slot / 4) 0 k

/-- The other slot on a slot's core. -/
def Dev.mate (d : Dev) (slot : Nat) : Option Nat :=
  if d.coreOf slot = 7 then none
  else ((List.range 4).map (4 * (slot / 4) + ·)).find? (fun x => x ≠ slot && d.coreOf x = d.coreOf slot)

/-- A slot can make progress. -/
def Dev.runnable (d : Dev) (slot : Nat) : Bool := (d.core slot).run = .running && !(d.core slot).halted

/-- One slot of a pair takes the core. DEDUCED: log 91. -/
def Dev.giveCore (d : Dev) (to_ from_ : Nat) : Dev :=
  (d.modCore from_ fun c => { c with parked := true }).modCore to_ fun c => { c with parked := false }

/-- A core with two slots runs the lower-numbered one that can run (R183). -/
def Dev.settlePair (d : Dev) (slot : Nat) : Dev :=
  match d.mate slot with
  | none => d.modCore slot fun c => { c with parked := false }
  | some m =>
    let lo := Nat.min slot m
    let hi := Nat.max slot m
    if d.runnable lo || !d.runnable hi then d.giveCore lo hi else d.giveCore hi lo

/-- A slot executes BARRIER or WAIT: the core turns to its other slot where that can run (R183). DEDUCED: log 91. -/
def Dev.switchFrom (d : Dev) (slot : Nat) : Dev :=
  match d.mate slot with
  | none => d
  | some m => if d.runnable m then d.giveCore m slot else d

/-! Flare (R68, R69, R72). -/

/-- 950 mV as a SET code (R84). -/
def flareSet : Nat := 0x5A

/-- The running image's mode: 0 GUARDED, 1 DENSE, 2 FIXED, 3 no image. -/
def Dev.mode (d : Dev) : Nat := match d.loader.run with | some i => i.mode | none => 3

/-- A hearth goes to flare. -/
def Dev.flare (d : Dev) (h : Nat) : Dev :=
  (d.putAt Reg.HEARTH.TEMPO.FLARE h 0 1).putAt Reg.HEARTH.TEMPO.SET h 0 flareSet

/-- Every hearth with a slot of a slot's barrier group goes to flare, in GUARDED and DENSE mode. -/
def Dev.flareGroup (d : Dev) (slot : Nat) : Dev :=
  if d.mode ≤ 1 then d.each (setUnion [] ((d.group slot).map (· / 4))) Dev.flare else d

/-! Frame entry and restart (R87, R180). -/

/-- The core of a slot as it begins a run. A record of R215 that was not passed on yet stays due. -/
def Core.enter (c : Core) (cfg : SlotCfg) (frameNo : Count48) : Core :=
  { Core.reset with
    fetch := BitVec.ofNat 28 cfg.entry, frameNo := frameNo, traps := cfg.traps, run := .running, halted := c.halted
    timerFired := c.timerFired, report := c.report, reports := c.reports, fetchPoison := c.fetchPoison
    parked := c.parked }

/-! The damper's discard (R163, R172, R174, R179, R238). -/

def Dev.heldOf (d : Dev) (core : Nat) : List Held := tabGet [] d.held core

/-- A held output is withdrawn. -/
def Dev.undoOut (d : Dev) (core : Nat) (o : HeldOut) : Dev :=
  match o with
  | .popped n => d.hopBeat n (·.modHop n Hopper.untake)
  | .started e again => d.startReturned core e again
  | .noticed p => d.modStoker fun s => { s with noticePos := tabSet s.noticePos core p }
  | _ => d

/-- A source whose entry is discarded is pending again (R238). -/
def Dev.undeliver (d : Dev) (t n g : Nat) : Dev :=
  if d.isOn domRouter then
    d.modRouter fun r =>
      { r with
        pendP := if n < 32 then tabMap 0#32 r.pendP t (· ||| (1#32 <<< n)) else r.pendP
        pendS := if n < 32 then r.pendS else setInsert r.pendS n
        runStacks := tabMap [] r.runStacks t (fun l => if l.head? = some g then l.tail else l)
        windows := setErase r.windows t }
  else d

/-- One held bundle is withdrawn. -/
def Dev.undoHeld (d : Dev) (core : Nat) (h : Held) : Dev :=
  let d := h.outs.reverse.foldl (fun d o => d.undoOut core o) d
  match h.deliv with | some (t, n, g) => d.undeliver t n g | none => d

/-- The damper of a core discards everything it holds, youngest first. -/
def Dev.dropHeld (d : Dev) (core : Nat) : Dev :=
  (d.heldOf core).reverse.foldl (fun d h => d.undoHeld core h) { d with held := tabDel d.held core }

/-- A core in a new state, with an empty damper. -/
def Dev.wipeCore (d : Dev) (k : Nat) (c : Core) : Dev := { d.setCore k c with held := tabDel d.held k }

/-- The positions of output ports that the run wrote are as before it (R29, R180). DEDUCED: log 164. -/
def Dev.dropSamples (d : Dev) (slot : Nat) : Dev :=
  (d.core slot).overwrote.foldl (fun d x => d.putW x.1 x.2) d

/-- HEARTH.LAST_FAULT (R201). DEDUCED: log 74, 154. -/
def Dev.lastFault (d : Dev) (slot kind core : Nat) : Dev :=
  let h := slot / 4
  let d := d.putAt Reg.HEARTH.LAST_FAULT.FRAME h 0 d.frame12
  let d := d.putAt Reg.HEARTH.LAST_FAULT.KIND h 0 kind
  let d := d.putAt Reg.HEARTH.LAST_FAULT.SLOT h 0 (slot % 4)
  d.putAt Reg.HEARTH.LAST_FAULT.CORE h 0 core

/-- What becomes of everything that a slot's run has not released (R29, R180, R276).
DEDUCED: log 164. DESIGN CHOICE: log 100, 173. -/
def Dev.discardRun (d : Dev) (slot : Nat) : Dev :=
  let d := (((d.dropHeld slot).discardPushes slot).rewindHops slot).stokerRestart slot
  let d := d.modLoader fun l => { l with arrived := l.arrived.map fun e => (e.1, setErase e.2 slot) }
  (d.routerReplay slot).routerClear slot

/-- A slot's run begins again from frame entry, whatever the cause. -/
def Dev.restartSlot (d : Dev) (slot : Nat) : Dev :=
  let d := (d.discardRun slot).dropSamples slot
  let d := d.modCore slot fun c => c.enter (d.slotCfg slot) c.frameNo
  let d := d.modHearth (slot / 4) fun h => { h with restarted := true }
  let d := (d.flareGroup slot).settlePair slot
  d.firePriv slot 0

/-- A restart caused by memory: the core stays in service (R197). -/
def Dev.memRestart (d : Dev) (slot : Nat) : Dev :=
  let d := d.restartSlot slot
  let d := d.countS Reg.HEARTH.RESTART.COUNT Reg.HEARTH.RESTART.OVF (slot / 4) 0
  let d := d.lastFault slot 4 (d.coreOf slot)
  d.raise (0x010 + slot / 4) 6

/-- A slot has a run in this frame that a restart can begin again. -/
def Dev.inFrame (d : Dev) (slot : Nat) : Bool :=
  match (d.core slot).run with
  | .running => true
  | .waiting => true
  | .asleep => true
  | .barrier _ => true
  | _ => false

/-- Poison in an exchange bank restarts every slot of the barrier group (R197). -/
def Dev.groupRestart (d : Dev) (slot : Nat) : Dev :=
  d.each ((d.group slot).filter d.inFrame) Dev.memRestart

/-- A slot's frame is ended: it issues nothing more and does not reach WAIT (R197, R214). DESIGN CHOICE: log 147. -/
def Dev.endRun (d : Dev) (slot : Nat) : Dev :=
  (d.modCore slot fun c => { c with run := .ended, bundle := [] }).switchFrom slot

/-- The state blocks with a copy that holds an address are reset at the next boundary (R197). DEDUCED: log 140. -/
def Dev.askReset (d : Dev) (a : Nat) : Dev :=
  d.modLoader fun l =>
    { l with resets := ((d.blocks.filter (·.holds a)).map (fun b => 16 * b.slot + b.index)).foldl setInsert l.resets }

end Sys2Proof.Machine
end

