-- ==== Sys2Proof/Machine/Link.lean ====
section
/-! DEFINITION. Filken packets, credits, completions and the attention unit (R357 to R360, R368, R369, R373, R377 to
R382). -/

namespace Sys2Proof.Machine

/-! Packets (R358, R360). -/

def pktAddr (p : Packet) : Nat := bitsOf p.hdr.toNat 63 24
def pktLen (p : Packet) : Nat := bitsOf p.hdr.toNat 23 17
def pktTag (p : Packet) : Nat := bitsOf p.hdr.toNat 16 7
def pktCode (p : Packet) : Nat := bitsOf p.hdr.toNat 6 4
def pktType (p : Packet) : Nat := bitsOf p.hdr.toNat 3 0

/-- A function of a number whose value is computed first. -/
def ofValue {α : Type} (n : Nat) (f : Nat → α) : α := match n with | 0 => f 0 | k + 1 => f (k + 1)

/-- One bit of the CRC-16. -/
def crc16Bit (c : Nat) : Nat := if c < 0x8000 then 2 * c else (2 * c - 0x10000) ^^^ 0x1021

/-- One byte of the CRC-16, most significant bit first. -/
def crc16Byte (c : Nat) (b : Byte) : Nat := (List.range 8).foldl (fun c _ => ofValue c crc16Bit) (c ^^^ (b.toNat * 256))

def crc16Bytes : List Byte → Nat → Nat
  | [], c => c
  | b :: t, c => ofValue (crc16Byte c b) (crc16Bytes t)

/-- The end-to-end check of a header and payload. -/
def crc16 (hdr : BitVec 64) (payload : List Cont) : BitVec 16 :=
  BitVec.ofNat 16 (crc16Bytes (leBytes 8 hdr.toNat ++ payload.flatMap (fun c => leBytes 4 c.toNat)) 0xFFFF)

def packHdr (addr len tag code typ : Nat) : BitVec 64 :=
  BitVec.ofNat 40 addr ++ BitVec.ofNat 7 len ++ BitVec.ofNat 10 tag ++ BitVec.ofNat 3 code ++ BitVec.ofNat 4 typ

/-- A packet with its check. -/
def mkPacket (addr len tag code typ : Nat) (payload : List Cont) : Packet :=
  let h := packHdr addr len tag code typ
  ⟨h, payload, crc16 h payload, 0⟩

/-- The link is active (R384). -/
def Dev.linkActive (d : Dev) : Bool := d.isOn domLink && d.get Reg.HOSTLINK.STATUS.STATE = 3

/-- Send a packet; the device keeps it (R368). DESIGN CHOICE: log 107. -/
def Dev.send (d : Dev) (p : Packet) : Dev := d.modLink fun l => { l with sent := l.sent ++ [⟨p, d.aon.ticks.toNat⟩] }

/-- A container from a DW (R16). -/
def contOf (v : DW) : Cont := v.setWidth 32

/-! Credits (R369). -/

/-- A CREDIT packet for a hopper. -/
def Dev.sendCredit (d : Dev) (n : Nat) : Dev :=
  match d.hopAcct n 65 with
  | none => d
  | some k => d.send (mkPacket n 2 0 0 9 [BitVec.ofNat 32 (d.hop n).charged, BitVec.ofNat 32 (d.hopAvail n k)])

/-- CREDIT packets that are due. -/
def Dev.flushCredits (d : Dev) : Dev :=
  if d.linkActive then
    d.each hopAll fun d n =>
      if (d.hop n).creditDue then (d.sendCredit n).modHop n fun h => { h with creditDue := false } else d
  else d

/-! The attention unit (R377 to R382). -/

/-- The items of a hopper that have not been popped to their last word: their priorities. -/
def Hopper.waiting (h : Hopper) : List Nat :=
  let open' := (h.log.drop h.pos ++ h.rest).map fun w => (w.item, w.prio)
  (open'.foldl (fun (a : List (Nat × Nat)) x => if a.any (·.1 = x.1) then a else a ++ [x]) []).map (·.2)
    ++ h.ready.map (·.prio)

/-- Priorities of the waiting items of HOP4 and HOP5. -/
def Dev.waitingItems (d : Dev) : List Nat := (d.hop 4).waiting ++ (d.hop 5).waiting

/-- A block source is pending. -/
def Dev.blkPending (d : Dev) (src : Nat) : Bool :=
  match sourcePage src with | some p => (d.page p).line | none => false

/-- ATTN.BLK_EN of a block source. -/
def Dev.blkEnabled (d : Dev) (src : Nat) : Bool :=
  let i := src - 32
  bitOf (d.regGet (regKey 0x081 (0x028 + 4 * (i / 28)))).toNat (i % 28)

/-- An enabled block event is pending. -/
def Dev.blkWaiting (d : Dev) : Bool :=
  (List.range 64).any fun i => d.blkPending (32 + i) && d.blkEnabled (32 + i)

/-- W. -/
def Dev.attnW (d : Dev) : Nat := d.waitingItems.length + b2n d.blkWaiting

/-- An urgent item is waiting. -/
def Dev.attnUrgent (d : Dev) : Bool := d.waitingItems.any (6 ≤ ·)

/-- The bypass: the link is not active. -/
def Dev.attnBypass (d : Dev) : Bool := !d.linkActive

/-- HRB_N must be high while W is not 0. -/
def Dev.attnReady (d : Dev) : Bool :=
  d.flag Reg.ATTN.CFG.EN &&
    (decide (d.get Reg.ATTN.CFG.HOLD ≤ d.attn.hold)
      || (d.get Reg.ATTN.CFG.COUNT ≠ 0 && decide (d.get Reg.ATTN.CFG.COUNT ≤ d.attnW))
      || d.attnUrgent || d.attnBypass)

/-- The ATTN packet (R381). -/
def Dev.sendAttn (d : Dev) : Dev :=
  d.send (mkPacket 0 1 0 0 0xA [BitVec.ofNat 32 (b2n d.blkWaiting * 2 ^ 27 + (d.hop 5).fill * 2 ^ 13 + (d.hop 4).fill)])

/-- HRB_N follows the attention state (R378, R379, R382). -/
def Dev.attnSettle (d : Dev) : Dev :=
  if !d.isOn domLink then { d with attn := if d.aon.stage = .held then Attn.released else Attn.reset }
  else if d.attnW = 0 then { d with attn := Attn.reset }
  else if d.attn.hrb = some true || !d.attnReady then d
  else
    let d := { d with attn := { d.attn with hrb := some true } }
    let d := d.raise 0x081 0
    if d.linkActive then d.sendAttn else d

/-- An AON tick advances the hold count (R378). -/
def Dev.attnTick (d : Dev) : Dev :=
  if d.isOn domLink && d.attnW ≠ 0 then { d with attn := { d.attn with hold := d.attn.hold + 1 } } else d

/-! Completions and reports of the control firmware (R215, R373, R427). -/

/-- The hopper on which commands from a hopper complete. -/
def doneHop (hop : Nat) : DoneHop := if hop ≤ 1 then .hop4 else .hop5

/-- The number of a completion hopper. -/
def doneNum (n : DoneHop) : Nat := match n with | .hop4 => 4 | .hop5 => 5

/-- An item of a control core pushes into HOP4 or HOP5 where it has room. DESIGN CHOICE: log 99. -/
def Dev.tryPush (d : Dev) (h : DoneHop) (ws : List DW) : Option Dev :=
  let n := doneNum h
  match d.hopAcct n 64 with
  | some k => if d.isOn domHoppers && decide (ws.length ≤ d.hopAvail n k) then some (d.hopPushAll n 64 ws) else none
  | none => none

/-- Push completions that wait, oldest first, until one finds no room. DESIGN CHOICE: log 99. -/
def Dev.drainDone : Nat → Dev → Dev
  | 0, d => d
  | k + 1, d =>
    match d.ctrl.doneQ with
    | [] => d
    | (n, ws) :: t =>
      match d.tryPush n ws with
      | some d' => Dev.drainDone k { d' with ctrl := { d'.ctrl with doneQ := t } }
      | none => d

/-- A completion is due: it is pushed in turn, as soon as there is room; with HOPPERS not ON it is lost.
DESIGN CHOICE: log 99. -/
def Dev.pushDone (d : Dev) (n : DoneHop) (ws : List DW) : Dev :=
  if d.isOn domHoppers then
    let d := { d with ctrl := { d.ctrl with doneQ := d.ctrl.doneQ ++ [(n, ws)] } }
    Dev.drainDone d.ctrl.doneQ.length d
  else d

/-- The status codes of a completion. -/
inductive CmdStatus where
  | done
  | aborted
  | refused
  | failed
  | poison
  deriving DecidableEq, Repr

def CmdStatus.code : CmdStatus → Nat
  | .done => 1
  | .aborted => 2
  | .refused => 3
  | .failed => 4
  | .poison => 5

/-- The completion item of a command: hopper, TAG, PRIORITY and TYPE of the command (R373). -/
def doneItem (hop tag prio typ : Nat) (st : CmdStatus) (reason : Nat) (late : Bool) (result : Nat) : List DW :=
  [itemHeader prio 2 (0x400 + typ) tag,
   BitVec.ofNat 28 (st.code * 2 ^ 24 + reason * 2 ^ 16 + b2n late * 2 ^ 15 + hop * 2 ^ 11 + typ),
   BitVec.ofNat 28 result]

/-- The command in progress with a hopper and TAG. -/
def Dev.cmd (d : Dev) (hop tag : Nat) : Option Cmd := d.cmds.find? (fun c => c.hop = hop && c.tag = tag)
def Dev.modCmd (d : Dev) (hop tag : Nat) (f : Cmd → Cmd) : Dev :=
  { d with cmds := d.cmds.map fun c => if c.hop = hop && c.tag = tag then f c else c }

/-- A MEMWR of a command waits for the link (R371). -/
def OutItem.writes (hop tag : Nat) : OutItem → Bool
  | .write h t _ => h = hop && t = tag
  | .done _ _ _ _ _ => false

/-- A command ends: it leaves the commands in progress, and the CPLs of its reads mean nothing any more. Its completion
follows its last MEMWR (R371). -/
def Dev.endCmd (d : Dev) (c : Cmd) (st : CmdStatus) (reason result : Nat) : Dev :=
  let d := { d with cmds := d.cmds.filter fun x => !(x.hop = c.hop && x.tag = c.tag) }
  let d := d.modLink fun l =>
    { l with reads := l.reads.map fun r => if r.hop = c.hop && r.cmdTag = c.tag then { r with closed := true } else r }
  let late := c.aborted && c.committed && st = .done
  let ws := doneItem c.hop c.tag c.prio c.typ st reason late result
  if d.link.out.any (·.writes c.hop c.tag) then
    d.modLink fun l => { l with out := l.out ++ [.done c.hop c.tag c.prio c.typ ws] }
  else d.pushDone (doneHop c.hop) ws

/-- What waited for the link is sent, and the completions that follow it are pushed. DESIGN CHOICE: log 107. -/
def Dev.sendOut (d : Dev) : Dev :=
  d.link.out.foldl (fun d x => match x with
    | .write _ _ p => d.send p
    | .done hop _ _ _ ws => d.pushDone (doneHop hop) ws) (d.modLink fun l => { l with out := [] })

/-- HOSTLINK leaves ON: what waited for the link is dropped, and the commands it belongs to fail (R383).
DESIGN CHOICE: log 107. -/
def Dev.dropOut (d : Dev) : Dev :=
  d.link.out.foldl (fun d x => match x with
    | .write _ _ _ => d
    | .done hop tag prio typ _ => d.pushDone (doneHop hop) (doneItem hop tag prio typ .failed 0x84 false 0))
    (d.modLink fun l => { l with out := [] })

/-- A posted packet of the host (R360). -/
def HostReq.posted (r : HostReq) : Bool := pktType r.pkt = 2 || pktType r.pkt = 4 || pktType r.pkt = 5

/-! What follows every command of the device. -/

/-- Completions that found room, CREDIT packets, HRB_N, and the cores that a pending source wakes. -/
def Dev.settle (d : Dev) : Dev := (((Dev.drainDone d.ctrl.doneQ.length d).flushCredits).attnSettle).rouseAll

end Sys2Proof.Machine
end

