-- ==== Sys2Proof/Machine/CmdEnd.lean ====
section
/-! DEFINITION. Host commands that end before their commit point (R24, R51, R318, R372, R375, R383, R449). -/

namespace Sys2Proof.Machine

/-- The flash job of a command. -/
def Cmd.job (c : Cmd) : JobRef := .cmd (Fin.ofNat 4 c.hop) (BitVec.ofNat 8 c.tag)

/-- The number of a stripe in the lists of stripes. -/
def stripeKey (m : MapEntry) : Nat := m.group.toNat * 0x4000 + m.stripe.toNat

/-- A job is dropped: the stripe it would have used is erased in the background (R307, R318).
DESIGN CHOICE: log 123. -/
def Dev.dropJob (d : Dev) (j : JobRef) : Dev :=
  d.modFlash fun f =>
    { f with
      jobs := f.jobs.filter (fun x => x.job ≠ j)
      erasing := ((f.jobs.filter (fun x => x.job = j && x.entry.state ≠ 0)).map (fun x => stripeKey x.entry)).foldl
        setInsert f.erasing }

/-- The effects of a command that lie before its commit point are undone. DESIGN CHOICE: log 171. -/
def Dev.undoCmd (d : Dev) (c : Cmd) : Dev :=
  if c.committed then d
  else if c.typ = 0x10 then (d.put Reg.IMAGE.STATUS.PEND 0).modLoader fun l => { l with load := none, loaded := none }
  else if 0x30 ≤ c.typ && c.typ ≤ 0x36 then d.dropJob c.job
  else if c.typ = 0x40 then
    match d.ctrl.patch with
    | some (_, hop, tag) =>
      if hop = c.hop && tag = c.tag then
        { d with ctrl := { d.ctrl with patch := none, handover := false, ready := false } }
      else d
    | none => d
  else d

/-- A command fails with a reason. -/
def Dev.failCmd (d : Dev) (reason : Nat) (c : Cmd) : Dev := (d.undoCmd c).endCmd c .failed reason 0

/-- A command still moves data over the host link. -/
def Cmd.mastered (c : Cmd) : Bool := c.stage ≠ .work || c.typ = 0x21 || c.typ = 0x34 || c.typ = 0x35

/-- Device-mastered commands fail as the link goes (R383). -/
def Dev.failMastered (d : Dev) : Dev := (d.cmds.filter Cmd.mastered).foldl (fun d c => d.failCmd 0x84 c) d.dropOut

/-- Commands with a read outstanding fail as the link goes down (R372). -/
def Dev.failReading (d : Dev) : Dev :=
  (d.cmds.filter (fun c => d.link.reads.any (fun r => !r.closed && r.hop = c.hop && r.cmdTag = c.tag))).foldl
    (fun d c => d.failCmd 0x84 c) d

end Sys2Proof.Machine
end

