-- ==== Sys2Proof/Machine/Power.lean ====
section
/-! DEFINITION. Power domains: what a domain loses and brings, requests, entries, exits, wakes, cold banks and pad
hold (R387 to R407). -/

namespace Sys2Proof.Machine

/-! What a domain loses (R388). -/

/-- The number of BANK_KEEP bits of a domain (R387). -/
def keepBits (n : Nat) : Nat :=
  if 1 ≤ n && n ≤ 16 then 24
  else if n = 33 then 12
  else if 36 ≤ n && n ≤ 43 then 4
  else if 44 ≤ n && n ≤ 51 then 8
  else if n = 52 || n = 53 || n = 57 || n = 67 then 1
  else if n = 66 then 17
  else 0

/-- Reset the pages of a range but keep the registers with a property. DESIGN CHOICE: log 82. -/
def Dev.resetPagesKeep (d : Dev) (lo hi : Nat) (p : Nat → Bool) : Dev :=
  (d.regs.filter (fun e => decide (lo * 0x1000 ≤ e.1) && decide (e.1 < (hi + 1) * 0x1000) && p e.1)).foldl
    (fun d e => d.regSet e.1 e.2) (d.resetPages lo hi)

/-- A core loses its logic state: it is dormant. The record of R214 and the halt of debug lie outside it.
DESIGN CHOICE: log 81. -/
def Core.sleep (c : Core) : Core :=
  { Core.reset with
    report := c.report, reports := c.reports, fetchPoison := c.fetchPoison, halted := c.halted
    idle := c.idle }

/-- The four slots of a hearth. -/
def hearthSlots (h : Nat) : List Nat := (List.range 4).map (4 * h + ·)

/-- The logic state and registers of a domain are lost; `keep` is its BANK_KEEP in RETAIN and 0 in OFF. -/
def Dev.loseLogic (d : Dev) (n keep : Nat) : Dev :=
  let banked := bitOf keep 0
  if 1 ≤ n && n ≤ 16 then
    let h := n - 1
    let d := d.each (hearthSlots h) fun d s => (d.dropHeld s).modCore s Core.sleep
    let d := { d with hearths := tabDel d.hearths h }
    d.resetPages (0x010 + h) (0x010 + h)
  else if 33 ≤ n && n ≤ 35 then
    ((d.dropHeld (64 + (n - 33))).setCore (64 + (n - 33)) Core.reset).resetPages (0x020 + (n - 33)) (0x020 + (n - 33))
  else if n = 52 then
    (d.resetPages 0x050 0x050).modStoker fun s => if banked then { s with pin := none } else Stoker.reset
  else if n = 53 then
    let again (j : FlashJob) : Bool := match j.job with | .reloc _ => true | _ => false
    ((d.resetPages 0x058 0x058).resetPages 0x060 0x061).modFlash fun f =>
      { Flash.reset with
        map := if banked then f.map else []
        due := ((f.jobs.filter again).map (·.region)).foldl setInsert f.due
        owed := f.owed }
  else if 54 ≤ n && n ≤ 56 then d.resetPages (0x062 + 2 * (n - 54)) (0x063 + 2 * (n - 54))
  else if n = 57 then
    let d := (d.resetPages 0x070 0x070).resetPages 0x078 0x078
    let d := if banked then d.resetPagesKeep 0x079 0x079 (fun k => k = regKey 0x079 0x020 || k = regKey 0x079 0x024)
      else d.resetPages 0x079 0x079
    let d := d.modPorts fun p => { Ports.reset with table := if banked then p.table else [] }
    let d := d.modAon fun a => { a with realigning := false }
    let d := (d.put Reg.CLOCKS.STATUS.LOCK 0).put Reg.CLOCKS.STATUS.FRAME_RUN 0
    let d := (d.put Reg.CLOCKS.STATUS.HOLDOVER 0).put Reg.CLOCKS.STATUS.WRONG_RATE 0
    (d.put Reg.CLOCKS.STATUS.REF_PRESENT 0).put Reg.CLOCKS.STATUS.REF_PPM 0
  else if 58 ≤ n && n ≤ 64 then
    let g := n - 57
    (d.resetPages (0x070 + g) (0x070 + g)).modPorts fun p =>
      { p.dropGroup g with stopped := tabDel p.stopped g }
  else if n = 65 then
    { d.resetPages 0x080 0x081 with link := Link.reset, attn := Attn.reset }
  else if n = 66 then
    let d := if bitOf keep 16 then d.resetPagesKeep 0x040 0x04F (fun k => decide (0x024 ≤ k % 0x1000) && decide (k % 0x1000 < 0x038))
      else d.resetPages 0x040 0x04F
    { d with hops := d.hops.filter (fun e => bitOf keep 16 && bitOf keep e.1) }
  else if n = 67 then
    { (if banked then d.resetPagesKeep 0x030 0x033 (fun _ => true) else d.resetPages 0x030 0x033) with
      router := Router.reset }
  else d

/-- Control memory is powered while any control core is ON (R27). With no control core ON, the banks that are not kept
are lost; with one of them lost, so is the journal, and the control cores start as after SYSRST_N (R403). -/
def Dev.settleCtrlMem (d : Dev) (off : Bool) : Dev :=
  if [33, 34, 35].any (fun n => d.domSt n = .on) then d
  else
    let keep := if off then 0 else tabGet 0 d.power.keep 33
    let d := d.each ((List.range 12).filter (fun b => !bitOf keep b)) fun d b => d.loseBank 33 b
    let d := { d with ctrl := { d.ctrl with serving := false, ready := false, selfcheck := false } }
    if keep % 0x1000 = 0xFFF then d
    else
      let d := { (d.resetPages 0x0A0 0x0A0) with loader := Loader.reset, ctrl := CtrlUnit.reset, cmds := [] }
      let d := d.put Reg.HEALTH.PATCH_SEQ.SEQ 0
      d.modAon fun a => { a with stage := if a.stage = .ready then .starting else a.stage }

/-- The supply of a domain falls to the retention level or is removed. DEDUCED: log 89. DESIGN CHOICE: log 81, 82. -/
def Dev.lower (d : Dev) (n : Nat) (off : Bool) : Dev :=
  let keep := if off then 0 else tabGet 0 d.power.keep n
  let d := d.loseLogic n keep
  let d := if n = 33 then d else d.each ((domBanks n).filter (fun b => !bitOf keep b)) fun d b => d.loseBank n b
  d.setDom n (if off then .off else .retain)

/-! What a domain brings (R299, R402 to R404, R443). -/

/-- The pad group of a domain (R387). -/
def padGroup (n : Nat) : Option Nat :=
  if 53 ≤ n && n ≤ 56 then some (n - 53) else if 57 ≤ n && n ≤ 64 then some (4 + (n - 57))
  else if n = 65 then some 12 else none

/-- The domain of a pad group. -/
def padDom (g : Nat) : Nat := if g < 4 then 53 + g else if g < 12 then 57 + (g - 4) else 65

/-- A pair that returns to a mounted flash is trained before its first transfer, once its pads are released (R321,
R404). -/
def Dev.pairReturns (d : Dev) (p : Nat) : Dev :=
  if d.pairOn p && (d.get Reg.FLASH.STATUS.MOUNT = 2 || d.get Reg.FLASH.STATUS.MOUNT = 3) then d.retrainPair p else d

/-- A pad group is released. -/
def Dev.padFree (d : Dev) (g : Nat) : Dev :=
  let was := d.power.held.contains g
  let d := d.modPower fun p => { p with held := setErase p.held g, release := setErase p.release g }
  if was && decide (g < 4) then d.pairReturns g else d

/-- A hearth takes the cores of the retirement map, which AON holds (R443, R444). -/
def Dev.loadMap (d : Dev) (h : Nat) : Dev :=
  let d := match tabFind d.health.cores h with | some v => d.regSet (Reg.HEARTH.CORES.FOLDS.key h 0) v | none => d
  let d := match tabFind d.health.slotmap h with | some v => d.regSet (Reg.HEARTH.SLOTMAP.CORE0.key h 0) v | none => d
  d.each (hearthSlots h) Dev.settlePair

/-- A mount that is not asked for by a command begins (R299). -/
def Dev.beginAutoMount (d : Dev) : Dev :=
  (d.put Reg.FLASH.STATUS.MOUNT 1).modFlash fun f => { f with autoMount := true }

/-- BOOTSEL asks for a boot from flash (R424). -/
def Dev.bootsFlash (d : Dev) : Bool := d.aon.bootsel = 1 || d.aon.bootsel = 2

/-- A domain is ON. `vio` is the level found on its I/O rail, for a FLASH or PORTS domain. -/
def Dev.gain (d : Dev) (n vio : Nat) : Dev :=
  let d := d.setDom n .on
  let free := match padGroup n with | some g => d.power.release.contains g | none => false
  let d := match padGroup n with
    | some g =>
      let d := d.modPower fun p => { p with railLost := setErase p.railLost g }
      if free && 4 ≤ g then d.padFree g else d
    | none => d
  if 1 ≤ n && n ≤ 16 then d.loadMap (n - 1)
  else if 33 ≤ n && n ≤ 35 then d.wipeCore (64 + (n - 33)) { Core.reset with ps := 0xC00, run := .running }
  else if 53 ≤ n && n ≤ 56 then
    let p := n - 53
    let d := (d.putAt Reg.FCH.STATUS.VIO (2 * p) 0 vio).putAt Reg.FCH.STATUS.VIO (2 * p + 1) 0 vio
    if p = 0 then
      let returns := match d.power.exit with | some x => x.request || x.wake | none => false
      let d := if free then d.padFree p else d
      if d.aon.stage = .ready || returns || (d.bootsFlash && d.ctrl.serving) then d.beginAutoMount else d
    else if free then d.padFree p
    else d.pairReturns p
  else if 57 ≤ n && n ≤ 64 then d.putAt Reg.PORTS.GSTAT.VIO (n - 57) 0 vio
  else if n = 65 then d.put Reg.HOSTLINK.STATUS.STATE 1
  else d

/-! RESULT (R393, R395, R396). -/

/-- POWER.RESULT is written. DESIGN CHOICE: log 85. -/
def Dev.powerResult (d : Dev) (status reason stage : Nat) (late : Bool) : Dev :=
  let d := (d.put Reg.POWER.RESULT.STATUS status).put Reg.POWER.RESULT.REASON reason
  let d := (d.put Reg.POWER.RESULT.STAGE stage).put Reg.POWER.RESULT.ABORT_LATE (b2n late)
  d.raise 0x090 0

/-! Requests (R392, R393). -/

/-- The code of a domain in REQ. -/
def Dev.reqCode (d : Dev) (n : Nat) : Nat :=
  bitsOf (d.regGet (regKey 0x090 (0x044 + 4 * (n / 14)))).toNat (2 * (n % 14) + 1) (2 * (n % 14))

/-- The domains that requests act on: all but AON, the spares and the control core that holds SPARE. -/
def Dev.reqDoms (d : Dev) : List Nat :=
  (List.range 68).filter fun n => n ≠ 0 && !(17 ≤ n && n ≤ 32) && (!(33 ≤ n && n ≤ 35) || d.ctrlDoms.contains n)

/-- The 0x01 STATE check. -/
def Dev.reqStateBad (d : Dev) : Bool :=
  let codes := (List.range 68).map d.reqCode
  (codes.any (· = 0) && codes.any (fun c => c = 1 || c = 2))
    || d.reqCode 0 = 1 || d.reqCode 0 = 2
    || (List.range 16).any (fun h => d.reqCode (17 + h) ≠ 3)
    || d.reqDoms.any (fun n => d.domSt n = .off && d.reqCode n = 1)
    || d.reqCode 33 ≠ d.reqCode 34 || d.reqCode 34 ≠ d.reqCode 35

/-- Domains of an entry that run every stage: those that are ON, and the spare of each hearth among them. -/
def Dev.entryDoms (d : Dev) : List (Nat × Bool) :=
  let own := (d.reqDoms.filter (fun n => d.domSt n = .on && (d.reqCode n = 1 || d.reqCode n = 2))).map
    (fun n => (n, decide (d.reqCode n = 2)))
  own ++ (own.filter (fun e => e.1 ≤ 16 && d.domSt (16 + e.1) = .on)).map (fun e => (16 + e.1, e.2))

/-- Domains of an entry in RETAIN that are given OFF. -/
def Dev.entryLower (d : Dev) : List Nat :=
  let own := d.reqDoms.filter (fun n => d.domSt n = .retain && d.reqCode n = 2)
  own ++ (own.filter (fun n => n ≤ 16 && d.domSt (16 + n) = .retain)).map (16 + ·)

/-- The 0x02 ORDER check: a domain that stays ON needs one that leaves. -/
def Dev.reqOrderBad (d : Dev) (l : List Nat) : Bool :=
  ((List.range 68).filter (fun m => d.domSt m = .on && !l.contains m)).any (fun m => (d.needs m).any l.contains)

/-- The 0x03 STREAMS check. DEDUCED: log 88. -/
def Dev.reqStreamsBad (d : Dev) (l : List Nat) : Bool :=
  d.streams.any (fun s => s.live && (l.contains domStoker || l.contains (domHearth (s.owner / 4))))

/-- The 0x05 BARRIER check. -/
def Dev.reqBarrierBad (d : Dev) (l : List Nat) : Bool :=
  d.programs.any fun s => l.contains (domHearth (s / 4)) &&
    (d.group s).any (fun t => d.domSt (domHearth (t / 4)) = .on && !l.contains (domHearth (t / 4)))

/-- An entry that performs stage 6 only begins there. -/
def Dev.startEntry (d : Dev) (doms : List (Nat × Bool)) (low : List Nat) : Dev :=
  d.modPower fun p =>
    { p with entry := some ⟨doms, low, if doms.isEmpty then 6 else 1, 0, false, false, none, false, [], false⟩ }

/-- POWER.DOMAIN_REQ.GO. DESIGN CHOICE: log 85. -/
def Dev.powerGo (d : Dev) : Dev :=
  let d := d.pilotStart
  let p := d.power
  let leave := d.entryDoms.map (·.1)
  let ups := d.reqDoms.filter (fun n => d.reqCode n = 0)
  if p.entry.isSome || p.exit.isSome || p.bankInit.isSome then d.powerResult 3 0x04 0 false
  else if d.reqStateBad then d.powerResult 3 0x01 0 false
  else if d.reqOrderBad leave then d.powerResult 3 0x02 0 false
  else if d.reqStreamsBad leave then d.powerResult 3 0x03 0 false
  else if d.reqBarrierBad leave then d.powerResult 3 0x05 0 false
  else if !(leave.isEmpty && d.entryLower.isEmpty) then d.startEntry d.entryDoms d.entryLower
  else if (d.notOn (d.implied ups)).isEmpty then d.powerResult 1 0 0 false
  else d.startExit (d.implied ups) true false

/-- POWER.DOMAIN_REQ.ABORT (R395). -/
def Dev.powerAbort (d : Dev) : Dev :=
  d.modPower fun p =>
    match p.entry with
    | some e => { p with entry := some (if e.stage < 5 || e.undoing then { e with aborted := true } else { e with late := true }) }
    | none => p

/-! Entry (R394 to R396). -/

/-- Start the exits of wakes that waited. DESIGN CHOICE: log 87. -/
def Dev.startQueued (d : Dev) : Dev :=
  let l := d.notOn (d.implied d.power.queued)
  let d := d.modPower fun p => { p with queued := [] }
  if l.isEmpty then d else d.startExit l false true

/-- An abandoned entry has undone its stages. -/
def Dev.entryUndone (d : Dev) (e : EntryRec) : Dev :=
  let d := d.modPower fun p => { p with entry := none }
  let d :=
    if e.aborted then d.powerResult 2 0 e.done false
    else
      let d := d.powerResult 4 (e.abandoned.getD 0x06) e.done false
      let d := d.raise 0x090 1
      if e.abandoned = some 0x06 then d.raise 0x090 2 else d
  d.startQueued

/-- Begin to undo the completed stages, or end at once where none is completed. -/
def Dev.entryUndo (d : Dev) (e : EntryRec) : Dev :=
  if e.done = 0 then d.entryUndone e
  else d.modPower fun p => { p with entry := some { e with undoing := true, stage := e.done } }

/-- The frame clock runs. -/
def Dev.clockRuns (d : Dev) : Bool := d.isOn (domPorts 0) && d.flag Reg.CLOCKS.STATUS.FRAME_RUN

/-- An entry takes a control core or FLASH0 out of ON: a health record is written at stage 2 (R443). -/
def leavesRecord (l : List Nat) : Bool := l.any fun n => n = domFlash 0 || decide (33 ≤ n) && decide (n ≤ 35)

/-- Stage 2 has ended for every domain: runs have ended, or go on where the entry is abandoned at the abort point; a
bank initialisation of the entry has completed, the lanes of PORTS have stopped at a boundary, and the host has its
CPLs. DEDUCED: log 88. -/
def Dev.drained (d : Dev) (e : EntryRec) : Bool :=
  let l := e.doms.map (·.1)
  (e.aborted || e.abandoned.isSome
      || l.all (fun n => !(1 ≤ n && n ≤ 16) || ((hearthSlots (n - 1)).all (fun s => (d.core s).run = .dormant) && (d.hearth (n - 1)).awaiting.isNone)))
    && (match d.power.bankInit with | some (n, _) => !l.contains n | none => true)
    && (l.all (fun n => !(57 ≤ n && n ≤ 64)) || e.past || !d.clockRuns)
    && (!l.contains domLink || (d.link.regQ ++ d.link.memQ).all fun r => r.drop || r.posted)
    && (!l.contains (domFlash 0) || !d.cmds.any (fun c => 0x30 ≤ c.typ && c.typ ≤ 0x36 && c.stage = .work))
    && (!leavesRecord l || !d.served || !d.health.recDue || !d.isOn (domFlash 0) || d.get Reg.FLASH.STATUS.MOUNT ≠ 2)
    && d.flash.busy.all (fun x => !l.contains (domFlash (lunChan x.1 / 2)) && !l.contains (domFlash 0))

/-- The pads of the domains of an entry are held, those that are not held already (R404). -/
def Dev.holdPads (d : Dev) (l : List Nat) : Dev :=
  let new := (l.filterMap padGroup).filter fun g => !d.power.held.contains g
  d.modPower fun p =>
    { p with held := new.foldl setInsert p.held, entry := p.entry.map fun e => { e with pads := new } }

/-- The pads that stage 4 of this entry held are released again (R396). -/
def Dev.unholdPads (d : Dev) (e : EntryRec) : Dev :=
  d.modPower fun p => { p with held := p.held.filter (fun g => !e.pads.contains g) }

/-- Stage 6 has ended: the domains are in their states. -/
def Dev.entryDone (d : Dev) (e : EntryRec) : Dev :=
  let d := d.each e.lower fun d n => d.lower n true
  let d := e.doms.foldl (fun d x => d.lower x.1 x.2) d
  let all := e.doms ++ e.lower.map (fun n => (n, true))
  let d := if all.any (fun x => 33 ≤ x.1 && x.1 ≤ 35) then
      d.settleCtrlMem (all.any (fun x => 33 ≤ x.1 && x.1 ≤ 35 && x.2)) else d
  let d := d.modPower fun p => { p with entry := none }
  (d.powerResult 1 0 6 e.late).startQueued

/-- A stage of the entry in progress has ended for every domain. -/
def Dev.entryStageEnd (d : Dev) : Dev :=
  match d.power.entry with
  | none => d
  | some e =>
    let l := e.doms.map (·.1)
    if e.undoing then
      let d := if e.stage = 4 then d.unholdPads e else d
      if e.stage ≤ 1 then d.entryUndone e
      else d.modPower fun p => { p with entry := some { e with stage := e.stage - 1 } }
    else if e.stage = 2 && !d.drained e then d
    else if e.stage ≤ 4 && (e.aborted || e.abandoned.isSome) then d.entryUndo { e with done := e.stage }
    else if 6 ≤ e.stage then d.entryDone e
    else
      let d := if e.stage = 2 && l.contains domLink then d.failMastered else d
      let d := if e.stage = 1 && leavesRecord l then d.modHealth fun x => { x with recDue := true } else d
      let d := if e.stage = 3 then d.holdPads l else d
      let d := d.modPower fun p => { p with entry := p.entry.map fun e => { e with stage := e.stage + 1, done := e.stage } }
      if e.stage = 4 then d.represent d.router.pendS else d

/-- Stage 2 has not ended within DRAIN_TMO (R396). -/
def Dev.drainTimeout (d : Dev) : Dev :=
  match d.power.entry with
  | some e =>
    if e.stage = 2 && !e.undoing then
      d.entryUndo { e with abandoned := some (e.abandoned.getD 0x07), done := 1 }
    else d
  | none => d

/-! Exit (R402). -/

/-- A domain of the exit in progress has reached ON. DEDUCED: log 44. DESIGN CHOICE: log 45. -/
def Dev.domainOn (d : Dev) (n vio : Nat) : Dev :=
  match d.power.exit with
  | none => d
  | some x =>
    if x.todo.contains n && (d.needs n).all (fun m => d.domSt m = .on) then
      let d := d.gain n vio
      let todo := setErase x.todo n
      if todo.isEmpty then
        let d := d.modPower fun p => { p with exit := none }
        let d := if x.request then d.powerResult 1 0 (d.get Reg.POWER.RESULT.STAGE) false else d
        if x.wake then d.raise 0x090 2 else d
      else d.modPower fun p => { p with exit := some { x with todo := todo } }
    else d

/-! Wakes (R397 to R401). -/

/-- The domains of a wake set that a wake may turn ON. DESIGN CHOICE: log 84. -/
def Dev.wakeSet (d : Dev) (j : Nat) : List Nat :=
  let m (n : Nat) : Bool :=
    bitOf (d.getAt (if n < 28 then Reg.POWER.WAKE_SET0.MASK else if n < 56 then Reg.POWER.WAKE_SET1.MASK
      else Reg.POWER.WAKE_SET2.MASK) 0 j) (n % 28)
  d.reqDoms.filter m

def Dev.wakeEn (d : Dev) (s : Nat) : Bool :=
  if s < 9 then d.getAt Reg.POWER.WAKE_CFG.EN 0 s = 1 else d.getAt Reg.POWER.WAKE_CFG9.EN 0 (s - 9) = 1
def Dev.wakeJ (d : Dev) (s : Nat) : Nat :=
  if s < 9 then d.getAt Reg.POWER.WAKE_CFG.SET 0 s else d.getAt Reg.POWER.WAKE_CFG9.SET 0 (s - 9)

/-- The armed tick compare is reached. DEDUCED: log 83. -/
def Dev.tickReached (d : Dev) : Bool :=
  match d.power.tickCmp with | some v => decide (v ≤ d.aon.ticks.toNat) | none => false

/-- A source fires, given the level at its pin. DESIGN CHOICE: log 84. -/
def Dev.wakeFires (d : Dev) (s : Nat) (level : Bool) : Bool :=
  d.wakeEn s &&
    (if s < 9 then d.getAt Reg.POWER.WAKE_CFG.EDGE 0 s = 1 || b2n level = d.getAt Reg.POWER.WAKE_CFG.POL 0 s
     else if s = 9 then !d.isOn domLink
     else if s = 12 then d.tickReached
     else !d.isOn (domPorts 0))

/-- Several sources fire in one beat. DESIGN CHOICE: log 84. -/
def Dev.wakeSources (d : Dev) (src levels : Nat) : Dev :=
  let l := (bitList src 13).filter (fun s => d.wakeFires s (bitOf levels s))
  match l with
  | [] => d
  | s :: t =>
    let d := if l.contains 12 then d.modPower fun p => { p with tickCmp := none } else d
    d.wakeFire s (b2n (bitOf levels s)) (d.wakeJ s) (!t.isEmpty) (l.foldl (fun a x => setUnion a (d.wakeSet (d.wakeJ x))) [])

/-- A write of TICK_CMP_LO arms source 12 (R398). DEDUCED: log 83. -/
def Dev.tickArm (d : Dev) (v : DW) : Dev :=
  let d := d.put Reg.POWER.TICK_CMP_LO.CMP v.toNat
  d.modPower fun p => { p with tickCmp := some (v.toNat + d.get Reg.POWER.TICK_CMP_HI.CMP * 2 ^ 28) }

/-! Cold banks (R391). -/

/-- A write of POWER.BANK_INIT. DESIGN CHOICE: log 86. -/
def Dev.bankInitWrite (d : Dev) (v : DW) : Dev :=
  let dom := bitsOf v.toNat 22 16
  let bank := bitsOf v.toNat 4 0
  let d := (d.put Reg.POWER.BANK_INIT.DOMAIN dom).put Reg.POWER.BANK_INIT.BANK bank
  if !bitOf v.toNat 27 || d.power.bankInit.isSome then d
  else
  let d := d.pilotStart
  if (17 ≤ dom && dom ≤ 32) || 68 ≤ dom || keepBits dom ≤ bank || !d.memOn dom then d.put Reg.POWER.BANK_INIT.REFUSED 1
  else
    let d := d.put Reg.POWER.BANK_INIT.REFUSED 0
    if (bankRange dom bank).isSome && !d.warm.contains (bankKey dom bank) then
      d.modPower fun p => { p with bankInit := some (dom, bank) }
    else d.raise 0x090 3

/-- The bank initialisation in progress completes. DESIGN CHOICE: log 86. -/
def Dev.bankInitEnd (d : Dev) : Dev :=
  match d.power.bankInit with
  | some (dom, bank) => ((d.modPower fun p => { p with bankInit := none }).initBank dom bank).raise 0x090 3
  | none => d

/-! Pads (R404). -/

/-- A write of POWER.PAD_RELEASE: a group whose domain is ON and whose hold acts is released, any other is armed. -/
def Dev.padWrite (d : Dev) (v : DW) : Dev :=
  d.each (bitList v.toNat 13) fun d g =>
    let inEntry := match d.power.entry with | some e => e.doms.any (fun x => x.1 = padDom g) | none => false
    if d.domSt (padDom g) = .on && !inEntry then d.padFree g
    else d.modPower fun p => { p with release := setInsert p.release g }

/-! The commands. -/

/-- DESIGN CHOICE: log 28. -/
def execGo (v : DW) (s : State) : Host.Outcome State Fault Refusal :=
  .next (s.onDev fun d =>
    ((d.iff (bitOf v.toNat 1) Dev.powerAbort).iff (bitOf v.toNat 0) Dev.powerGo).settle)

def execPowerAbort (s : State) : Host.Outcome State Fault Refusal := .next (s.onDev fun d => d.powerAbort.settle)

/-- DESIGN CHOICE: log 87. -/
def execWake (sources levels : BitVec 13) (s : State) : Host.Outcome State Fault Refusal :=
  .next (s.onDev fun d => (d.wakeSources sources.toNat levels.toNat).settle)

/-- DEDUCED: log 83. -/
def execTickCompare (s : State) : Host.Outcome State Fault Refusal :=
  .next (s.onDev fun d => (d.wakeSources 0x1000 0).settle)

/-- DEDUCED: log 83. -/
def execTickCmpLo (v : DW) (s : State) : Host.Outcome State Fault Refusal := .next (s.onDev fun d => (d.tickArm v).settle)

/-- DESIGN CHOICE: log 45. -/
def execDomainOn (n : BitVec 7) (vio : BitVec 2) (s : State) : Host.Outcome State Fault Refusal :=
  .next (s.onDev fun d => (d.domainOn n.toNat vio.toNat).settle)

def execBankInit (v : DW) (s : State) : Host.Outcome State Fault Refusal :=
  .next (s.onDev fun d => (d.bankInitWrite v).settle)

def execBankInitDone (s : State) : Host.Outcome State Fault Refusal := .next (s.onDev fun d => d.bankInitEnd.settle)

def execPadRelease (v : DW) (s : State) : Host.Outcome State Fault Refusal :=
  .next (s.onDev fun d => (d.padWrite v).settle)

end Sys2Proof.Machine
end

