-- ==== Sys2Proof/Machine/Faults.lean ====
section
/-! DEFINITION. Steps and budgets, the retry ladder, control-core roles, the scrubber, the watch point, the finish
ceiling and barriers (R46, R55, R68, R70, R163, R176 to R191, R194, R215). -/

namespace Sys2Proof.Machine

/-! Steps (R55, R152, R167). -/

/-- A phase that exceeds its declared budget is counted once (R55, R63). -/
def Dev.checkBudget (d : Dev) (slot : Nat) : Dev :=
  match d.loader.run with
  | none => d
  | some i =>
    let c := d.core slot
    let k := slot * 8 + c.phase
    if c.phaseSteps ≤ tabGet 0 i.budgets (c.phase * 64 + slot) || d.loader.overBudget.contains k then d
    else
      ((d.modLoader fun l => { l with overBudget := setInsert l.overBudget k }).countS Reg.IMAGE.BUDGET_CNT.COUNT
        Reg.IMAGE.BUDGET_CNT.OVF 0 0).raise 0x0A0 5

/-- A core spends steps, some of them penalty steps. -/
def Dev.addSteps (d : Dev) (core steps pen : Nat) : Dev :=
  let d := d.modCore core fun c =>
    { c with steps := c.steps + steps, pen := c.pen + pen, phaseSteps := c.phaseSteps + steps }
  if core < 64 then d.checkBudget core else d

/-! The health state follows the cores of a hearth (R179, R440, R443). -/

/-- SWEEP_REASON bits become set; one SWEEP event for those set together (R440, R455). -/
def Dev.sweepSet (d : Dev) (bits : Nat) : Dev :=
  let old := d.get Reg.HEALTH.SWEEP_REASON.REASON
  if old ||| bits = old then d else (d.put Reg.HEALTH.SWEEP_REASON.REASON (old ||| bits)).raise 0x003 0

/-- SPARE_MAP, FOLD_LO, FOLD_HI and the counts of HEALTH.STATUS. -/
def Dev.healthCores (d : Dev) (h : Nat) : Dev :=
  let used := d.getAt Reg.HEARTH.CORES.SPARE_USED h 0
  let folds := d.getAt Reg.HEARTH.CORES.FOLDS h 0
  let d := d.put Reg.HEALTH.SPARE_MAP.USED (withBits (d.get Reg.HEALTH.SPARE_MAP.USED) h h used)
  let d :=
    if h < 14 then d.put Reg.HEALTH.FOLD_LO.FOLDS (withBits (d.get Reg.HEALTH.FOLD_LO.FOLDS) (2 * h + 1) (2 * h) folds)
    else d.put Reg.HEALTH.FOLD_HI.FOLDS
      (withBits (d.get Reg.HEALTH.FOLD_HI.FOLDS) (2 * (h - 14) + 1) (2 * (h - 14)) folds)
  let spares := (bitList (d.get Reg.HEALTH.SPARE_MAP.USED) 16).length
  let all := ((List.range 14).map (fun i => bitsOf (d.get Reg.HEALTH.FOLD_LO.FOLDS) (2 * i + 1) (2 * i))).sum
    + bitsOf (d.get Reg.HEALTH.FOLD_HI.FOLDS) 1 0 + bitsOf (d.get Reg.HEALTH.FOLD_HI.FOLDS) 3 2
  let d := (d.put Reg.HEALTH.STATUS.SPARES spares).put Reg.HEALTH.STATUS.FOLDS all
  d.sweepSet (b2n (decide (all ≠ 0)) + 2 * b2n (decide (8 ≤ spares)))

/-- The retirement map in AON takes the hearth's map; a record is due within 1 s. -/
def Dev.keepMap (d : Dev) (h : Nat) : Dev :=
  let d := d.modHealth fun x =>
    { x with cores := tabSet x.cores h (d.regGet (Reg.HEARTH.CORES.FOLDS.key h 0))
             slotmap := tabSet x.slotmap h (d.regGet (Reg.HEARTH.SLOTMAP.CORE0.key h 0)), recDue := true }
  d.healthCores h

/-! The cores of a hearth (R183, R201). -/

def Dev.coreSt (d : Dev) (h k : Nat) : Nat := bitsOf (d.getAt Reg.HEARTH.CORES.STATE h 0) (2 * k + 1) (2 * k)
def Dev.setCoreSt (d : Dev) (h k v : Nat) : Dev :=
  d.putAt Reg.HEARTH.CORES.STATE h 0 (withBits (d.getAt Reg.HEARTH.CORES.STATE h 0) (2 * k + 1) (2 * k) v)

/-- SHARED marks the slots whose core carries two. -/
def Dev.syncShared (d : Dev) (h : Nat) : Dev :=
  d.putAt Reg.HEARTH.SLOTMAP.SHARED h 0
    ((((List.range 4).filter (fun i => (d.mate (4 * h + i)).isSome)).map (fun i => 2 ^ i)).sum)

/-- The slot that waits for the spare keeps its core out of the choice. -/
def Dev.awaitingCore (d : Dev) (h : Nat) : Nat := match (d.hearth h).awaiting with | some s => d.coreOf s | none => 7

/-- The surviving core that takes a slot of a failed core: it carries one slot and has the lowest number. -/
def Dev.foldTarget (d : Dev) (h : Nat) : Option Nat :=
  (List.range 5).find? (fun k => d.coreSt h k = 1 && k ≠ d.awaitingCore h)

/-- One slot of a failed core joins a surviving core, or is left without one (R183, R186). -/
def Dev.foldSlot (d : Dev) (slot old : Nat) : Dev :=
  let h := slot / 4
  match d.foldTarget h with
  | some k => ((d.setCoreOf slot k).setCoreSt h k 2).lastFault slot 6 old
  | none =>
    let d := (d.setCoreOf slot 7).putAt Reg.HEARTH.CORES.BEYOND h 0 1
    ((d.modCore slot fun c => { c with run := if c.run = .dormant then .dormant else .stopped, bundle := [] }).lastFault
      slot 7 old).raise (0x010 + h) 4

/-- Level 3 and 4 of the ladder for a physical core and its slots. -/
def Dev.foldCore (d : Dev) (h k : Nat) : Dev :=
  let slots := (hearthSlots h).filter (fun s => d.coreOf s = k)
  let d := (d.countS Reg.HEARTH.PERSIST.COUNT Reg.HEARTH.PERSIST.OVF h 0).raise (0x010 + h) 1
  let d := (d.setCoreSt h k 3).iff (k = 4) fun d => d.lower (domSpare h) true
  let d := d.each slots fun d s => d.foldSlot s k
  let d := d.syncShared h
  let d :=
    if slots.any (fun s => d.coreOf s ≠ 7) then
      let d := d.putAt Reg.HEARTH.CORES.FOLDS h 0 (Nat.min (d.getAt Reg.HEARTH.CORES.FOLDS h 0 + 1) 2)
      (d.iff (decide (d.mode ≤ 1)) (fun d => d.flare h)).raise (0x010 + h) 3
    else d
  let d := d.each slots fun d s =>
    if d.coreOf s = 7 then d
    else
      match (d.core s).run with
      | .running => d.restartSlot s
      | .barrier _ => d.restartSlot s
      | _ => d.settlePair s
  d.keepMap h

/-- A spare that is powered while its hearth is in an entry follows the hearth into it (R182, R406). -/
def Dev.joinEntry (d : Dev) (h : Nat) : Dev :=
  d.modPower fun p => { p with entry := p.entry.map fun e =>
    { e with doms := e.doms ++ (e.doms.filter (·.1 = domHearth h)).map fun x => (domSpare h, x.2) } }

/-- The core that runs a slot has a persistent fault (R176, R179, R183). DEDUCED: log 154. -/
def Dev.persistent (d : Dev) (slot : Nat) : Dev :=
  let h := slot / 4
  let d := d.dropHeld slot
  if d.getAt Reg.HEARTH.CORES.SPARE_USED h 0 = 0 && (d.hearth h).awaiting.isNone then
    let d := d.modCore slot fun c => { c with run := .stopped, bundle := [] }
    let d := ((d.flareGroup slot).setDom (domSpare h) .on).joinEntry h
    d.modHearth h fun x => { x with awaiting := some slot }
  else d.foldCore h (d.coreOf slot)

/-- The spare is ready: the slot restarts on it, and the failed core is retired (R179). DESIGN CHOICE: log 90. -/
def Dev.spareIn (d : Dev) (h : Nat) : Dev :=
  match (d.hearth h).awaiting with
  | none => d
  | some slot =>
    let k := d.coreOf slot
    let stall := d.getAt Reg.HEARTH.LAST_FAULT.KIND h 0 = 3 && d.getAt Reg.HEARTH.LAST_FAULT.CORE h 0 = k
      && d.getAt Reg.HEARTH.LAST_FAULT.SLOT h 0 = slot % 4
    let d := d.modHearth h fun x => { x with awaiting := none }
    let d := ((d.setCoreSt h k 3).setCoreSt h 4 1).setCoreOf slot 4
    let d := d.putAt Reg.HEARTH.CORES.SPARE_USED h 0 1
    let d := d.countS Reg.HEARTH.PERSIST.COUNT Reg.HEARTH.PERSIST.OVF h 0
    let d := if stall then d else d.lastFault slot 2 k
    let d := d.raiseMask (0x010 + h) 6
    let d := if (d.core slot).run = .stopped then d.restartSlot slot else d
    d.keepMap h

/-! Control cores (R190, R191, R448, R455). -/

def Dev.setActive (d : Dev) (k : Nat) : Dev := d.put Reg.HEALTH.CTRL.ACTIVE k
def Dev.setStandby (d : Dev) (k : Nat) : Dev := d.put Reg.HEALTH.CTRL.STANDBY k

/-- No core holds SPARE any more: the sweep request is raised. -/
def Dev.loseSpareRole (d : Dev) : Dev := (d.put Reg.HEALTH.CTRL.SPARE 3).sweepSet 4

/-- A control core's role changed. -/
def Dev.roleEvent (d : Dev) (k : Nat) : Dev := d.raise (0x020 + k) 2

/-- SPARE, where it is held, is powered and takes STANDBY; it is not ready yet. -/
def Dev.spareToStandby (d : Dev) : Dev :=
  let k := d.spareCtrl
  let d := { d with ctrl := { d.ctrl with ready := false, selfcheck := false } }
  if k < 3 then
    let d := if d.domSt (domCtrl k) = .on then d else d.gain (domCtrl k) 0
    ((d.setStandby k).loseSpareRole).roleEvent k
  else d.setStandby 3

/-- A control core is retired: it is never powered again. -/
def Dev.retireCtrl (d : Dev) (k : Nat) : Dev :=
  let d := d.raise (0x020 + k) 1
  let d := d.put Reg.HEALTH.CTRL.RETIRED (d.get Reg.HEALTH.CTRL.RETIRED ||| 2 ^ k)
  (d.modHealth fun x => { x with recDue := true }).lower (domCtrl k) true

/-- The patch set that PATCH_LOAD accepted is in force: the command completes, and FLOOR fuses are blown where RAISE
asks for it (R448). -/
def Dev.patchTaken (d : Dev) : Dev :=
  match d.ctrl.patch with
  | none => d
  | some (p, hop, tag) =>
    let d := { d with ctrl := { d.ctrl with patch := none, handover := false, running := some p } }
    let d := (d.put Reg.HEALTH.PATCH_SEQ.SEQ p.seq).raise 0x003 3
    let d := match d.cmd hop tag with | some c => d.endCmd { c with committed := true } .done 0 p.seq | none => d
    if p.raise && decide (d.get Reg.FUSE.FLOOR.FLOOR < p.level) && d.aon.blow.isNone then
      (d.modAon fun a => { a with blow := some (.floor p.level) }).put Reg.FUSE.STATUS.BLOWING 1
    else d

/-- STANDBY takes ACTIVE after a fault (R190, R191). -/
def Dev.takeover (d : Dev) : Dev :=
  let k := d.standby
  if d.active = 3 && k < 3 && d.ctrl.ready then
    let d := { (d.setActive k) with ctrl := { d.ctrl with serving := true } }
    let d := d.roleEvent k
    let d := if d.ctrl.handover then d.patchTaken else d
    d.spareToStandby
  else d

/-- A control core has a persistent fault. -/
def Dev.ctrlPersistent (d : Dev) (k : Nat) : Dev :=
  let d := d.dropHeld (64 + k)
  if d.active = k then
    (({ d with ctrl := { d.ctrl with serving := false } }).retireCtrl k).setActive 3
  else if d.standby = k then
    let d := match d.ctrl.patch with
      | some (_, hop, tag) => (match d.cmd hop tag with | some c => d.failCmd 0x06 c | none => d)
      | none => d
    (d.retireCtrl k).spareToStandby
  else if d.spareCtrl = k then
    ({ d with ctrl := { d.ctrl with selfcheck := false } }.retireCtrl k).loseSpareRole
  else d

/-- STANDBY has finished following the journal (R191). -/
def Dev.standbyIsReady (d : Dev) : Dev :=
  if d.standby < 3 && d.isOn (domCtrl d.standby) && d.ctrl.patch.isNone then
    { d with ctrl := { d.ctrl with ready := true } }
  else d

/-- The 10 ms self-check of SPARE begins. DEDUCED: log 89. -/
def Dev.selfcheckStart (d : Dev) : Dev :=
  let k := d.spareCtrl
  if k < 3 && d.served && !d.ctrl.selfcheck && d.domSt (domCtrl k) ≠ .on then
    let d := d.gain (domCtrl k) 0
    { d with ctrl := { d.ctrl with selfcheck := true } }
  else d

/-- The self-check ends. -/
def Dev.selfcheckEnd (d : Dev) (bad : Bool) : Dev :=
  let k := d.spareCtrl
  if d.ctrl.selfcheck && k < 3 then
    let d := { d with ctrl := { d.ctrl with selfcheck := false } }
    let d := d.raise (0x020 + k) 3
    if bad then (d.retireCtrl k).loseSpareRole else d.lower (domCtrl k) true
  else d

/-! Stalls (R188). -/

/-- A core issues or waits at a barrier: what the draught monitor watches. -/
def Dev.watched (d : Dev) (core : Nat) : Bool :=
  match (d.core core).run with
  | .running => !(d.core core).halted
  | .barrier _ => !(d.core core).halted
  | _ => false

/-- The draught monitor fires. DEDUCED: log 154. DESIGN CHOICE: log 90, 162. -/
def Dev.stallFires (d : Dev) (core : Nat) : Dev :=
  if !d.watched core then d
  else if core < 64 then
    let h := core / 4
    let d := d.countS Reg.HEARTH.STALL.COUNT Reg.HEARTH.STALL.OVF h 0
    ((d.lastFault core 3 (d.coreOf core)).raise (0x010 + h) 5).persistent core
  else d.ctrlPersistent (core - 64)

/-! The scrubber (R194 to R196). -/

/-- The scrubber reads a word. -/
def Dev.scrubWord (d : Dev) (a : Nat) (found : WordFind) : Dev :=
  if d.isCold a then d
  else
    match d.tagAt a with
    | .poisoned => d
    | .good =>
      (match found with
       | .clean => d
       | .corrected => d.noteCorrected a
       | .uncorrectable => (d.setTag a .uncorrectable).readCode a)
    | _ => d.readCode a

/-! The frame's instants (R68, R70). -/

/-- A slot with a program that has not reached WAIT. A dormant slot is in no run. DEDUCED: log 158. -/
def Dev.notFinished (d : Dev) (slot : Nat) : Bool :=
  d.hasProgram slot && d.isOn (domHearth (slot / 4)) && (d.core slot).run ≠ .waiting && (d.core slot).run ≠ .dormant

/-- The watch point; FIXED mode has none. -/
def Dev.watch (d : Dev) : Dev :=
  if 1 < d.mode then d
  else
    d.each (List.range 16) fun d h =>
      if (hearthSlots h).any d.notFinished then (d.flare h).modHearth h fun x => { x with watchFired := true } else d

/-- The finish ceiling; FIXED mode has none. DEDUCED: log 158. -/
def Dev.ceiling (d : Dev) : Dev :=
  if 1 < d.mode then d
  else
    d.each ((List.range 64).filter fun s => d.notFinished s && !d.loader.late.contains s) fun d s =>
      let d := d.modLoader fun l => { l with late := setInsert l.late s }
      (d.countS Reg.IMAGE.SLOT_CNT.LATE Reg.IMAGE.SLOT_CNT.LATE_OVF 0 s).raise 0x0A0 4

/-! Barriers (R46, R48). -/

/-- The participants of a barrier as a mask, 0 where the image has no such barrier. -/
def Dev.barrierMask (d : Dev) (b : Nat) : Nat :=
  match d.loader.run with
  | some i => if 1 ≤ b && b < i.phases then (i.barriers[b - 1]?).getD 0 else 0
  | none => 0

/-- A participant resumes from a barrier: the next phase begins, and PHASE is raised. -/
def Dev.resumeFrom (d : Dev) (slot b : Nat) : Dev :=
  (d.modCore slot fun c => { c with run := .running, phase := b, phaseSteps := 0 }).firePriv slot 1

/-- A slot that resumes takes its core, unless the core runs the other slot it carries. -/
def Dev.takeCore (d before : Dev) (slot : Nat) : Dev :=
  match d.mate slot with
  | some m =>
    if (before.core m).run = .running && !(before.core m).parked then d.modCore slot fun c => { c with parked := true }
    else d.settlePair slot
  | none => d.settlePair slot

/-- The last participant has arrived at barrier b. -/
def Dev.barrierDone (d : Dev) (b : Nat) : Dev :=
  let slots := bitList (d.barrierMask b) 64
  if slots.isEmpty || d.loader.complete.contains b || !slots.all (fun s => (tabGet [] d.loader.arrived b).contains s) then d
  else
    let d := d.modLoader fun l => { l with complete := setInsert l.complete b }
    let go := slots.filter (fun s => (d.core s).run = .barrier b)
    let after := d.each go fun x s => x.resumeFrom s b
    after.each go fun x s => x.takeCore d s

/-! SLOT_EXCEPTION (R215). -/

/-- The item of a run that the monitor ended. DESIGN CHOICE: log 147. -/
def exceptionItem (slot : Nat) (r : List DW) : List DW :=
  let f (i : Nat) : Nat := ((r[i]?).getD 0#28).toNat
  [itemHeader 6 4 0x101 slot,
   BitVec.ofNat 28 (f 1 % 0x1000 * 2 ^ 16 + f 0 * 2 ^ 14 + f 2 * 2 ^ 12 + slot),
   BitVec.ofNat 28 (f 3), BitVec.ofNat 28 (f 4), BitVec.ofNat 28 (f 5)]

/-- The ACTIVE control core passes a record on; without room the item is discarded. DESIGN CHOICE: log 147. -/
def Dev.passReport (d : Dev) (slot : Nat) : Dev :=
  match (d.core slot).reports with
  | r :: rest =>
    if d.served then
      let d := d.modCore slot fun c => { c with reports := rest }
      (d.tryPush .hop4 (exceptionItem slot r)).getD d
    else d
  | [] => d

/-! The commands. -/

def execSpareReady (h : Fin 16) (s : State) : Host.Outcome State Fault Refusal :=
  .next (s.onDev fun d => (d.spareIn h.val).settle)

def execStall (core : CoreId) (s : State) : Host.Outcome State Fault Refusal :=
  .next (s.onDev fun d => (d.stallFires core.val).settle)

/-- DESIGN CHOICE: log 3. -/
def execWatchPoint (s : State) : Host.Outcome State Fault Refusal := .next (s.onDev fun d => d.watch.settle)

def execFinishCeiling (s : State) : Host.Outcome State Fault Refusal := .next (s.onDev fun d => d.ceiling.settle)

/-- DESIGN CHOICE: log 147. -/
def execSlotException (slot : Fin 64) (s : State) : Host.Outcome State Fault Refusal :=
  .next (s.onDev fun d => (d.passReport slot.val).settle)

def execSpareSelfcheck (s : State) : Host.Outcome State Fault Refusal := .next (s.onDev fun d => d.selfcheckStart.settle)

def execSelfcheckDone (persistent : Bool) (s : State) : Host.Outcome State Fault Refusal :=
  .next (s.onDev fun d => (d.selfcheckEnd persistent).settle)

def execStandbyReady (s : State) : Host.Outcome State Fault Refusal := .next (s.onDev fun d => d.standbyIsReady.settle)

end Sys2Proof.Machine
end

