-- ==== Sys2Proof/Machine/Image.lean ====
section
/-! DEFINITION. The firing image as a byte string, the clauses of the Wikokel contract, and the placing of an image
that passed them (R50 to R63, R71, R73, R78, R184, R185, R391). -/

namespace Sys2Proof.Machine

/-! Bytes (R9, R52). -/

/-- n bytes from an offset as a little-endian number. -/
def u (b : List Byte) (off n : Nat) : Nat := leNat ((b.drop off).take n)

/-- The values of a string of 32-bit containers. -/
def cont32s : List Byte → List Nat
  | a :: b :: c :: e :: t => leNat [a, b, c, e] :: cont32s t
  | _ => []

/-- The 28-bit values of a string of 32-bit containers. -/
def contDWs : List Byte → List DW
  | a :: b :: c :: e :: t => BitVec.ofNat 28 (leNat [a, b, c, e]) :: contDWs t
  | _ => []

/-- One bit of the CRC-32 of IEEE 802.3. -/
def crc32Bit (c : Nat) : Nat := if c % 2 = 1 then (c / 2) ^^^ 0xEDB88320 else c / 2

/-- One byte of it. -/
def crc32Byte (c : Nat) (b : Byte) : Nat := (List.range 8).foldl (fun c _ => ofValue c crc32Bit) (c ^^^ b.toNat)

def crc32Bytes : List Byte → Nat → Nat
  | [], c => c
  | b :: t, c => ofValue (crc32Byte c b) (crc32Bytes t)

def crc32 (l : List Byte) : BitVec 32 := ~~~(BitVec.ofNat 32 (crc32Bytes l 0xFFFFFFFF))

/-- A failure of a clause: reason, section index, slot (R63). -/
structure Rej where
  reason : Nat
  section_ : Nat
  slot : Nat
  deriving DecidableEq, Repr

def rejHeader (reason : Nat) : Rej := ⟨reason, 0xFFF, 0xFF⟩

/-- A failure where a condition holds. -/
def failIf (b : Bool) (r : Rej) : Option Rej := if b then some r else none

/-- A section of the table (R53). -/
structure ImgSec where
  idx : Nat
  typ : Nat
  slot : Nat
  flags : Nat
  off : Nat
  len : Nat
  param : Nat
  data : List Byte
  deriving DecidableEq, Repr

/-- The slot of a section as REJECT names it. -/
def ImgSec.sl (s : ImgSec) : Nat := if s.slot < 64 then s.slot else 0xFF

/-- The section table. -/
def imgSecs (b : List Byte) : List ImgSec :=
  (List.range (u b 0x0E 2)).map fun i =>
    let e := u b 0x14 4 + 16 * i
    ⟨i, u b e 2, u b (e + 2) 1, u b (e + 3) 1, u b (e + 4) 4, u b (e + 8) 4, u b (e + 12) 4,
      (b.drop (u b (e + 4) 4)).take (u b (e + 8) 4)⟩

/-- SLOT_MASK. -/
def imgMask (b : List Byte) : Nat := u b 0x20 8

/-! Clauses 0x01 to 0x05 (R52). -/

/-- Clause 0x01 over the bytes delivered. -/
def clause01 (b : List Byte) : Option Rej :=
  let size := u b 0x10 4
  failIf (decide (b.length < 0x40) || u b 0 4 ≠ 0x49464B53 || u b 6 2 ≠ 0x40 || u b 0x2A 2 ≠ 0 || u b 0x30 16 ≠ 0
    || size % 4 ≠ 0 || decide (size < 0x40) || decide (0x8000000 < size) || decide (b.length < size)) (rejHeader 0x01)

/-- Clauses 0x02 to 0x05 over the bytes of the image. -/
def clause02 (b : List Byte) : Option Rej :=
  ((failIf (1 < u b 4 2) (rejHeader 0x02)).or (failIf (u b 8 2 ≠ 0x5C8) (rejHeader 0x03))).or
    ((failIf (u b 0x0A 1 ≠ 1) (rejHeader 0x04)).or
      (failIf ((crc32 (b.take 0x2C ++ [0, 0, 0, 0] ++ b.drop 0x30)).toNat ≠ u b 0x2C 4) (rejHeader 0x05)))

/-! Clauses 0x06 to 0x08 (R53, R54). -/

/-- The memory that an INIT section must lie in. -/
def initSpanOk (s : ImgSec) : Bool :=
  let hi := s.param + s.len / 2
  s.param % 2 = 0 &&
    (if s.slot < 64 then s.param < 0x80000 && hi ≤ 0x80000
     else s.slot = 0xFF && ((0x1000000 ≤ s.param && s.param < 0x1800000 && hi ≤ 0x1800000)
      || (0x2000000 ≤ s.param && s.param < 0x4000000 && hi ≤ 0x4000000)))

/-- SLOT, PARAM and LENGTH as R54 gives them for the type; an unknown type is left to clause 0x08. -/
def secShapeOk (mask : Nat) (s : ImgSec) : Bool :=
  match s.typ with
  | 1 => s.slot < 64 && bitOf mask s.slot
  | 2 => s.slot = 0xFF && s.param = 0 && s.len = 2112
  | 3 => s.slot < 64 && bitOf mask s.slot && s.param = 0 && s.len = 48 && u s.data 0 1 = s.slot
  | 4 => s.slot = 0xFF && s.param = 0 && s.len % 8 = 0
  | 5 => s.slot = 0xFF && s.param = 0 && s.len % 32 = 0
  | 6 => initSpanOk s
  | 7 => s.slot = 0xFF && s.param = 0 && s.len % 8 = 0
  | 8 => s.slot = 0xFF && s.param = 0 && s.len = 20
  | _ => true

/-- The type may appear once, for its slot where it is per slot. -/
def secRepeats (s t : ImgSec) : Bool :=
  s.typ = t.typ && (s.typ = 2 || s.typ = 4 || s.typ = 5 || s.typ = 7 || s.typ = 8 || (s.typ = 3 && s.slot = t.slot))

/-- Two sections share a byte. DESIGN CHOICE: log 92. -/
def secOverlap (s t : ImgSec) : Bool := s.len ≠ 0 && t.len ≠ 0 && s.off < t.off + t.len && t.off < s.off + s.len

/-- Clause 0x06 for the sections in ascending index, given those before. DESIGN CHOICE: log 92. -/
def clause06Secs (size mask : Nat) : List ImgSec → List ImgSec → Option Rej
  | _, [] => none
  | prev, s :: t =>
    if s.flags ≠ 0 || s.off % 4 ≠ 0 || s.len % 4 ≠ 0 || decide (size < s.off + s.len) || !secShapeOk mask s
        || prev.any (secRepeats s) || prev.any (secOverlap s) then
      some ⟨0x06, s.idx, s.sl⟩
    else clause06Secs size mask (prev ++ [s]) t

/-- Clause 0x06: the table lies in the image, its sections meet R53 and R54, and none is missing.
DESIGN CHOICE: log 92, 93. -/
def clause06 (b : List Byte) (l : List ImgSec) : Option Rej :=
  let mask := imgMask b
  ((failIf (decide (1024 < u b 0x0E 2) || u b 0x14 4 % 16 ≠ 0 || decide (b.length < u b 0x14 4 + 16 * u b 0x0E 2))
    (rejHeader 0x06)).or (clause06Secs b.length mask [] l)).or
    ((failIf (!l.any (fun s => s.typ = 2)) (rejHeader 0x06)).or
      (((bitList mask 64).find? (fun s => !l.any (fun x => x.typ = 3 && x.slot = s))).map (fun s => ⟨0x06, 0xFFF, s⟩)))

/-- A container has one of bits [31:28] set: every `step` bytes, at byte `at_`. -/
def topNibble (step at_ : Nat) (l : List Byte) : Bool :=
  (List.range (l.length / step)).any fun i => ((l[step * i + at_]?).getD 0).toNat / 16 ≠ 0

/-- Clause 0x07. -/
def clause07 (l : List ImgSec) : Option Rej :=
  (l.find? (fun s => ((s.typ = 1 || s.typ = 6) && topNibble 4 3 s.data) || (s.typ = 7 && topNibble 8 7 s.data))).map
    fun s => ⟨0x07, s.idx, s.sl⟩

/-- Clause 0x08. -/
def clause08 (l : List ImgSec) : Option Rej :=
  (l.find? (fun s => s.typ = 0 || decide (8 < s.typ))).map fun s => ⟨0x08, s.idx, s.sl⟩

/-- Clause 0x09. -/
def clause09 (b : List Byte) : Option Rej :=
  failIf (decide (2 < u b 0x0B 1) || decide (8 ≤ u b 0x0C 1) || bitsOf (u b 0x0C 1) 2 1 = 3 || decide (u b 0x0D 1 < 2)
    || decide (7 < u b 0x0D 1)) (rejHeader 0x09)

/-! The image as data (R52 to R62). -/

/-- The records of a section type. -/
def secRecs (l : List ImgSec) (typ size : Nat) : List (List Byte) :=
  match l.find? (·.typ = typ) with
  | some s => (List.range (s.len / size)).map fun i => (s.data.drop (size * i)).take size
  | none => []

/-- The index of a section of a type, 0xFFF where there is none. -/
def secIdx (l : List ImgSec) (typ : Nat) : Nat := match l.find? (·.typ = typ) with | some s => s.idx | none => 0xFFF

def readCfg (r : List Byte) : SlotCfg :=
  ⟨u r 1 1, BitVec.ofNat 2 (u r 2 1), u r 4 4, u r 8 4,
    (List.range 4).map fun w =>
      ⟨u r (0x10 + 8 * w) 4 % 2 ^ 28, u r (0x14 + 8 * w) 4 % 2 ^ 28, bitOf (u r 3 1) (2 * w), bitOf (u r 3 1) (2 * w + 1)⟩⟩

def readBank (r : List Byte) : BankRec :=
  ⟨u r 0 1 % 16, u r 0 1 / 16, u r 1 1, u r 2 1, bitOf (u r 3 1) 0, bitOf (u r 3 1) 1, u r 4 1, u r 5 1, u r 6 1, u r 7 1⟩

def readBlock (r : List Byte) : StateBlk :=
  ⟨u r 0 4, u r 4 1, u r 5 1, u r 6 2, u r 8 4, u r 0xC 4, u r 0x10 4, u r 0x18 8, 0⟩

/-- The hearth whose data an INIT section writes, 16 for shared memory and the attack cache. -/
def ImgSec.hearth (s : ImgSec) : Nat := if s.slot < 64 then s.slot / 4 else 16

def ImgSec.init (s : ImgSec) : InitSec := ⟨s.idx, s.hearth, s.param, contDWs s.data⟩

/-- The image, with the INIT data of its state blocks. -/
def mkImage (b : List Byte) (l : List ImgSec) : Image :=
  let sched := match l.find? (·.typ = 2) with | some s => s.data | none => []
  let blocks := (secRecs l 5 32).map readBlock
  { mode := u b 0x0B 1, rate := u b 0x0C 1, nLog2 := u b 0x0D 1, id := u b 0x18 8, slotMask := imgMask b
    fixedMv := u b 0x28 2, phases := u sched 0 1
    barriers := (List.range 7).map fun i => u sched (8 + 8 * i) 8
    budgets := (((cont32s ((sched.drop 0x40).take 0x800)).zipIdx).map fun e => (e.2, e.1)).filter (·.2 ≠ 0)
    cfg := (l.filter (·.typ = 3)).foldl (fun t s => tabSet t s.slot (readCfg s.data)) []
    banks := (secRecs l 4 8).map readBank
    blocks := blocks
    inits := (l.filter (fun s => s.typ = 6 && blocks.any (·.init = s.idx))).map ImgSec.init
    stages := (secRecs l 7 8).map fun r => ⟨u r 0 2, u r 2 2, BitVec.ofNat 28 (u r 4 4)⟩
    streams := (l.find? (·.typ = 8)).map fun s => ⟨u s.data 0 4, u s.data 4 4, u s.data 8 4, u s.data 0xC 4⟩ }

/-! Clauses 0x0A and 0x14 to 0x13 (R55, R64, R71, R73). -/

/-- Clause 0x0A: with the running image, and with CLOCKS.CFG (R413). -/
def clause0A (d : Dev) (i : Image) : Option Rej :=
  let run := match d.loader.run with
    | some r => r.slotMask ≠ 0 && (r.rate ≠ i.rate || r.nLog2 ≠ i.nLog2)
    | none => false
  failIf (run || d.get Reg.CLOCKS.CFG.FB ≠ bitsOf i.rate 0 0 || d.get Reg.CLOCKS.CFG.MULT ≠ bitsOf i.rate 2 1
    || d.get Reg.CLOCKS.CFG.N_LOG2 ≠ i.nLog2) (rejHeader 0x0A)

/-- Clause 0x14. DESIGN CHOICE: log 169. -/
def clause14 (i : Image) (idx : Nat) : Option Rej :=
  failIf (decide (i.phases < 1) || decide (8 < i.phases) || (i.barriers.drop (i.phases - 1)).any (· ≠ 0)
    || i.budgets.any (fun e => decide (i.phases ≤ e.1 / 64) || !bitOf i.slotMask (e.1 % 64))) ⟨0x14, idx, 0xFF⟩

/-- DESIGN CHOICE: log 95. -/
def Image.group (i : Image) (s : Nat) : List Nat := bitList (groupMask i.barriers s) 64

/-- Phase p of R71 for a group: the barrier that begins it, then the budgets. -/
def pathPhase (i : Image) (g : List Nat) (t : Tab Nat) (p : Nat) : Tab Nat :=
  let part := if p = 0 then [] else g.filter (bitOf ((i.barriers[p - 1]?).getD 0))
  let m := part.foldl (fun a s => Nat.max a (tabGet 0 t s)) 0
  let t := part.foldl (fun t s => tabSet t s m) t
  g.foldl (fun t s => tabMap 0 t s (· + tabGet 0 i.budgets (p * 64 + s))) t

/-- E_G of the group of a slot (R71). -/
def Image.path (i : Image) (s : Nat) : Nat :=
  let g := i.group s
  let t := (List.range i.phases).foldl (pathPhase i g) []
  g.foldl (fun a s => Nat.max a (tabGet 0 t s)) 0

/-- Times as exact numbers: a second is 1,148,000,000 × 1,000 × Fp. T (R40), T − M, and a path at R_g (R73). -/
def Image.tFull (i : Image) : Nat := 1148000000 * 1000 * i.n
def Image.tWindow (i : Image) : Nat := 1148000000 * 985 * i.n
def Image.tSteps (i : Image) (e : Nat) : Nat := 1000 * e * i.fp
def Image.tTenthUs (i : Image) (n : Nat) : Nat := 114800 * n * i.fp

/-- The cut-off of a slot (R73), and a hearth's fold cut-off for a pair path (R185). -/
def Image.cut (i : Image) (s : Nat) : Int := (i.tWindow : Int) - i.tTenthUs 33 - i.tSteps (i.path s + 32)
def Image.foldCut (i : Image) (e : Nat) : Int := (i.tWindow : Int) - i.tTenthUs 11 - i.tSteps (e + 32)

/-- A cut-off in units of T / 1,024. -/
def Image.cutCode (i : Image) (c : Int) : Nat := Nat.min 1023 (c.toNat * 1024 / i.tFull)

/-- The slots with programs. -/
def Image.slots (i : Image) : List Nat := bitList i.slotMask 64

/-- Clauses 0x10 to 0x13. DESIGN CHOICE: log 169. -/
def clause10 (i : Image) : Option Rej :=
  let slots := i.slots
  let one := (slots.find? (fun s => decide (i.tWindow < i.tTenthUs 2 + i.tSteps (i.path s)))).map
    fun s => ⟨0x10, 0xFFF, s⟩
  let grd := if i.mode = 0 then
      (slots.find? (fun s => decide (i.cut s * 100 < i.tFull * 55))).map fun s => ⟨0x11, 0xFFF, s⟩ else none
  let dns := if i.mode = 1 then
      (slots.find? (fun s => decide (i.cut s < i.tTenthUs 2))).map fun s => ⟨0x12, 0xFFF, s⟩ else none
  let mv := failIf (if i.mode = 2 then decide (i.fixedMv < 500) || decide (950 < i.fixedMv) || i.fixedMv % 5 ≠ 0
      else i.fixedMv ≠ 0) (rejHeader 0x13)
  (one.or grd).or (dns.or mv)

/-- The pair path of a hearth and whether its fold fits (R184). -/
def Image.pairPath (i : Image) (h : Nat) : Nat × Bool :=
  let own := (hearthSlots h).filter (bitOf i.slotMask)
  let sums := own.flatMap fun a => (own.filter (a < ·)).map fun b => i.path a + i.path b + 16 * i.phases
  if sums.isEmpty then ((own.map i.path).foldl Nat.max 0, true)
  else
    let e := sums.foldl Nat.max 0
    (e, decide (i.tTenthUs 2 + i.tSteps e ≤ i.tWindow))

/-! Clauses 0x18 to 0x1D (R57, R59, R78). -/

/-- The ports of a record: slot and access. -/
def BankRec.ports (r : BankRec) : List (Nat × Nat) := [(r.slot0, r.acc0), (r.slot1, r.acc1)]

/-- A bank as one number, by class, hearth and bank. -/
def BankRec.key (r : BankRec) : Nat := r.cls * 0x10000 + (if r.cls = 0 then r.hearth else 0) * 0x100 + r.bank

/-- The W range of a bank as the slots see it. -/
def BankRec.span (r : BankRec) : Nat × Nat :=
  if r.cls = 0 then (0x8000 * r.bank, 0x8000 * r.bank + 0x8000)
  else if r.cls = 1 then (0x1000000 + 0x40000 * r.bank, 0x1000000 + 0x40000 * r.bank + 0x40000)
  else (0x2000000 + 0x80000 * r.bank, 0x2000000 + 0x80000 * r.bank + 0x80000)

/-- The domain and bank number of a record's bank (R387). -/
def BankRec.dom (r : BankRec) : Nat × Nat :=
  if r.cls = 0 then (domHearth r.hearth, r.bank)
  else if r.cls = 1 then (36 + r.bank / 4, r.bank % 4) else (44 + r.bank / 8, r.bank % 8)

/-- A port names a slot with access, or none without. -/
def portOk (i : Image) (r : BankRec) (p : Nat × Nat) : Bool :=
  if p.1 = 0xFF then p.2 = 0
  else p.1 < 64 && bitOf i.slotMask p.1 && 1 ≤ p.2 && p.2 ≤ 3 && (r.cls ≠ 0 || p.1 / 4 = r.hearth)

/-- Clause 0x18 for a record, its FLAGS byte, and the records before it. -/
def bankOk (i : Image) (prev : List BankRec) (r : BankRec) (flags : Nat) : Bool :=
  r.cls < 3 && r.bank < (if r.cls = 0 then 16 else if r.cls = 1 then 32 else 64) && flags < 4 && r.ports.all (portOk i r)
    && prev.all (fun q => q.key ≠ r.key || q.phases &&& r.phases = 0)

def clause18Recs (i : Image) (idx : Nat) : List BankRec → List (BankRec × Nat) → Option Rej
  | _, [] => none
  | prev, (r, f) :: t => if bankOk i prev r f then clause18Recs i idx (prev ++ [r]) t else some ⟨0x18, idx, 0xFF⟩

/-- DESIGN CHOICE: log 94. -/
def clause18 (i : Image) (l : List ImgSec) : Option Rej :=
  clause18Recs i (secIdx l 4) [] (i.banks.zip ((secRecs l 4 8).map fun r => u r 3 1))

/-- The phases in which a slot has an access type of an exchange bank. -/
def exchPhases (recs : List BankRec) (slot bit : Nat) : Nat :=
  recs.foldl (fun a r => if r.ports.any (fun p => p.1 = slot && bitOf p.2 bit) then a ||| r.phases else a) 0

/-- Clause 0x19 for the records of one exchange bank. -/
def exchBad (i : Image) (idx : Nat) (recs : List BankRec) : Option Rej :=
  let ws := (List.range 64).filter (fun s => exchPhases recs s 1 ≠ 0)
  match ws with
  | [] => none
  | _ :: _ :: _ => some ⟨0x19, idx, 0xFF⟩
  | [w] =>
    let last := (bitList (exchPhases recs w 1) 8).foldl Nat.max 0
    let meet (s p : Nat) : Bool := (List.range p).any fun k => last ≤ k &&
      (let b := (i.barriers[k]?).getD 0; bitOf b w && bitOf b s)
    ((List.range 64).find? (fun s => s ≠ w &&
      (bitList (exchPhases recs s 0) 8).any (fun p => p ≤ last || !meet s p))).map fun s => ⟨0x19, idx, s⟩

/-- The first failure of a list of checks. -/
def firstRej (l : List (Option Rej)) : Option Rej := (l.find? (·.isSome)).join

def clause19 (i : Image) (idx : Nat) : Option Rej :=
  let ex := i.banks.filter (·.exchange)
  firstRej ((ex.map (·.key)).eraseDups.map fun k => exchBad i idx (ex.filter (·.key = k)))

/-- Some enabled window of a slot grants an access type and holds a W of a range. -/
def SlotCfg.reaches (c : SlotCfg) (lo hi : Nat) (wr : Bool) : Bool :=
  c.wins.any fun w => (if wr then w.wr else w.rd) && w.base ≤ w.limit && w.base < hi && lo ≤ w.limit

def clause1A (i : Image) (idx : Nat) : Option Rej :=
  firstRej (i.banks.flatMap fun r => r.ports.map fun p =>
    failIf (p.1 ≠ 0xFF && ((bitOf p.2 0 && !(i.slot p.1).reaches r.span.1 r.span.2 false)
      || (bitOf p.2 1 && !(i.slot p.1).reaches r.span.1 r.span.2 true))) ⟨0x1A, idx, p.1⟩)

/-- The banks of a span of W, by domain and bank: none where a W lies in no bank. A bank is at least 0x8000 W. -/
def spanBanks (a n : Nat) : List (Option (Nat × Nat)) :=
  if n = 0 then []
  else ((List.range (n / 0x8000 + 1)).map (fun k => a + 0x8000 * k) ++ [a + n - 1]).filter (· < a + n) |>.map memBank

/-- A bank is flagged STATE and both its ports belong to the slot. -/
def Image.owns (i : Image) (slot : Nat) (b : Nat × Nat) : Bool :=
  i.banks.any fun r => r.state && r.slot0 = slot && r.slot1 = slot && r.dom = b

/-- The two copies of a block in the control-core view. -/
def StateBlk.spans (b : StateBlk) : List (Nat × Nat) :=
  [(slotAddr b.slot b.base0, slotAddr b.slot b.base0 + 2 * b.size), (slotAddr b.slot b.base1, slotAddr b.slot b.base1 + 2 * b.size)]

def spansMeet (x y : Nat × Nat) : Bool := x.1 < y.2 && y.1 < x.2

/-- A block of clause 0x1C, with the blocks before it. -/
def blockOk (i : Image) (l : List ImgSec) (prev : List StateBlk) (b : StateBlk) : Bool :=
  b.slot < 64 && bitOf i.slotMask b.slot && b.index < 16 && prev.all (fun q => q.slot ≠ b.slot || q.index ≠ b.index)
    && 1 ≤ b.size && b.size ≤ 0x100000 && b.base0 % 2 = 0 && b.base1 % 2 = 0
    && [b.base0, b.base1].all (fun a =>
        (a < 0x80000 || 0x1000000 ≤ a) &&
        (spanBanks (slotAddr b.slot a) (2 * b.size)).all fun k => match k with | some k => i.owns b.slot k | none => false)
    && !spansMeet ((slotAddr b.slot b.base0, slotAddr b.slot b.base0 + 2 * b.size))
        (slotAddr b.slot b.base1, slotAddr b.slot b.base1 + 2 * b.size)
    && prev.all (fun q => b.spans.all (fun x => q.spans.all (fun y => !spansMeet x y)))
    && (b.init = 0xFFFF ||
        l.any (fun s => s.idx = b.init && s.typ = 6 && s.param = b.base0 && s.len = 4 * b.size
          && s.hearth = (if b.base0 < 0x80000 then b.slot / 4 else 16)))

/-- The DW that the reset store must hold (R197). -/
def resetStore (l : List StateBlk) : Nat := ((l.filter (·.init ≠ 0xFFFF)).map (·.size)).sum

def clause1CRecs (i : Image) (l : List ImgSec) : List StateBlk → List StateBlk → Option Rej
  | _, [] => none
  | prev, b :: t =>
    if blockOk i l prev b && resetStore (prev ++ [b]) ≤ 0x100000 then clause1CRecs i l (prev ++ [b]) t
    else some ⟨0x1C, secIdx l 5, if b.slot < 64 then b.slot else 0xFF⟩

/-- A copy of a block lies in hearth data. -/
def StateBlk.inHearth (b : StateBlk) : Bool := decide (b.base0 < 0x80000) || decide (b.base1 < 0x80000)

/-- The block of another image that a block is carried over from (R78). -/
def StateBlk.from? (b : StateBlk) (old : Option Image) : Option StateBlk :=
  match old with
  | some o => o.blocks.find? fun x => x.id = b.id && x.size = b.size && x.hash = b.hash && x.base0 = b.base0
      && x.base1 = b.base1 && (!b.inHearth || x.slot / 4 = b.slot / 4)
  | none => none

/-- Clause 0x1D. DESIGN CHOICE: log 94. -/
def clause1D (d : Dev) (i : Image) (l : List ImgSec) : Option Rej :=
  match d.loader.run with
  | none => none
  | some r =>
    let used := r.banks.map (·.dom)
    (l.find? (fun s => s.typ = 6 && s.len ≠ 0
      && !i.blocks.any (fun b => b.init = s.idx && (b.from? d.loader.run).isSome)
      && (spanBanks (slotAddr (if s.slot < 64 then s.slot else 0) s.param) (s.len / 2)).any
          (fun k => match k with | some k => used.contains k | none => false))).map fun s => ⟨0x1D, s.idx, s.sl⟩

/-! Clauses 0x20 to 0x23 (R54, R56, R120). -/

/-- The syllables of a PROGRAM section lie at param to param + len / 4. -/
def progHolds (l : List ImgSec) (slot k : Nat) : Bool :=
  l.any fun s => s.typ = 1 && s.slot = slot && s.param ≤ k && k < s.param + s.len / 4

def clause20Secs : List ImgSec → List ImgSec → Option Rej
  | _, [] => none
  | prev, s :: t =>
    if decide (0x4000 < s.param + s.len / 4) || prev.any (fun q => q.slot = s.slot && q.param < s.param + s.len / 4
        && s.param < q.param + q.len / 4) then some ⟨0x20, s.idx, s.slot⟩
    else clause20Secs (prev ++ [s]) t

/-- The SLOTCFG section of a slot. -/
def cfgIdx (l : List ImgSec) (slot : Nat) : Nat :=
  match l.find? (fun s => s.typ = 3 && s.slot = slot) with | some s => s.idx | none => 0xFFF

/-- A clause checked per slot, in ascending order. -/
def perSlot (i : Image) (l : List ImgSec) (code : Nat) (bad : Nat → Bool) : Option Rej :=
  (i.slots.find? bad).map fun s => ⟨code, cfgIdx l s, s⟩

/-- A syllable that writes LC. -/
def writesLC : Instr → Bool
  | .loop .. => true
  | .sys _ _ num dir => dir && num == 0
  | _ => false

/-- A syllable is a REP. -/
def isRep : Instr → Bool
  | .rep .. => true
  | _ => false

/-- The program words of a slot by rising syllable offset. -/
def progWords (l : List ImgSec) (slot : Nat) : Tab DW :=
  (l.filter (fun s => s.typ = 1 && s.slot = slot)).foldl
    (fun t s => (contDWs s.data).foldl (fun (a : Tab DW × Nat) w => (tabSet a.1 a.2 w, a.2 + 1)) (t, s.param) |>.1) []

/-- Clause 0x23 along the syllables: the bundle so far begins with REP, and the offset that continues it. -/
def repConflict : Tab DW → Bool → Bool → Nat → Bool
  | [], _, _, _ => false
  | (k, w) :: t, start, rep, next =>
    let start := start || k ≠ next
    let i := decodeSyll 0 0 w
    let rep := if start then (i.map isRep).getD false else rep
    if !start && rep && (i.map writesLC).getD false then true
    else repConflict t (w.getLsbD 27) rep (k + 1)

def clause20 (i : Image) (l : List ImgSec) : Option Rej :=
  let ends := perSlot i l 0x20 fun s => !progHolds l s (i.slot s).entry || !progHolds l s (i.slot s).handler
  let wins := perSlot i l 0x21 fun s => (i.slot s).wins.any fun w => (w.rd || w.wr) && w.base ≤ w.limit && 0xD000000 ≤ w.limit
  let depth := perSlot i l 0x22 fun s => decide (32 < (i.slot s).callDepth)
  let reps := perSlot i l 0x23 fun s => repConflict (progWords l s) true false 0
  ((clause20Secs [] (l.filter (·.typ = 1))).or ends).or ((wins.or depth).or reps)

/-! Clauses 0x28 to 0x30 (R61, R62, R267, R278). -/

/-- The value that the INIT data of an image gives a DW of shared memory. -/
def initDW (l : List ImgSec) (a : Nat) : Option Nat :=
  (l.reverse.find? (fun s => s.typ = 6 && s.slot = 0xFF && s.param ≤ a && a < s.param + s.len / 2)).map
    fun s => u s.data (2 * (a - s.param)) 4 % 2 ^ 28

/-- Clause 0x29 for an entry. -/
def headShort (l : List ImgSec) (base e : Nat) : Bool :=
  let a := base + 32 * e
  match initDW l a, initDW l (a + 14), initDW l (a + 18) with
  | some c, some hf, some rm => !bitOf c 27 && bitsOf c 26 25 ≠ 1 && decide (500 * hf < rm)
  | _, _, _ => false

/-- The pages that a STAGE record may target. -/
def stagePage (p : Nat) : Bool :=
  (0x030 ≤ p && p ≤ 0x033) || (0x046 ≤ p && p ≤ 0x04F) || p = 0x050 || (0x070 ≤ p && p ≤ 0x079)

/-- DESIGN CHOICE: log 170. -/
def clause28 (d : Dev) (i : Image) (l : List ImgSec) : Option Rej :=
  let stg := secIdx l 7
  let str := match i.streams with
    | none => failIf (i.stages.any fun r => r.page = 0x050 && (r.off = 0x028 || r.off = 0x02C || r.off = 0x030 || r.off = 0x034)
        && r.val ≠ 0) ⟨0x28, stg, 0xFF⟩
    | some s =>
      let idx := secIdx l 8
      let table := spanBanks s.base (32 * s.entries)
      ((failIf (d.get Reg.STOKER.CEILING.VALUE < s.budget) ⟨0x28, idx, 0xFF⟩).or
        (failIf ((List.range s.entries).any (headShort l s.base)) ⟨0x29, idx, 0xFF⟩)).or
        (failIf (s.base % 2 ≠ 0 || s.entries = 0 || decide (16384 < s.entries) || decide (s.base < 0x1000000)
          || decide (0x1800000 < s.base + 32 * s.entries)
          || i.banks.any (fun r => table.contains (some r.dom) && r.ports.any (fun p => p.1 ≠ 0xFF && bitOf p.2 1)))
          ⟨0x2A, idx, 0xFF⟩)
  str.or (failIf (i.stages.any fun r => !stagePage r.page || mirrorMask r.page r.off = 0) ⟨0x30, stg, 0xFF⟩)

/-! The whole check (R63). -/

/-- The outcome of a check. -/
inductive Checked where
  | passed (i : Image) (secs : List ImgSec)
  | failed (r : Rej)
  deriving DecidableEq, Repr

/-- The loader checks the bytes delivered, clause by clause. -/
def Dev.checkImage (d : Dev) (bytes : List Byte) : Checked :=
  match clause01 bytes with
  | some r => .failed r
  | none =>
    let b := bytes.take (u bytes 0x10 4)
    let l := imgSecs b
    match ((clause02 b).or (clause06 b l)).or ((clause07 l).or ((clause08 l).or (clause09 b))) with
    | some r => .failed r
    | none =>
      let i := mkImage b l
      let bk := secIdx l 4
      match ((clause0A d i).or (clause14 i (secIdx l 2))).or ((clause10 i).or (clause18 i l)) with
      | some r => .failed r
      | none =>
        match (((clause19 i bk).or (clause1A i bk)).or ((clause1CRecs i l [] i.blocks).or (clause1D d i l))).or
            ((clause20 i l).or (clause28 d i l)) with
        | some r => .failed r
        | none => .passed i l

/-! Placing (R50, R54, R391). -/

/-- The banks of a span are initialised where they are cold. -/
def Dev.warmSpan (d : Dev) (a n : Nat) : Dev :=
  (spanBanks a n).foldl (fun d k =>
    match k with
    | some (dom, b) => if d.memOn dom && !d.warm.contains (bankKey dom b) then d.initBank dom b else d
    | none => d) d

/-- Store DW one after another. -/
def Dev.storeDWs (d : Dev) (a : Nat) : List DW → Dev
  | [] => d
  | v :: t => Dev.storeDWs (if d.isCold a then d else d.storeDW a v) (a + 2) t

/-- The whole inactive image slot of every slot is initialised. -/
def Dev.clearInactive (d : Dev) : Dev :=
  d.each (List.range 64) fun d s =>
    if d.memOn (domHearth (s / 4)) then d.initBank (domHearth (s / 4)) (16 + 2 * (s % 4) + (1 - d.runAB)) else d

/-- The PROGRAM and INIT data of an image that passed are written, and the banks it names are initialised. INIT data
of a state block is written at the commit. -/
def Dev.placeImage (d : Dev) (i : Image) (l : List ImgSec) : Dev :=
  let d := d.clearInactive
  let d := (l.filter (·.typ = 1)).foldl
    (fun d s => d.storeDWs (progAddr s.slot (1 - d.runAB) s.param) (contDWs s.data)) d
  let d := (l.filter (fun s => s.typ = 6 && !i.blocks.any (·.init = s.idx))).foldl (fun d s =>
    let a := slotAddr (if s.slot < 64 then s.slot else 0) s.param
    (d.warmSpan a (s.len / 2)).storeDWs a (contDWs s.data)) d
  let d := i.banks.foldl (fun d r =>
    if d.memOn r.dom.1 && !d.warm.contains (bankKey r.dom.1 r.dom.2) then d.initBank r.dom.1 r.dom.2 else d) d
  let d := i.blocks.foldl (fun d b => b.spans.foldl (fun d x => d.warmSpan x.1 (x.2 - x.1)) d) d
  match i.streams with
  | some s => d.warmSpan s.base (32 * s.entries)
  | none => d

/-- SLOT_FIT and FOLD as the loader reports them at the load (R73, R83, R184, R185).
DEDUCED: log 97. DESIGN CHOICE: log 175. -/
def Dev.reportFit (d : Dev) (i : Image) : Dev :=
  let d := d.each (List.range 64) fun d s =>
    let here := bitOf i.slotMask s
    let d := d.putAt Reg.IMAGE.SLOT_FIT.PRESENT 0 s (b2n here)
    let d := d.putAt Reg.IMAGE.SLOT_FIT.GROUP 0 s (if here then ((i.group s).head?).getD 0 else 0)
    d.putAt Reg.IMAGE.SLOT_FIT.CUTOFF 0 s (if here then i.cutCode (i.cut s) else 0)
  d.each (List.range 16) fun d h =>
    let (e, fit) := i.pairPath h
    d.iff (d.isOn (domHearth h)) fun d => (d.putAt Reg.HEARTH.FOLD.FIT h 0 (b2n fit)).putAt Reg.HEARTH.FOLD.CUT h 0 (i.cutCode (i.foldCut e))

end Sys2Proof.Machine
end

