-- ==== Sys2Proof/Machine/Operands.lean ====
section
/-! DEFINITION. Operands of syllables: registers by number, halves, immediates, condition codes, the status register's
fields, address formation (R87 to R91, R95, R109, R110, R121). -/

namespace Sys2Proof.Machine

/-- General register n (R89). -/
def Core.g (c : Core) (n : Nat) : DW := tabGet 0#28 c.gr n

/-- Dn. -/
def Core.d (c : Core) (n : BitVec 5) : DW := c.g n.toNat

/-- Pn. -/
def Core.p (c : Core) (n : BitVec 3) : DW := c.g (0x20 + n.toNat)

/-- Mn. -/
def Core.m (c : Core) (n : BitVec 3) : DW := c.g (0x28 + n.toNat)

/-- Bn. -/
def Core.b (c : Core) (n : BitVec 3) : DW := c.g (0x30 + n.toNat)

/-- Ln. -/
def Core.l (c : Core) (n : BitVec 3) : DW := c.g (0x38 + n.toNat)

/-- An accumulator (R86). -/
def Core.a (c : Core) (n : BitVec 2) : Acc := tabGet 0#70 c.acc n.toNat

/-- The low or high half of a D register (R87). -/
def halfOf (v : DW) (hi : Bool) : W := if hi then v.extractLsb' 14 14 else v.extractLsb' 0 14

/-- The half that an H operand names. -/
def Core.half (c : Core) (h : Half) : W := halfOf (c.g h.reg.toNat) h.hi

/-- The bits of a DW that a half takes. -/
def halfMask (hi : Bool) : DW := if hi then 0xFFFC000 else 0x0003FFF

/-- A W placed in a half of a DW. -/
def halfPut (hi : Bool) (v : W) : DW := if hi then (v.setWidth 28) <<< 14 else v.setWidth 28

/-- Every bit of a DW. -/
def fullMask : DW := 0xFFFFFFF

/-! PS fields (R87). -/
def Core.z (c : Core) : Bool := c.ps.getLsbD 0
def Core.n (c : Core) : Bool := c.ps.getLsbD 1
def Core.c (c : Core) : Bool := c.ps.getLsbD 2
def Core.v (c : Core) : Bool := c.ps.getLsbD 3
def Core.ie (c : Core) : Bool := c.ps.getLsbD 8
def Core.priv (c : Core) : Nat := (c.ps.extractLsb' 10 2).toNat
def Core.ld (c : Core) : Nat := (c.ps.extractLsb' 12 2).toNat

/-- A DW with the bits of a mask taken from a value. -/
def maskPut (old mask v : DW) : DW := (old &&& ~~~mask) ||| (v &&& mask)

/-- A DW with one bit set or cleared. -/
def bitPut (old : DW) (n : Nat) (b : Bool) : DW :=
  if b then old ||| (1#28 <<< n) else old &&& ~~~(1#28 <<< n)

/-- Does a condition code hold (R110)? Code 0xF is unassigned. -/
def condHolds (cond : BitVec 4) (z n c v : Bool) : Bool :=
  match cond.toNat with
  | 0x0 => true
  | 0x1 => z
  | 0x2 => !z
  | 0x3 => n != v
  | 0x4 => n == v
  | 0x5 => z || n != v
  | 0x6 => !z && n == v
  | 0x7 => c
  | 0x8 => !c
  | 0x9 => n
  | 0xA => !n
  | 0xB => v
  | 0xC => !v
  | 0xD => c && !z
  | 0xE => !c || z
  | _ => false

/-- The pointer after a circular step: B + ((P + M − B) mod L) with an exact, floored modulus; P + M where L is 0
(R95). -/
def circStep (p b l : DW) (m : Int) : DW :=
  if l = 0 then BitVec.ofInt 28 (p.toNat + m)
  else BitVec.ofInt 28 (b.toNat + ((p.toNat : Int) + m - b.toNat) % (l.toNat : Int))

/-- The address of an LS operand (R95, R109). -/
def lsAddr (c : Core) (o : LsOps) : DW :=
  match o.am.toNat with
  | 0 => c.p o.p + o.x.signExtend 28
  | 3 => c.p o.p + c.m (o.x.setWidth 3)
  | _ => c.p o.p

/-- The new pointer of a post-modify form, none for the other forms (R95). -/
def lsPost (c : Core) (p : BitVec 3) (am : BitVec 2) (m : BitVec 3) : Option DW :=
  match am.toNat with
  | 1 => some (c.p p + c.m m)
  | 2 => some (circStep (c.p p) (c.b p) (c.l p) (c.m m).toInt)
  | _ => none

/-- The address of element i of a long instruction's stream through Pq, e W to an element (R121). -/
def streamAddr (c : Core) (q : BitVec 3) (circ : Bool) (e i : Nat) : DW :=
  if circ then circStep (c.p q) (c.b q) (c.l q) (i * e : Nat) else BitVec.ofNat 28 ((c.p q).toNat + i * e)

/-- A syllable that does nothing in one step. -/
def Eff.none : Eff := ⟨[], [], FlagOut.keep, false, false, Option.none, Option.none, 1, [], []⟩

/-- A syllable that raises an exception. -/
def Eff.raise (cause : Nat) (eval : Option DW) (detail : Nat) : Eff :=
  { Eff.none with exc := some ⟨cause, eval, detail⟩ }

/-- A syllable that only asks something of the core. -/
def Eff.act (l : List Act) : Eff := { Eff.none with acts := l }

/-- A syllable that writes Dd. -/
def Eff.putD (d : BitVec 5) (v : DW) : Eff := { Eff.none with grs := [(d.toNat, fullMask, v)] }

/-- An ALU result into Dd, with its flags (R136). -/
def Eff.alu (d : BitVec 5) (o : AluOut 28) : Eff :=
  { Eff.none with grs := [(d.toNat, fullMask, o.res)], flags := o.flags, sat := o.sat }

/-- An ALU result into a half (R138, R88). -/
def Eff.aluW (d : Half) (o : AluOut 14) : Eff :=
  { Eff.none with grs := [(d.reg.toNat, halfMask d.hi, halfPut d.hi o.res)], flags := o.flags, sat := o.sat }

/-- Only the flags of an ALU result (CMP, TST, CMPI, CMPW). -/
def Eff.flagsOnly {w : Nat} (o : AluOut w) : Eff := { Eff.none with flags := o.flags }

/-- The overflow trap of R142: a syllable whose result would set V raises 0x0F where the trap is enabled. -/
def Eff.trapV (e : Eff) (c : Core) : Eff :=
  if c.traps.getLsbD 1 && e.flags.v == some true then Eff.raise 0x0F Option.none 0 else e

/-- An accumulator write. -/
def Eff.putA (n : BitVec 2) (v : Acc) : Eff := { Eff.none with accs := [(n.toNat, v)] }

end Sys2Proof.Machine
end

