-- ==== Sys2Proof/Machine/Ports.lean ====
section
/-! DEFINITION. Lanes, port buffers, the port table and the MIDI UARTs (R325 to R351, R400, R475, R476). -/

namespace Sys2Proof.Machine

/-! Lane formats (R326, R327, R475). -/

/-- What a lane's configuration makes of it. -/
inductive LaneKind where
  | off
  /-- the configuration is refused -/
  | bad
  | i2s
  | tdm (slots : Nat)
  | sensor
  | aes3
  | madi (channels : Nat)
  deriving DecidableEq, Repr

/-- Channels of a lane. -/
def LaneKind.channels : LaneKind → Nat
  | .off => 0
  | .bad => 0
  | .i2s => 2
  | .tdm n => n
  | .sensor => 32
  | .aes3 => 2
  | .madi n => n

/-- The rate multiple m and the frame size N of CLOCKS.CFG (R40). -/
def Dev.rateM (d : Dev) : Nat := 2 ^ d.get Reg.CLOCKS.CFG.MULT
def Dev.frameSize (d : Dev) : Nat := 2 ^ d.get Reg.CLOCKS.CFG.N_LOG2

/-- The format of a lane. DESIGN CHOICE: log 61. -/
def Dev.laneKind (d : Dev) (n : Nat) : LaneKind :=
  let g := n / 8
  let fmt := d.getAt Reg.PORTS.LANE_CFG.FMT g (n % 8)
  if fmt = 0 then .off
  else if d.getAt Reg.PORTS.GSTAT.VIO g 0 = 0 then .bad
  else if fmt = 2 then .aes3
  else if fmt = 3 then (if d.rateM = 1 then .madi 64 else if d.rateM = 2 then .madi 32 else .bad)
  else
    let slots := 4 * 2 ^ d.getAt Reg.PORTS.GCFG.SLOTS g 0
    match d.getAt Reg.PORTS.GCFG.GFMT g 0 with
    | 1 => .i2s
    | 2 => if slots * d.rateM ≤ 32 then .tdm slots else .bad
    | 3 => .sensor
    | _ => .bad

/-- The lane is an output. -/
def Dev.laneOut (d : Dev) (n : Nat) : Bool := d.getAt Reg.PORTS.LANE_CFG.DIR (n / 8) (n % 8) = 1

/-- The lane carries its own clock. -/
def LaneKind.ownClock : LaneKind → Bool
  | .aes3 => true
  | .madi _ => true
  | _ => false

/-- A group's lanes stand still: its bit clock relocks, its domain leaves ON and has sent its last frame, or its pads are
held (R350, R351, R404). -/
def Dev.groupStill (d : Dev) (g : Nat) : Bool :=
  (tabFind d.ports.stopped g).isSome || d.power.held.contains (4 + g)
    || (match d.power.entry with | some e => e.past && e.doms.any (·.1 = domPorts g) | none => false)

/-- The lane runs: it has a format, its group runs, its rail is in tolerance, and a group clock that comes from outside is
present. DEDUCED: log 56, 62. -/
def Dev.laneRuns (d : Dev) (n : Nat) : Bool :=
  let g := n / 8
  let k := d.laneKind n
  k ≠ .off && k ≠ .bad && d.isOn (domPorts g) && !d.groupStill g && !d.power.railLost.contains (4 + g)
    && (k.ownClock || d.getAt Reg.PORTS.GCFG.MASTER g 0 = 1 || d.getAt Reg.PORTS.GSTAT.GLOCK g 0 = 1)

/-- An input lane that is clocked from outside has elastic buffers (R333). -/
def Dev.buffered (d : Dev) (n : Nat) : Bool :=
  let k := d.laneKind n
  !d.laneOut n && k ≠ .sensor && (k.ownClock || d.getAt Reg.PORTS.GCFG.MASTER (n / 8) 0 = 0)

/-! Port-table entries and port samples (R338 to R342). -/

/-- The entry of a port, and its fields. -/
def Dev.ptEntry (d : Dev) (p : Nat) : Nat := (tabGet 0#28 d.ports.table p).toNat
def entryEn (e : Nat) : Bool := bitOf e 17
def entryOut (e : Nat) : Bool := bitOf e 16
def entryLane (e : Nat) : Nat := bitsOf e 15 10
def entryChan (e : Nat) : Nat := bitsOf e 9 4

/-- The W address of position i of copy c of port p. -/
def Dev.portAddr (d : Dev) (p c i : Nat) : Nat :=
  let n := d.frameSize
  d.get Reg.PORT_TABLE.BUF_BASE.ADDR + 2 * (4 * n * p + n * c + i)

/-- The active ports of a lane and channel, in ascending order. -/
def Dev.portsOf (d : Dev) (out : Bool) (lane chan : Nat) : List Nat :=
  d.ports.active.filter fun p =>
    entryOut (d.ptEntry p) == out && entryLane (d.ptEntry p) = lane && entryChan (d.ptEntry p) = chan

/-- An input position of a port takes a sample; a cold bank takes nothing. -/
def Dev.putSample (d : Dev) (p i : Nat) (v : DW) : Dev :=
  let a := d.portAddr p (d.frame12 % 4) i
  if d.isCold a then d else d.storeDW a v

/-- Every input port of a lane and channel takes a sample at a position. -/
def Dev.putIn (d : Dev) (lane chan i : Nat) (v : DW) : Dev :=
  d.each (d.portsOf false lane chan) fun d p => d.putSample p i v

/-- The positions of a lane that this frame has not captured yet receive zeros (R341). -/
def Dev.zeroRest (d : Dev) (n : Nat) : Dev :=
  d.each (List.range (d.laneKind n).channels) fun d c =>
    d.each ((List.range d.frameSize).filter (tabGet 0 d.ports.next (n * 64 + c) ≤ ·)) fun d i => d.putIn n c i 0#28

/-! Lock (R341, R344, R352). -/

/-- The channel keys of a lane: lane × 64 + channel. -/
def chanKey (lane chan : Nat) : Nat := lane * 64 + chan

/-- A lane's LOCK takes a value: a change raises LOCK and fires source 96 + n; with it the elastic buffers are filled to
two, and its loss forgets them and the last good samples. What fills them is silence. DESIGN CHOICE: log 184. -/
def Dev.setLock (d : Dev) (n : Nat) (v : Bool) : Dev :=
  let g := n / 8
  if d.getAt Reg.PORTS.LANE_STAT.LOCK g (n % 8) = b2n v then d
  else
    let d := d.putAt Reg.PORTS.LANE_STAT.LOCK g (n % 8) (b2n v)
    let d :=
      if v then
        if d.buffered n then
          d.each (List.range (d.laneKind n).channels) fun d c =>
            d.modPorts fun p => { p with elastic := tabSet p.elastic (chanKey n c) [0#28, 0#28] }
        else d
      else
        let d := if d.laneOut n then d else d.zeroRest n
        d.modPorts fun p =>
          { p with good := tabDelRange p.good (chanKey n 0) (chanKey (n + 1) 0)
                   elastic := tabDelRange p.elastic (chanKey n 0) (chanKey (n + 1) 0) }
    (d.raise (0x070 + g) 0).pulseShared (96 + n)

/-- RATE_OK and MADI_CH of an input lane that carries its own clock. DEDUCED: log 62. -/
def Dev.setFound (d : Dev) (n rate ch : Nat) : Dev :=
  (d.putAt Reg.PORTS.LANE_STAT.RATE_OK (n / 8) (n % 8) rate).putAt Reg.PORTS.LANE_STAT.MADI_CH (n / 8) (n % 8) ch

/-- RATE_OK of a running lane with a group clock: an audio input receives Fp (R326, R352). -/
def Dev.rateFound (d : Dev) (n : Nat) : Nat := b2n (!d.laneOut n && d.laneKind n ≠ .sensor)

/-- LOCK follows the lane where nothing must be found on the wire: a running output, and a running input with a group
clock. An AES3 or MADI input keeps its lock while it runs. DEDUCED: log 62. -/
def Dev.settleLock (d : Dev) (n : Nat) : Dev :=
  if !d.isOn (domPorts (n / 8)) then d
  else if d.laneRuns n && !((d.laneKind n).ownClock && !d.laneOut n) then (d.setLock n true).setFound n (d.rateFound n) 0
  else if d.laneRuns n then d
  else (d.setLock n false).setFound n 0 0

/-- A receiver loses lock. -/
def Dev.loseLock (d : Dev) (n : Nat) : Dev :=
  if (d.laneKind n).ownClock && !d.laneOut n then (d.setLock n false).setFound n 0 0 else d

/-- CFG_BAD follows the configuration; it raises CFG_BAD as a lane becomes refused (R327). DEDUCED: log 59. -/
def Dev.settleBad (d : Dev) (n : Nat) : Dev :=
  let g := n / 8
  if !d.isOn (domPorts g) then d
  else
    let bad := decide (d.laneKind n = .bad)
    let was := d.getAt Reg.PORTS.LANE_STAT.CFG_BAD g (n % 8) = 1
    let d := d.putAt Reg.PORTS.LANE_STAT.CFG_BAD g (n % 8) (b2n bad)
    if bad && !was then d.raise (0x070 + g) 5 else d

/-- A group whose clock the device drives has no external clock. DEDUCED: log 56. -/
def Dev.settleGroup (d : Dev) (g : Nat) : Dev :=
  if d.isOn (domPorts g) && d.getAt Reg.PORTS.GCFG.MASTER g 0 = 1 && d.getAt Reg.PORTS.GSTAT.GLOCK g 0 = 1 then
    ((d.putAt Reg.PORTS.GSTAT.GLOCK g 0 0).putAt Reg.PORTS.GSTAT.PHASE g 0 0).raise (0x070 + g) 4
  else d

/-- A group's lanes stop while the bit clock relocks, for at most 45 µs, as after a change of its configuration (R351,
R471). The manual states no shorter time: how many sample periods is a free value. DESIGN CHOICE: log 185. -/
def Dev.relock (d : Dev) (g : Nat) : Dev :=
  let at_ := ((d.ports.next.filter fun e => e.1 / 512 = g).map (·.2)).foldl Nat.max 0
  let (k, d) := d.freeBelow 8 (45 * d.fp / 1000000 + 2)
  let d := d.modPorts fun p => { p with stopped := tabSet p.stopped g (at_ + k) }
  d.each ((List.range 8).map (8 * g + ·)) Dev.settleLock

/-- A group's lanes run again from the position that they stopped for. DESIGN CHOICE: log 185. -/
def Dev.groupGo (d : Dev) (g pos : Nat) : Dev :=
  match tabFind d.ports.stopped g with
  | some k =>
    if k ≤ pos then
      (d.modPorts fun p => { p with stopped := tabDel p.stopped g }).each ((List.range 8).map (8 * g + ·)) Dev.settleLock
    else d
  | none => d

/-! Updates of the port table (R338, R342, R343). -/

/-- An update is applied. DEDUCED: log 155. -/
def Dev.ptApply (d : Dev) (v : DW) : Dev :=
  (d.modPorts fun p => { p with table := tabSet p.table (bitsOf v.toNat 27 18) v }).put Reg.PORT_TABLE.PT_WRITE.UPDATE v.toNat

/-- A write to the staged mirror of PT_WRITE appends an update. DEDUCED: log 155. -/
def Dev.ptQueue (d : Dev) (v : DW) : Dev :=
  if d.ports.queue.length < 1024 then d.modPorts fun p => { p with queue := p.queue ++ [v] } else d.raise 0x078 2

/-- The commit of the page applies the queued updates in the order written. -/
def Dev.ptCommit (d : Dev) : Dev := (d.ports.queue.foldl Dev.ptApply d).modPorts fun p => { p with queue := [] }

/-- BUF_BASE is valid for the frame size. -/
def Dev.baseOk (d : Dev) : Bool :=
  let b := d.get Reg.PORT_TABLE.BUF_BASE.ADDR
  b % 2 = 0 && 0x1000000 ≤ b && b + 8192 * d.frameSize ≤ 0x1800000

/-- The ports whose entry is enabled, in ascending order. -/
def Dev.ptEnabled (d : Dev) : List Nat := (d.ports.table.filter (fun e => entryEn e.2.toNat)).map (·.1)

/-- An output port is shadowed by a lower-numbered enabled output of the same lane and channel. DEDUCED: log 60. -/
def Dev.ptShadowed (d : Dev) (ports : List Nat) (p : Nat) : Bool :=
  let e := d.ptEntry p
  entryOut e && ports.any (fun q => q < p && entryOut (d.ptEntry q)
    && entryLane (d.ptEntry q) = entryLane e && entryChan (d.ptEntry q) = entryChan e)

/-- An enabled entry meets what its lane, its direction, its channel and BUF_BASE ask. -/
def Dev.ptFits (d : Dev) (p : Nat) : Bool :=
  let e := d.ptEntry p
  let n := entryLane e
  let leaves := match d.power.entry with | some x => x.past && x.doms.any (·.1 = domPorts (n / 8)) | none => false
  d.baseOk && d.laneKind n ≠ .bad && d.isOn (domPorts (n / 8)) && !leaves && entryOut e == d.laneOut n
    && entryChan e < (d.laneKind n).channels

/-- The entries are evaluated anew at a boundary (R338, R343). DEDUCED: log 59, 60. -/
def Dev.ptEvaluate (d : Dev) : Dev :=
  let en := d.ptEnabled
  let sh := en.filter (d.ptShadowed en)
  let act := en.filter fun p => d.ptFits p && !sh.contains p
  let gone := d.ports.active.any fun p => en.contains p && !act.contains p
  let hidden := sh.any fun p => !d.ports.shadowed.contains p
  let bad := !en.isEmpty && !d.baseOk
  let first := bad && !d.ports.badBase
  let d := d.modPorts fun p => { p with active := act, shadowed := sh, badBase := bad }
  d.raiseMask 0x078 (b2n hidden + 2 * b2n first + 8 * b2n gone)

/-! Words on the wire (R328 to R331). -/

/-- Bits hi down to lo of a word hold an odd number of ones. PRESUMED: log 183. -/
def oddOnes (w : Cont) (hi lo : Nat) : Bool := (bitList (bitsOf w.toNat hi lo) (hi + 1 - lo)).length % 2 = 1

/-- The lane's input word as a DW (R328, R329); an AES3 or MADI subframe has its audio in bits 27 to 4.
PRESUMED: log 183. -/
def LaneKind.toDW (k : LaneKind) (w : Cont) : DW :=
  match k with
  | .aes3 => w.extractLsb' 4 24 ++ 0#4
  | .madi _ => w.extractLsb' 4 24 ++ 0#4
  | .sensor => (w.extractLsb' 2 14).signExtend 28
  | _ => w.extractLsb' 4 28

/-- One step of the CRC of channel status. PRESUMED: log 183. -/
def statusCrcBit (c : Nat) : Nat := if c % 2 = 1 then c / 2 ^^^ 0xB8 else c / 2
def statusCrcByte (c b : Nat) : Nat := (List.range 8).foldl (fun c _ => statusCrcBit c) (c ^^^ b)

/-- The channel status of an AES3 output: professional, the sampling frequency of Fp, 24 bits, and the CRC in byte 23
(R330). PRESUMED: log 183. -/
def aesStatus (fb48 : Bool) (m : Nat) : List Nat :=
  let fs := if m = 1 then (if fb48 then 2 else 1) else 0
  let high := if m = 1 then 0 else (if m = 2 then 2 else 3) + (if fb48 then 0 else 8)
  let l := [1 + fs * 64, 0, 4 + 5 * 8, 0, high * 8] ++ List.replicate 18 0
  l ++ [l.foldl statusCrcByte 0xFF]

/-- The bit of channel status that frame f of a block carries. -/
def Dev.statusBit (d : Dev) (f : Nat) : Bool :=
  bitOf (((aesStatus (d.flag Reg.CLOCKS.CFG.FB) d.rateM)[f / 8]?).getD 0) (f % 8)

/-- Bit 31 makes the parity of bits 4 to 31 even. -/
def evenParity (w : Cont) : Cont := if oddOnes w 30 4 then w ||| 0x80000000#32 else w

/-- A DW as a lane sends it on a channel, in frame f of its channel-status block (R328 to R331): I²S and TDM words;
a SENSOR slot with V = 1 and odd parity; AES3 and MADI subframes with V and U at 0 and even parity, with channel status
at AES3, and at MADI with the mark of channel 0, the channel-active bit, the second subframe of a pair and the start of a
block. PRESUMED: log 183. -/
def Dev.toWord (d : Dev) (k : LaneKind) (chan f : Nat) (active : Bool) (v : DW) : Cont :=
  match k with
  | .aes3 => evenParity ((v.extractLsb' 4 24 ++ 0#4).setWidth 32 ||| (if d.statusBit f then 0x40000000#32 else 0#32))
  | .madi _ =>
    evenParity ((v.extractLsb' 4 24 ++ 0#4).setWidth 32
      ||| BitVec.ofNat 32 (b2n (chan = 0) + 2 * b2n active + 4 * (chan % 2) + 8 * b2n (f = 0)))
  | .sensor =>
    let w : Cont := (v.extractLsb' 0 14 ++ 0b10#2).setWidth 32
    if oddOnes w 15 0 then w else w ||| 1#32
  | _ => v ++ 0#4

/-! What an input lane checks (R333, R334, R344). -/

/-- LANE_PERR and LANE_VCNT count, with their event and source 96 + n (R344). DESIGN CHOICE: log 65. -/
def Dev.countPerr (d : Dev) (n : Nat) : Dev :=
  ((d.countS Reg.PORTS.LANE_PERR.COUNT Reg.PORTS.LANE_PERR.OVF (n / 8) (n % 8)).raise (0x070 + n / 8) 1).pulseShared (96 + n)
/-- DESIGN CHOICE: log 65. -/
def Dev.countVcnt (d : Dev) (n : Nat) : Dev :=
  ((d.countS Reg.PORTS.LANE_VCNT.COUNT Reg.PORTS.LANE_VCNT.OVF (n / 8) (n % 8)).raise (0x070 + n / 8) 2).pulseShared (96 + n)

/-- The value of an AES3 or MADI word as its lane passes it on (R344). DESIGN CHOICE: log 65. -/
def Dev.rxChecked (d : Dev) (n chan : Nat) (crcOk : Bool) (w : Cont) : DW × Dev :=
  let k := d.laneKind n
  let d := if k = .aes3 && !crcOk then d.countPerr n else d
  let key := chanKey n chan
  let inactive := (match k with | .madi _ => true | _ => false) && !w.getLsbD 1
  if oddOnes w 31 4 then (if inactive then 0#28 else tabGet 0#28 d.ports.good key, d.countPerr n)
  else
    let invalid := w.getLsbD 28
    let d := if invalid then d.countVcnt n else d
    if inactive || (invalid && d.getAt Reg.PORTS.LANE_CFG.VMUTE (n / 8) (n % 8) = 1) then (0#28, d)
    else (k.toDW w, d.modPorts fun p => { p with good := tabSet p.good key (k.toDW w) })

/-- The values of the words that arrive in a sample period. -/
def Dev.rxWords (d : Dev) (n chan : Nat) (crcOk : Bool) : List Cont → List DW × Dev
  | [] => ([], d)
  | w :: t =>
    let (v, d) := if (d.laneKind n).ownClock then d.rxChecked n chan crcOk w else ((d.laneKind n).toDW w, d)
    let (vs, d) := Dev.rxWords d n chan crcOk t
    (v :: vs, d)

/-- The elastic buffer of a channel takes what arrived and delivers its oldest sample (R333): one that would leave it
empty stays, and of more than three one is discarded; the lane slips once for all its channels.
DESIGN CHOICE: log 65, 184. -/
def Dev.throughBuffer (d : Dev) (n chan : Nat) (vs : List DW) : DW × Dev :=
  let key := chanKey n chan
  match tabGet [] d.ports.elastic key ++ vs with
  | [] => (0#28, d)
  | v :: t =>
    let slips := t.isEmpty || decide (4 ≤ t.length)
    let left := if t.isEmpty then [v] else if 4 ≤ t.length then t.drop 1 else t
    let d := d.modPorts fun p => { p with elastic := tabSet p.elastic key left }
    (v, if slips && chan = 0 then
        (d.countS Reg.PORTS.LANE_SLIP.COUNT Reg.PORTS.LANE_SLIP.OVF (n / 8) (n % 8)).raise (0x070 + n / 8) 3
      else d)

/-- A sample of a lane that is locked is captured. -/
def Dev.rxAudio (d : Dev) (n chan pos : Nat) (r : RxSample) : Dev :=
  let (vs, d) := d.rxWords n chan r.statusCrcOk r.words
  if d.buffered n then
    let (v, d) := d.throughBuffer n chan vs
    d.putIn n chan pos v
  else match vs with | v :: _ => d.putIn n chan pos v | [] => d

/-- A sensor slot: positions from this one on hold its reading, until the next (R334). DESIGN CHOICE: log 64. -/
def Dev.rxSensor (d : Dev) (n chan pos : Nat) (w : Cont) : Dev :=
  if !oddOnes w 15 0 then d.countPerr n
  else if !w.getLsbD 1 then d.countVcnt n
  else
    let v := LaneKind.sensor.toDW w
    let d := d.modPorts fun p => { p with sensor := tabSet p.sensor (chanKey n chan) v }
    d.each ((List.range d.frameSize).filter (pos ≤ ·)) fun d i => d.putIn n chan i v

/-- The channel counts that a MADI input accepts (R331). -/
def madiCounts (k : LaneKind) (ch : Nat) : Bool :=
  match k with | .madi n => ch = n || ch = n - n / 8 | _ => true

/-- LANE_SAMPLE_RX. -/
def Dev.laneRx (d : Dev) (n chan pos : Nat) (r : RxSample) : Dev :=
  let d := d.groupGo (n / 8) pos
  let k := d.laneKind n
  if d.laneOut n || !d.laneRuns n || k.channels ≤ chan || d.frameSize ≤ pos then d
  else
    let d := d.modPorts fun p => { p with next := tabSet p.next (chanKey n chan) (pos + 1) }
    if k.ownClock then
      if r.locked && r.rateOk && madiCounts k r.madiCh.toNat then
        ((d.setLock n true).setFound n 1 (match k with | .madi _ => r.madiCh.toNat | _ => 0)).rxAudio n chan pos r
      else ((d.setLock n false).setFound n (b2n r.rateOk) 0).putIn n chan pos 0#28
    else if k = .sensor then (match r.words with | w :: _ => d.rxSensor n chan pos w | [] => d)
    else d.rxAudio n chan pos r

/-- The sample that an output lane sends from a port, zero where R81, R339 or R341 asks for it, with what the read does
to the stored word. -/
def Dev.txSample (d : Dev) (p i : Nat) : DW × Dev :=
  match tabFind d.ports.rel (p / 4) with
  | none => (0#28, d)
  | some c =>
    let a := d.portAddr p c i
    if d.isCold a then (0#28, d) else (d.dwRead a, d.readCode a)

/-- LANE_SAMPLE_TX: zeros while the group's bit clock relocks. -/
def Dev.laneTx (d : Dev) (n chan pos : Nat) : Dev :=
  let d := d.groupGo (n / 8) pos
  let k := d.laneKind n
  let key := chanKey n chan
  let waits := (tabFind d.ports.stopped (n / 8)).isSome && k ≠ .off && k ≠ .bad
  if !d.laneOut n || !(d.laneRuns n || waits) || k.channels ≤ chan || d.frameSize ≤ pos then
    d.modPorts fun p => { p with tx := tabDel p.tx key, status := tabDel p.status key }
  else
    let ports := d.portsOf true n chan
    let (v, d) := match ports with
      | p :: _ => if waits then (0#28, d) else d.txSample p pos
      | [] => (0#28, d)
    let f := tabGet 0 d.ports.status key
    let w := d.toWord k chan f (!ports.isEmpty) v
    d.modPorts fun p => { p with tx := tabSet p.tx key w, status := tabSet p.status key ((f + 1) % 192) }

/-! The boundary (R43 order 2, R81, R341, R343, R350). -/

/-- The owner of a block of four ports; a value that names no slot is none. -/
def ownFld : Nat → RegFld
  | 0 => Reg.PORT_TABLE.PORT_OWNER.OWN0
  | 1 => Reg.PORT_TABLE.PORT_OWNER.OWN1
  | 2 => Reg.PORT_TABLE.PORT_OWNER.OWN2
  | _ => Reg.PORT_TABLE.PORT_OWNER.OWN3
/-- DESIGN CHOICE: log 67. -/
def Dev.portOwner (d : Dev) (b : Nat) : Nat := d.getAt (ownFld (b % 4)) 0 (b / 4)

/-- The copy that the lanes send from a block of ports, given the slots that completed frame k − 1 and those that
overran, with the series of each already counted. DESIGN CHOICE: log 67, 174. -/
def Dev.release (d : Dev) (done excess : List Nat) (b : Nat) : Option Nat :=
  let s := d.portOwner b
  if done.contains s then tabFind d.loader.lastDone s
  else if excess.contains s && tabGet 0 d.loader.series s = 1 then tabFind d.loader.lastDone s
  else none

/-- Order 2: output buffers pass to the lanes. DESIGN CHOICE: log 63, 67. -/
def Dev.portsOrder2 (d : Dev) (done excess : List Nat) : Dev :=
  let rel := (List.range 256).filterMap fun b => (d.release done excess b).map fun c => (b, c)
  let n := d.frameSize
  d.modPorts fun p => { p with rel := rel, next := [], stopped := p.stopped.map fun e => (e.1, e.2 - n) }

/-- An input port whose lane is not locked receives zeros; a sensor port begins the frame with its latest readings.
DEDUCED: log 60. DESIGN CHOICE: log 63, 64. -/
def Dev.portFresh (d : Dev) (p : Nat) : Dev :=
  let e := d.ptEntry p
  let n := entryLane e
  let k := d.laneKind n
  if entryOut e then d
  else if d.getAt Reg.PORTS.LANE_STAT.LOCK (n / 8) (n % 8) = 0 then
    d.each (List.range d.frameSize) fun d i => d.putSample p i 0#28
  else if k = .sensor then
    let v := tabGet 0#28 d.ports.sensor (chanKey n (entryChan e))
    d.each (List.range d.frameSize) fun d i => d.putSample p i v
  else d

/-- Lanes and entries are evaluated against the committed configuration, and capture of the new frame begins.
DEDUCED: log 59. -/
def Dev.portsEvaluate (d : Dev) : Dev :=
  let d := d.each (List.range 8) Dev.settleGroup
  let d := d.each (List.range 64) fun d n => (d.settleBad n).settleLock n
  let d := d.ptEvaluate
  d.each d.ports.active Dev.portFresh

/-! MIDI receive (R346, R347, R349). -/

def Dev.uart (d : Dev) (u : Nat) : Uart := tabGet Uart.reset d.ports.uart u
def Dev.modUart (d : Dev) (u : Nat) (f : Uart → Uart) : Dev :=
  d.modPorts fun p => { p with uart := tabMap Uart.reset p.uart u f }

/-- A MIDI item is pushed, or discarded where no hopper takes it. -/
def Dev.midiPush (d : Dev) (u prio type : Nat) (payload : List DW) : Dev :=
  let tag := u * 128 + (d.uart u).tag
  let d := d.modUart u fun x => { x with tag := (x.tag + 1) % 128 }
  let n := d.getAt Reg.MIDI.CFG.HOP 0 u
  if 6 ≤ n && (d.hopAcct n (66 + u)).isSome then
    d.hopPushAll n (66 + u) (itemHeader prio payload.length type tag :: payload)
  else (d.countS Reg.MIDI.RX_DROP_CNT.COUNT Reg.MIDI.RX_DROP_CNT.OVF 0 u).raise 0x079 1

/-- Word 1 of an item. -/
def Dev.midiStamp (d : Dev) (sub : Nat) : DW := BitVec.ofNat 28 (d.aon.frame.toNat % 2 ^ 22 * 64 + sub)

/-- A message of a status byte and its data bytes. -/
def Dev.midiMsg (d : Dev) (u type prio sub status : Nat) (data : List Nat) : Dev :=
  d.midiPush u prio type
    [BitVec.ofNat 28 (status * 2 ^ 16 + (data[0]?).getD 0 * 2 ^ 8 + (data[1]?).getD 0), d.midiStamp sub]

/-- Three bytes to a word. -/
def packBytes : List Nat → List DW
  | a :: b :: c :: t => BitVec.ofNat 28 (a * 2 ^ 16 + b * 2 ^ 8 + c) :: packBytes t
  | [a, b] => [BitVec.ofNat 28 (a * 2 ^ 16 + b * 2 ^ 8)]
  | [a] => [BitVec.ofNat 28 (a * 2 ^ 16)]
  | [] => []

/-- The gathered bytes of a system exclusive message are pushed; an item holds at least one. -/
def Dev.midiSysex (d : Dev) (u sub : Nat) (ends cut : Bool) : Dev :=
  let x := d.uart u
  let d := d.modUart u fun x => { x with sxData := [], sxStarted := true }
  if x.sxData.isEmpty then d
  else
    d.midiPush u (d.getAt Reg.MIDI.CFG.PRI 0 u) 0x083
      ([BitVec.ofNat 28 (b2n (!x.sxStarted) * 2 ^ 27 + b2n ends * 2 ^ 26 + b2n cut * 2 ^ 25 + x.sxData.length),
        d.midiStamp sub] ++ packBytes x.sxData)

/-- A byte of a system exclusive message. DESIGN CHOICE: log 69. -/
def Dev.midiSxByte (d : Dev) (u sub b : Nat) (ends : Bool) : Dev :=
  let d := d.modUart u fun x => { x with sxData := x.sxData ++ [b] }
  if ends || (d.uart u).sxData.length = 48 then d.midiSysex u sub ends false else d

/-- A status byte ends a system exclusive message that runs. DESIGN CHOICE: log 68, 69. -/
def Dev.midiCut (d : Dev) (u sub : Nat) : Dev :=
  if (d.uart u).sysex then (d.midiSysex u sub true true).modUart u fun x => { x with sysex := false } else d

/-- Data bytes of a message by its status byte. -/
def midiLen (s : Nat) : Nat :=
  if s < 0xC0 then 2 else if s < 0xE0 then 1 else if s < 0xF0 then 2
  else if s = 0xF2 then 2 else if s = 0xF1 || s = 0xF3 then 1 else 0

/-- The message being assembled is pushed once it is complete. DESIGN CHOICE: log 68. -/
def Dev.midiTry (d : Dev) (u sub : Nat) : Dev :=
  let x := d.uart u
  if x.msg ≠ 0 && x.data.length = midiLen x.msg then
    let d := d.modUart u fun x => { x with msg := 0, data := [] }
    d.midiMsg u (if x.msg < 0xF0 then 0x080 else 0x081) (d.getAt Reg.MIDI.CFG.PRI 0 u) sub x.msg x.data
  else d

/-- A byte or message is discarded and counted. DESIGN CHOICE: log 68. -/
def Dev.midiErr (d : Dev) (u : Nat) : Dev :=
  (d.countS Reg.MIDI.RX_ERR_CNT.COUNT Reg.MIDI.RX_ERR_CNT.OVF 0 u).raise 0x079 0

/-- A byte with correct framing. DESIGN CHOICE: log 68. -/
def Dev.midiGood (d : Dev) (u sub b : Nat) : Dev :=
  if 0xF8 ≤ b then
    let d := if b = 0xFE then d.putAt Reg.MIDI.STAT.AS_SEEN 0 u 1 else d
    if b = 0xFE && d.getAt Reg.MIDI.CFG.AS_FILT 0 u = 1 then d
    else d.midiMsg u 0x082 (d.getAt Reg.MIDI.CFG.RT_PRI 0 u) sub b []
  else if b = 0xF7 then
    if (d.uart u).sysex then (d.midiSxByte u sub b true).modUart u fun x => { x with sysex := false }
    else (d.modUart u fun x => { x with status := 0, msg := 0, data := [] }).midiErr u
  else if b = 0xF0 then
    (d.midiCut u sub).modUart u fun x =>
      { x with status := 0, msg := 0, data := [], sysex := true, sxData := [b], sxStarted := false }
  else if 0x80 ≤ b then
    let d := d.midiCut u sub
    (d.modUart u fun x => { x with status := if b < 0xF0 then b else 0, msg := b, data := [] }).midiTry u sub
  else
    let x := d.uart u
    if x.sysex then d.midiSxByte u sub b false
    else if x.msg ≠ 0 then (d.modUart u fun x => { x with data := x.data ++ [b] }).midiTry u sub
    else if x.status ≠ 0 then (d.modUart u fun x => { x with msg := x.status, data := [b] }).midiTry u sub
    else d.midiErr u

/-- A byte at the receiver (R346, R349). DESIGN CHOICE: log 68. -/
def Dev.midiByte (d : Dev) (u sub : Nat) (b : MidiByte) : Dev :=
  let d := (d.putAt Reg.MIDI.STAT.RX_ACTIVE 0 u 1).putAt Reg.MIDI.STAT.AS_TIMEOUT 0 u 0
  if b.framingOk then d.midiGood u sub b.val.toNat
  else (d.modUart u fun x => { x with msg := 0, data := [], sysex := false, sxData := [], sxStarted := false }).midiErr u

def Dev.midiBytes (d : Dev) (u sub : Nat) (l : List MidiByte) : Dev :=
  if d.isOn (domPorts 0) then l.foldl (fun d b => d.midiByte u sub b) d else d

/-- AON receives a byte while PORTS0 is not ON (R400). DESIGN CHOICE: log 70. -/
def Dev.midiAon (d : Dev) (u : Nat) (b : MidiByte) : Dev :=
  if d.isOn (domPorts 0) then d
  else if (tabGet [] d.power.midiRx u).length < 4 then
    d.modPower fun p => { p with midiRx := tabMap [] p.midiRx u (· ++ [b]) }
  else d.countS Reg.MIDI.RX_ERR_CNT.COUNT Reg.MIDI.RX_ERR_CNT.OVF 0 u

/-- The bytes that AON holds are delivered once PORTS0 is ON and the frame clock runs, at subdivision 0 of the frame.
DESIGN CHOICE: log 70. -/
def Dev.midiDeliver (d : Dev) : Dev :=
  if d.isOn (domPorts 0) && d.flag Reg.CLOCKS.STATUS.FRAME_RUN then
    let held := d.power.midiRx
    (d.modPower fun p => { p with midiRx := [] }).each [0, 1] fun d u => d.midiBytes u 0 (tabGet [] held u)
  else d

/-- No byte for 300 ms (R349). -/
def Dev.midiQuiet (d : Dev) (u : Nat) : Dev :=
  if d.isOn (domPorts 0) then
    let d := d.putAt Reg.MIDI.STAT.RX_ACTIVE 0 u 0
    if d.getAt Reg.MIDI.STAT.AS_SEEN 0 u = 1 && d.getAt Reg.MIDI.STAT.AS_TIMEOUT 0 u = 0 then
      (d.putAt Reg.MIDI.STAT.AS_TIMEOUT 0 u 1).raise 0x079 3
    else d
  else d

/-! MIDI transmit (R348). -/

/-- An idle transmitter takes the next byte. DESIGN CHOICE: log 71. -/
def Dev.midiTake (d : Dev) (u : Nat) : Dev :=
  d.modUart u fun x =>
    match x.sending, x.fifo with
    | none, b :: t => { x with sending := some b, fifo := t }
    | _, _ => x

/-- A byte is queued. DESIGN CHOICE: log 71. -/
def Dev.midiQueue (d : Dev) (u : Nat) (b : Byte) : Dev :=
  if (d.uart u).fifo.length < 256 then (d.modUart u fun x => { x with fifo := x.fifo ++ [b] }).midiTake u
  else (d.countS Reg.MIDI.TX_DROP_CNT.COUNT Reg.MIDI.TX_DROP_CNT.OVF 0 u).raise 0x079 2

/-- A write of MIDI.TX_DATA; nothing is reached while PORTS0 is not ON. -/
def Dev.midiTxData (d : Dev) (u : Nat) (v : DW) : Dev :=
  if d.isOn (domPorts 0) then d.midiQueue u (v.extractLsb' 0 8) else d

/-- A byte has been sent. -/
def Dev.midiSent (d : Dev) (u : Nat) : Dev :=
  if d.isOn (domPorts 0) then (d.modUart u fun x => { x with sending := none }).midiTake u else d

/-- Pop n words of a hopper. -/
def Dev.hopPopN (d : Dev) (n : Nat) : Nat → List DW × Dev
  | 0 => ([], d)
  | k + 1 =>
    let w := d.hopNext n
    let (ws, d) := (d.hopPop n).hopPopN n k
    (w :: ws, d)

/-- The bytes of words that hold three each. DESIGN CHOICE: log 71. -/
def unpackBytes (ws : List DW) : List Byte := ws.flatMap fun w => [w.extractLsb' 16 8, w.extractLsb' 8 8, w.extractLsb' 0 8]

/-- The ACTIVE control core forwards the next item of TX_HOP; an item of another type, or one with a word that could
not be read, is discarded. DESIGN CHOICE: log 71. -/
def Dev.midiForward (d : Dev) (u : Nat) : Dev :=
  let n := d.getAt Reg.MIDI.CFG.TX_HOP 0 u
  if 6 ≤ n && d.served && d.isOn (domPorts 0) && d.isOn domHoppers && d.hopConsumer n = 64 then
    match (d.hop n).next with
    | none => d
    | some w =>
      let bad := (d.hop n).nextTags.any WordTag.bad
      let (ws, d) := d.hopPopN n (w.left + 1)
      let d := (d.hopMark n false).hopRelease n false
      if w.head && bitsOf w.val.toNat 18 8 = 0x084 && !bad then
        ((unpackBytes (ws.drop 3)).take (bitsOf ((ws[1]?).getD 0#28).toNat 5 0)).foldl (fun d b => d.midiQueue u b) d
      else d
  else d

/-! Group clocks and rails (R344, R352, R476, R480). -/

/-- The pads of a lane group reach the group: neither held nor without their rail (R404, R476). -/
def Dev.padsSeen (d : Dev) (g : Nat) : Bool := !d.power.held.contains (4 + g) && !d.power.railLost.contains (4 + g)

/-- External BCLK and FSYNC of a group become present or absent. -/
def Dev.glockChange (d : Dev) (g : Nat) (here : Bool) (phase : Byte) : Dev :=
  let present := here && d.padsSeen g
  if d.isOn (domPorts g) && d.getAt Reg.PORTS.GCFG.MASTER g 0 = 0 then
    let was := d.getAt Reg.PORTS.GSTAT.GLOCK g 0 = 1
    let d := d.putAt Reg.PORTS.GSTAT.GLOCK g 0 (b2n present)
    let d := d.putAt Reg.PORTS.GSTAT.PHASE g 0 (if present then phase.toNat else 0)
    let d := if was = present then d else d.raise (0x070 + g) 4
    d.each ((List.range 8).map (8 * g + ·)) Dev.settleLock
  else d

/-- The domain of an I/O rail and its pad group. -/
def railDom : Rail → Nat
  | .lane g => domPorts g.val
  | .flash p => domFlash p.val
def railGroup : Rail → Nat
  | .lane g => 4 + g.val
  | .flash p => p.val

/-- A rail leaves tolerance while its domain is ON: a lane group's pads go high-impedance. DESIGN CHOICE: log 66. -/
def Dev.railLoss (d : Dev) (r : Rail) : Dev :=
  let d := if d.isOn (railDom r) || d.power.held.contains (railGroup r) then
      d.modPower fun p => { p with railLost := setInsert p.railLost (railGroup r) }
    else d
  match r with
  | .lane g =>
    let d := d.each ((List.range 8).map (8 * g.val + ·)) Dev.settleLock
    d.modPorts fun p => { p with tx := tabDelRange p.tx (chanKey (8 * g.val) 0) (chanKey (8 * g.val + 8) 0) }
  | .flash _ => d

/-- The rail returns. DESIGN CHOICE: log 66. -/
def Dev.railReturn (d : Dev) (r : Rail) : Dev :=
  let d := d.modPower fun p => { p with railLost := setErase p.railLost (railGroup r) }
  match r with
  | .lane g => d.each ((List.range 8).map (8 * g.val + ·)) Dev.settleLock
  | .flash _ => d

/-! The commands. -/

def execLaneSampleRx (lane : Fin 64) (chan : BitVec 6) (pos : BitVec 7) (r : RxSample) (s : State) :
    Host.Outcome State Fault Refusal := .next (s.onDev fun d => (d.laneRx lane.val chan.toNat pos.toNat r).settle)

def execLaneSampleTx (lane : Fin 64) (chan : BitVec 6) (pos : BitVec 7) (s : State) : Host.Outcome State Fault Refusal :=
  .next (s.onDev fun d => (d.laneTx lane.val chan.toNat pos.toNat).settle)

def execMidiRxMessage (u : Fin 2) (bytes : List MidiByte) (sub : BitVec 6) (s : State) :
    Host.Outcome State Fault Refusal := .next (s.onDev fun d => (d.midiBytes u.val sub.toNat bytes).settle)

def execAsTimeout (u : Fin 2) (s : State) : Host.Outcome State Fault Refusal :=
  .next (s.onDev fun d => (d.midiQuiet u.val).settle)

def execTxData (u : Fin 2) (v : DW) (s : State) : Host.Outcome State Fault Refusal :=
  .next (s.onDev fun d => (d.midiTxData u.val v).settle)

def execMidiTxForward (u : Fin 2) (s : State) : Host.Outcome State Fault Refusal :=
  .next (s.onDev fun d => (d.midiForward u.val).settle)

def execMidiTxByte (u : Fin 2) (s : State) : Host.Outcome State Fault Refusal :=
  .next (s.onDev fun d => (d.midiSent u.val).settle)

def execMidiAonRx (u : Fin 2) (b : MidiByte) (s : State) : Host.Outcome State Fault Refusal :=
  .next (s.onDev fun d => (d.midiAon u.val b).settle)

def execGlockChange (g : Fin 8) (present : Bool) (phase : Byte) (s : State) : Host.Outcome State Fault Refusal :=
  .next (s.onDev fun d => (d.glockChange g.val present phase).settle)

def execLaneLockLoss (lane : Fin 64) (s : State) : Host.Outcome State Fault Refusal :=
  .next (s.onDev fun d => (d.loseLock lane.val).settle)

def execIoRailLoss (r : Rail) (s : State) : Host.Outcome State Fault Refusal :=
  .next (s.onDev fun d => (d.railLoss r).settle)

def execIoRailReturn (r : Rail) (s : State) : Host.Outcome State Fault Refusal :=
  .next (s.onDev fun d => (d.railReturn r).settle)

end Sys2Proof.Machine
end

