-- ==== Sys2Proof/Machine/Access.lean ====
section
/-! DEFINITION. The core address space: the checks of an access, what a load reads, and what a load and a store do
(R93, R94, R96 to R99, R147, R196, R197, R229, R247 to R249, R272). -/

namespace Sys2Proof.Machine

/-- How a core reads and writes a register page (R99, R467): core, page and live or mirror offset; and what follows where
a slot stops, as bank ports become free (R58). -/
structure PageOps where
  read : Dev → Nat → Nat → Nat → DW × Dev
  write : Dev → Nat → Nat → Nat → DW → Dev
  serve : Dev → Dev

/-- No page can be reached: the pages as a DSP core sees them. -/
def PageOps.none : PageOps := ⟨fun d _ _ _ => (0, d), fun d _ _ _ _ => d, fun d => d⟩

/-! The address map (R93, R97). -/

/-- What an address range holds. -/
inductive Region where
  | mem
  | prog
  | pages
  | hop
  | slotLocal
  | unmapped
  deriving DecidableEq, Repr

/-- The page and offset of a control core's page address (R99). -/
def pageAt (a : Nat) : Nat := (a - 0xE000000) / 0x800
def pageOff (a : Nat) : Nat := evenOf ((a - 0xE000000) % 0x800) * 2

/-- The range that a W address lies in, as a DSP core or a control core sees it. Beyond the last image slot of R98 the
program range holds nothing. DESIGN CHOICE: log 176. -/
def regionOf (ctrl : Bool) (a : Nat) : Region :=
  if a < 0x80000 || (ctrl && a < 0x800000) then .mem
  else if (0x1000000 ≤ a && a < 0x1800000) || (0x2000000 ≤ a && a < 0x4000000) then .mem
  else if ctrl && 0xC000000 ≤ a && a < 0xC300000 then .mem
  else if 0xD000000 ≤ a && a < 0xE000000 then
    if ctrl then (if a < 0xD400000 then .mem else .unmapped) else .prog
  else if ctrl && 0xE000000 ≤ a && a < 0xF000000 then (if (pageInfo (pageAt a)).isSome then .pages else .unmapped)
  else if 0xF000000 ≤ a && a < 0xF000400 then .hop
  else if 0xF100000 ≤ a && a < 0xF101000 then .slotLocal
  else .unmapped

/-- The W addresses of an access of n W. -/
def accWords (a : DW) (n : Nat) : List Nat := (List.range n).map fun k => (a + BitVec.ofNat 28 k).toNat

/-- The memory address of a core's W address: a slot's hearth memory is its own (R93, R97). -/
def memAddr (core a : Nat) : Nat := if core < 64 then slotAddr core a else a

/-- The hopper of a port address, and the even offset of the register in its block (R248). -/
def hopOf (a : Nat) : Nat := (a - 0xF000000) / 0x40
def hopReg (a : Nat) : Nat := evenOf ((a - 0xF000000) % 0x40)

/-- A slot's access to a hopper's port block that R247 refuses. -/
def Dev.hopDenied (d : Dev) (slot a : Nat) (store : Bool) : Bool :=
  let n := hopOf a
  let r := hopReg a
  let cons := decide (d.hopConsumer n = slot)
  let prod := (d.hopAcct n slot).isSome
  (!cons && !prod)
    || (!cons && (if store then 0x0C ≤ r && r ≤ 0x12 else r ≤ 0x04 || r = 0x14))
    || (!prod && store && r = 0x08)

/-- A W lies in a window that grants the access (R56, R94 order 3). -/
def SlotCfg.grants (c : SlotCfg) (a : Nat) (store : Bool) : Bool :=
  c.wins.any fun w => decide (w.base ≤ a) && decide (a ≤ w.limit) && (if store then w.wr else w.rd)

/-- ECAUSE.ACCESS of a data access (R206). -/
def accessCode (store : Bool) : Nat := b2n store

/-- The checks of R94 on an access of n W (1, 2 or 4) at level `priv`: the first exception that applies, poison left
out. -/
def Dev.accCheck (d : Dev) (core priv : Nat) (store : Bool) (a : DW) (n : Nat) : Option Exc :=
  let ctrl := decide (64 ≤ core)
  let ws := accWords a n
  let rs := ws.map (regionOf ctrl)
  let exc (c : Nat) : Option Exc := some ⟨c, some a, accessCode store⟩
  if store && rs.contains .prog then exc 0x08
  else if rs.contains .unmapped || rs.contains .prog then exc 0x07
  else if !ctrl && ws.any (fun w => regionOf ctrl w = .hop && d.hopDenied core w store) then exc 0x07
  else if !ctrl && priv ≠ 3 && ws.any (fun w => regionOf ctrl w = .mem && !(d.slotCfg core).grants w store) then exc 0x07
  else if decide (2 ≤ n) && a.getLsbD 0 then exc 0x06
  else if n = 4 && rs.contains .mem && memBank (memAddr core a.toNat) ≠ memBank (memAddr core (a.toNat + 2)) then exc 0x06
  else if n ≠ 2 && rs.contains .hop then exc 0x06
  else if n = 1 && store && rs.contains .pages then exc 0x06
  else
    match ws.find? (fun w => regionOf ctrl w = .mem && d.isCold (memAddr core w)) with
    | some w =>
      some ⟨0x0C, some a, ((memBank (memAddr core w)).map (·.1)).getD 0 * 256 + accessCode store⟩
    | none => none

/-! Poison (R196, R197). -/

/-- The first W of a load whose stored word is uncorrectable, by its memory address. -/
def Dev.poisonIn (d : Dev) (core : Nat) (a : DW) (n : Nat) : Option Nat :=
  ((accWords a n).find? (fun w => regionOf (decide (64 ≤ core)) w = .mem && d.poisonAt (memAddr core w))).map (memAddr core)

/-- What a load of a poisoned word leads to, the rows of R197 in order. -/
inductive Reaction where
  /-- the run wrote the DW itself: restart on the same core -/
  | restart
  /-- a copy of a state block -/
  | block
  /-- stream data: the load returns 0 -/
  | stream
  /-- an exchange bank -/
  | group
  /-- control memory, for a control core: the firmware rebuilds it -/
  | rebuild
  /-- any other word: exception 0x0D -/
  | raise
  deriving DecidableEq, Repr

/-- DEDUCED: log 140. -/
def Dev.reaction (d : Dev) (core a : Nat) : Reaction :=
  if core < 64 then
    if (d.core core).written.contains (evenOf a) then .restart
    else if d.blocks.any (·.holds a) then .block
    else if d.isStreamWord a then .stream
    else if (match d.loader.run with | some i => i.banks.any (fun r => r.exchange && r.covers a) | none => false) then .group
    else .raise
  else if 0xC000000 ≤ a && a < 0xC300000 then .rebuild
  else .raise

/-! What a load reads. -/

/-- A register of the slot-local block (R96, R229, R272), as a load issued in a step reads it. DEDUCED: log 138. -/
def Dev.localReg (d : Dev) (slot step r : Nat) : DW :=
  let c := d.core slot
  let sel := ((c.sels.filter (fun x => x.1 + 4 ≤ step)).getLast?.map (·.2)).getD c.sel
  let blk (wr : Bool) (i : Nat) : DW :=
    match d.blocks.find? (fun b => b.slot = slot && b.index = i) with
    | some b => BitVec.ofNat 28 (if (b.gen % 2 = 0) != wr then b.base0 else b.base1)
    | none => 0
  if r = 0x00 then BitVec.ofNat 28 slot
  else if r = 0x02 then c.frameNo.extractLsb' 0 28
  else if r = 0x04 then (c.frameNo.extractLsb' 28 20).setWidth 28
  else if r = 0x06 then BitVec.ofNat 28 c.phase
  else if r = 0x08 then c.traps.setWidth 28
  else if 0x40 ≤ r && r < 0x80 then blk (decide (r % 4 = 2)) ((r - 0x40) / 4)
  else if r = 0x80 then sel
  else if r = 0x82 then d.startResult slot (bitsOf sel.toNat 13 0)
  else if r = 0x88 then d.nextNotice slot
  else if r = 0x8A then BitVec.ofNat 28 (d.noticeList slot).length
  else if r = 0x100 then ((d.pendPriv slot).extractLsb' 0 16).setWidth 28
  else if r = 0x102 then ((d.pendPriv slot).extractLsb' 16 16).setWidth 28
  else if r = 0x104 then d.runningReg slot
  else if r = 0x10A then c.timer.setWidth 28
  else 0

/-- The identity of a core at a hopper, none for a control core that does not hold ACTIVE (R244). -/
def Dev.hopIdentity (d : Dev) (core : Nat) : Option Nat :=
  if core < 64 then some core else if d.active = core - 64 then some 64 else none

/-- A core consumes a hopper. -/
def Dev.consumes (d : Dev) (core n : Nat) : Bool := d.hopIdentity core = some (d.hopConsumer n)

/-- A register of a hopper's port block as a load reads it (R248). What a control core that is not the consumer reads
of the item being read is not stated. DEDUCED: log 139. DESIGN CHOICE: log 10. -/
def Dev.hopRegRead (d : Dev) (core n r : Nat) : DW :=
  let mine (v : DW) : DW := if d.consumes core n then v else BitVec.ofNat 28 (Config.openValue 2 [core, n, r])
  if r = 0x00 || r = 0x02 then mine (d.hopNext n)
  else if r = 0x04 then mine (d.hop n).item
  else if r = 0x06 then BitVec.ofNat 28 (d.hop n).fill
  else if r = 0x0A then
    (match (d.hopIdentity core).bind (d.hopAcct n) with | some k => BitVec.ofNat 28 (d.hopAvail n k) | none => 0)
  else if r = 0x14 then
    mine (BitVec.ofNat 28 (16 * d.getAt Reg.HOP.DROP_RES.ABORT_LATE n 0 + d.getAt Reg.HOP.DROP_RES.STATUS n 0))
  else 0

/-- The DW at an even address as a load issued in a step reads it; `whole` is false for a W load. -/
def Dev.loadDW (d : Dev) (P : PageOps) (core step a : Nat) (whole : Bool) : DW :=
  match regionOf (decide (64 ≤ core)) a with
  | .mem => d.dwRead (memAddr core a)
  | .hop => d.hopRegRead core (hopOf a) (hopReg a)
  | .slotLocal =>
    if core < 64 && (whole || a ≠ 0xF100082) then d.localReg core step (a - 0xF100000) else 0
  | .pages => (P.read d core (pageAt a) (pageOff a)).1
  | _ => 0

/-- The W at an address. DEDUCED: log 139. -/
def Dev.loadW (d : Dev) (P : PageOps) (core step a : Nat) : W :=
  halfOf (d.loadDW P core step (evenOf a) false) (a % 2 = 1)

/-- A store to memory; a control core's store to a running image slot is discarded (R98). -/
def Dev.memStoreDW (d : Dev) (m : Nat) (v : DW) : Dev := if d.inRunning m then d else d.storeDW m v
def Dev.memStoreW (d : Dev) (m : Nat) (v : W) : Dev := if d.inRunning m then d else d.storeW m v

/-! Memory as a core sees it behind the stores that its damper holds (R153, R156). -/

def Dev.aheadD (d : Dev) (core a : Nat) (v : DW) : Dev :=
  if regionOf (decide (64 ≤ core)) a = .mem then d.memStoreDW (memAddr core a) v else d

def Dev.aheadOut (core : Nat) (d : Dev) : HeldOut → Dev
  | .storeD a v _ _ => d.aheadD core a.toNat v
  | .storeP a v w _ _ => (d.aheadD core a.toNat v).aheadD core (a.toNat + 2) w
  | .storeW a v _ _ =>
    if regionOf (decide (64 ≤ core)) a.toNat = .mem then d.memStoreW (memAddr core a.toNat) v else d
  | _ => d

/-- The device with every held store to memory made: what the core's own loads read. -/
def Dev.ahead (d : Dev) (core : Nat) : Dev :=
  (d.heldOf core).foldl (fun d h => h.outs.foldl (Dev.aheadOut core) d) d

/-! What a load does beside reading (R156, R248, R272). -/

/-- The effect of the load of one DW, or of a W of it; a word that is forwarded from a held store reads no code. -/
def Dev.loadEffect (d : Dev) (P : PageOps) (core step a : Nat) (whole : Bool) : Dev :=
  match regionOf (decide (64 ≤ core)) a with
  | .mem =>
    let m := memAddr core a
    if d.tagAt m = .good || (d.ahead core).tagAt m = .good then d
    else
      let d' := d.readCode m
      if d.poisonAt m && d.reaction core m = .stream then d'.streamBad m
      else if d.poisonAt m && d.blocks.any (·.holds m) then d'.askReset m
      else d'
  | .hop =>
    if d.consumes core (hopOf a) then
      (if hopReg a = 0x00 then d.hopTake (hopOf a) else if hopReg a = 0x02 then d.hopPeek (hopOf a) else d)
    else d
  | .slotLocal =>
    if core < 64 then
      if a = 0xF100082 && whole then d.doStart core (bitsOf (d.localReg core step 0x80).toNat 13 0)
      else if a = 0xF100088 then d.readNotice core
      else d
    else d
  | .pages => (P.read d core (pageAt a) (pageOff a)).2
  | _ => d

/-- The effect of a load of n W. -/
def Dev.doLoad (d : Dev) (P : PageOps) (core step : Nat) (a : DW) (n : Nat) : Dev :=
  if n = 1 then d.loadEffect P core step (evenOf a.toNat) false
  else if n = 2 then d.loadEffect P core step a.toNat true
  else (d.loadEffect P core step a.toNat true).loadEffect P core step (a.toNat + 2) true

/-! What a store does (R29, R98, R196, R229, R248, R272). -/

/-- A store to a register of a hopper's port block. -/
def Dev.hopRegWrite (d : Dev) (core n r : Nat) (v : DW) : Dev :=
  let slot := decide (core < 64)
  if r = 0x08 then
    match d.hopIdentity core with
    | some p => d.hopPush n p v
    | none => d.hopPush n 0x7F v
  else if d.consumes core n then
    if r = 0x0C then d.hopMark n slot
    else if r = 0x0E then d.hopRewind n
    else if r = 0x10 then d.hopRelease n slot
    else if r = 0x12 then d.hopDrop n
    else d
  else d

/-- The instant at which a store to SEL is made: START sees it from 4 steps after the last step of its bundle on. The
selection is the core's own, so a discarded bundle takes it back with the registers. -/
def Dev.selWrite (d : Dev) (slot : Nat) (v : DW) (last : Nat) : Dev :=
  let now := d.localReg slot last 0x80
  d.modCore slot fun c =>
    { c with sel := now, sels := c.sels.filter (fun x => last < x.1 + 4) ++ [(last, v &&& 0x3FFF)] }

/-- The part of a store that writes SEL. -/
def Dev.selStore (d : Dev) (core last : Nat) : HeldOut → Dev
  | .storeD a v _ _ => if core < 64 && a = 0xF100080#28 then d.selWrite core v last else d
  | .storeP a v _ _ _ => if core < 64 && a = 0xF100080#28 then d.selWrite core v last else d
  | .storeW a v _ _ =>
    if core < 64 && evenOf a.toNat = 0xF100080 then
      let old := d.localReg core (last + 4) 0x80
      d.selWrite core (maskPut old (halfMask (a.toNat % 2 = 1)) (halfPut (a.toNat % 2 = 1) v)) last
    else d
  | _ => d

/-- A store to a register of the slot-local block, released at `tick`. DEDUCED: log 138. -/
def Dev.localWrite (d : Dev) (slot r : Nat) (v : DW) (tick : Nat) : Dev :=
  if r = 0x106 then d.doEoi slot
  else if r = 0x108 then d.modCore slot fun c => { c with clrs := c.clrs ++ [bitsOf v.toNat 9 0] }
  else if r = 0x10A then d.setTimer slot (v.extractLsb' 0 7) tick
  else if r = 0x10C then d.modCore slot fun c => { c with doors := c.doors ++ [bitsOf v.toNat 6 0] }
  else d

/-- An address lies in the copy that the lanes will send from an output port of a slot (R338, R340). -/
def Dev.ownsPort (d : Dev) (slot a : Nat) : Bool :=
  let b := d.get Reg.PORT_TABLE.BUF_BASE.ADDR
  let n := d.frameSize
  let k := (a - b) / 2
  decide (b ≤ a) && decide (k < 4096 * n) && k / n % 4 = d.frame12 % 4 && d.portOwner (k / (16 * n)) = slot

/-- The words of a store that a slot's ports will send are kept as they were before its run (R29, R180).
DEDUCED: log 164. -/
def Dev.noteSamples (d : Dev) (slot : Nat) (ws : List Nat) : Dev :=
  let new := ws.filter fun a => d.ownsPort slot a && !(d.core slot).overwrote.any (·.1 = a)
  d.modCore slot fun c => { c with overwrote := c.overwrote ++ new.map fun a => (a, d.wAt a) }

/-- A store of a DW at an even address. -/
def Dev.storeAtDW (d : Dev) (P : PageOps) (core : Nat) (a : Nat) (v : DW) (tick : Nat) : Dev :=
  match regionOf (decide (64 ≤ core)) a with
  | .mem =>
    let m := memAddr core a
    if core < 64 then
      ((d.noteSamples core [m, m + 1]).memStoreDW m v).modCore core fun c => { c with written := setInsert c.written m }
    else d.memStoreDW m v
  | .hop => d.hopRegWrite core (hopOf a) (hopReg a) v
  | .slotLocal => if core < 64 then d.localWrite core (a - 0xF100000) v tick else d
  | .pages => P.write d core (pageAt a) (pageOff a) v
  | _ => d

/-- A store of a W. In the slot-local block the other half keeps what a load of the register reads.
DEDUCED: log 138. -/
def Dev.storeAtW (d : Dev) (core : Nat) (a : Nat) (v : W) (tick last : Nat) : Dev :=
  match regionOf (decide (64 ≤ core)) a with
  | .mem =>
    let m := memAddr core a
    (d.iff (decide (core < 64)) fun d => d.noteSamples core [m]).memStoreW m v
  | .slotLocal =>
    if core < 64 then
      let r := evenOf (a - 0xF100000)
      let old := if r = 0x10A then d.localReg core (last + 4) r else 0
      d.localWrite core r (maskPut old (halfMask (a % 2 = 1)) (halfPut (a % 2 = 1) v)) tick
    else d
  | _ => d

end Sys2Proof.Machine
end

