-- ==== Sys2Proof/Machine/Damper.lean ====
section
/-! DEFINITION. The damper: outputs that are held until the compare of their bundle, and their release (R151, R155,
R163, R172 to R174, R198). -/

namespace Sys2Proof.Machine

/-- The bundle is issued in step `first` and takes `cost` steps; its outputs are released at the start of the third
step after its last (R151). -/
def Held.due (h : Held) (step : Nat) : Bool := decide (h.first + h.cost + 2 ≤ step)

/-- An output leaves the damper. -/
def Dev.emitOut (d : Dev) (P : PageOps) (core : Nat) (o : HeldOut) : Dev :=
  match o with
  | .storeD a v tick _ => d.storeAtDW P core a.toNat v tick
  | .storeP a v w tick _ =>
    if core < 64 && a.toNat = 0xF100084 then d.doReq core v w
    else (d.storeAtDW P core a.toNat v tick).storeAtDW P core (a.toNat + 2) w tick
  | .storeW a v tick last => d.storeAtW core a.toNat v tick last
  | .popped n => d.hopSettle n
  | .started e _ => d.startReleased e
  | .noticed _ => d

/-- The retry of a bundle agrees: the fault was transient (R176, R201). -/
def Dev.transient (d : Dev) (core : Nat) : Dev :=
  if core < 64 then
    let h := core / 4
    let d := d.countS Reg.HEARTH.MISMATCH.COUNT Reg.HEARTH.MISMATCH.OVF h (core % 4)
    (d.lastFault core 1 (d.coreOf core)).raise (0x010 + h) 0
  else
    let k := core - 64
    (d.countS Reg.CTRL.MISMATCH.COUNT Reg.CTRL.MISMATCH.OVF k 0).raise (0x020 + k) 0

/-- The compare of a bundle agrees: its outputs are released in their order. -/
def Dev.emit (d : Dev) (P : PageOps) (core : Nat) (h : Held) : Dev :=
  (h.outs.foldl (fun d o => d.emitOut P core o) d).iff h.retried fun d => d.transient core

/-- The oldest bundles that pass a test are released, one by one in issue order (R174). -/
def Dev.emitWhile (P : PageOps) (core : Nat) (go : Held → Bool) : Nat → Dev → Dev
  | 0, d => d
  | n + 1, d =>
    match d.heldOf core with
    | [] => d
    | h :: rest =>
      if go h then
        Dev.emitWhile P core go n
          (({ d with held := if rest.isEmpty then tabDel d.held core else tabSet d.held core rest } : Dev).emit P core h)
      else d

/-- Everything that is released by the start of a step. DESIGN CHOICE: log 187. -/
def Dev.emitDue (d : Dev) (P : PageOps) (core step : Nat) : Dev :=
  Dev.emitWhile P core (·.due step) (d.heldOf core).length d

/-- Everything is released: the core issues nothing for three steps. DESIGN CHOICE: log 187. -/
def Dev.drain (d : Dev) (P : PageOps) (core : Nat) : Dev := Dev.emitWhile P core (fun _ => true) (d.heldOf core).length d

/-- A bundle enters the damper. DESIGN CHOICE: log 187. -/
def Dev.hold (d : Dev) (core : Nat) (h : Held) : Dev :=
  { d with held := tabSet d.held core (d.heldOf core ++ [h]) }

/-- The core stops issuing after its youngest bundle: everything older is released, and the youngest, too, where it has
outputs that wait. DEDUCED: log 133. DESIGN CHOICE: log 187. -/
def Dev.drainRest (d : Dev) (P : PageOps) (core : Nat) : Dev :=
  match (d.heldOf core).getLast? with
  | some h =>
    if h.outs.isEmpty then Dev.emitWhile P core (fun _ => true) ((d.heldOf core).length - 1) d else d.drain P core
  | none => d

end Sys2Proof.Machine
end

