-- ==== Sys2Proof/Machine/Stage.lean ====
section
/-! DEFINITION. Staged mirrors, arming, commit, DISCARD, STAGE records, and the log of accesses to domains that are
not ON (R18, R405, R459 to R465). -/

namespace Sys2Proof.Machine

/-! Accesses that find a domain not ON (R18, R405). -/

/-- An access is logged in AON.COLD_ACCESS and COLD_ADDR. DESIGN CHOICE: log 35. -/
def Dev.coldLog (d : Dev) (req : Req) (write mem : Bool) (dom addr : Nat) : Dev :=
  let d := d.countS Reg.AON.COLD_ACCESS.COUNT Reg.AON.COLD_ACCESS.OVF 0 0
  let d := d.put Reg.AON.COLD_ACCESS.WRITE (b2n write)
  let d := d.put Reg.AON.COLD_ACCESS.REQ (if req = .host then 0 else 1)
  let d := d.put Reg.AON.COLD_ACCESS.MEM (b2n mem)
  let d := d.put Reg.AON.COLD_ACCESS.DOMAIN dom
  (d.put Reg.AON.COLD_ADDR.ADDR addr).raise 0x001 0

/-- The domain that a page's cold-read value names. -/
def coldDom (page : Nat) : Nat := if page = 0x0A0 then 33 else pageDom page

/-- A register access finds its domain not ON. -/
def Dev.coldReg (d : Dev) (req : Req) (write : Bool) (page off : Nat) : Dev :=
  d.coldLog req write false (coldDom page) (page * 0x1000 + off)

/-! Mirrors (R460 to R464). -/

/-- A page stages. -/
def stageable (page : Nat) : Bool := match pageInfo page with | some i => i.stageable | none => false

/-- The staged value of a live register. -/
def Dev.mirrorGet (d : Dev) (page off : Nat) : DW :=
  if page = 0x078 && off = 0x024 then (d.ports.queue.getLast?).getD 0#28
  else (tabFind d.mirror (regKey page off)).getD (regReset (regKey page off) &&& BitVec.ofNat 28 (mirrorMask page off))

/-- A write to the mirror of a live register. -/
def Dev.mirrorSet (d : Dev) (page off : Nat) (v : DW) : Dev :=
  let mask := mirrorMask page off
  if mask = 0 then d
  else if page = 0x078 && off = 0x024 then d.ptQueue v
  else
    let d := { d with mirror := tabSet d.mirror (regKey page off) (v &&& BitVec.ofNat 28 mask) }
    d.modPage page fun h => { h with dirty := setInsert h.dirty off }

/-- ARM_STAGE is set. -/
def Dev.arm (d : Dev) (page : Nat) : Dev := if stageable page then d.modPage page fun h => { h with armed := true } else d

/-- DISCARD: the mirror is loaded from the live registers, and nothing is armed. -/
def Dev.discardStage (d : Dev) (page : Nat) : Dev :=
  if !stageable page then d
  else
    let lo := regKey page 0
    let live := (d.regs.filter (fun e => lo ≤ e.1 && e.1 < lo + 0x1000 && mirrorMask page (e.1 - lo) ≠ 0)).map
      fun (e : Nat × DW) => (e.1, e.2 &&& BitVec.ofNat 28 (mirrorMask page (e.1 - lo)))
    let d := { d with mirror := live.foldl (fun (t : Tab DW) (e : Nat × DW) => tabSet t e.1 e.2) (tabDelRange d.mirror lo (lo + 0x1000)) }
    let d := d.modPage page fun h => { h with dirty := [], armed := false }
    if page = 0x078 then d.modPorts fun p => { p with queue := [] } else d

/-! Commit (R461, R462). -/

/-- The RWS fields of a live register take a value. -/
def Dev.commitReg (d : Dev) (page off : Nat) (v : DW) : Dev :=
  d.regSet (regKey page off) (maskPut (d.regGet (regKey page off)) (BitVec.ofNat 28 (mirrorMask page off)) v)

/-- The shared source whose SRC_CFG a page and offset hold. -/
def srcOf (page off : Nat) : Nat := 32 + 192 * (page - 0x031) + (off - 0x100) / 4

/-- What follows from a change of committed registers at a page: `old` is the device before the change. -/
def Dev.committed (d old : Dev) (page : Nat) (offs : List Nat) : Dev :=
  if 0x031 ≤ page && page ≤ 0x033 then
    d.represent ((offs.filter (fun o => d.regGet (regKey page o) ≠ old.regGet (regKey page o))).map (srcOf page))
  else if 0x046 ≤ page && page ≤ 0x04F then
    let n := page - 0x040
    let changed := (List.range 4).any fun k => d.regGet (regKey page (0x028 + 4 * k)) ≠ old.regGet (regKey page (0x028 + 4 * k))
    (d.hopReconf n (old.hopReplay n)).iff changed (·.modHop n fun h => { h with creditDue := true })
  else if page = 0x050 then
    let d := d.put Reg.STOKER.READ_BUDGET.VALUE
      (Nat.min (d.get Reg.STOKER.READ_BUDGET.VALUE) (d.get Reg.STOKER.CEILING.VALUE))
    let d := d.put Reg.STOKER.MAX_STREAMS.VALUE (Nat.min (d.get Reg.STOKER.MAX_STREAMS.VALUE) 8192)
    if d.get Reg.STOKER.TABLE_BASE.VALUE ≠ old.get Reg.STOKER.TABLE_BASE.VALUE
        || d.get Reg.STOKER.ENTRIES.VALUE ≠ old.get Reg.STOKER.ENTRIES.VALUE then
      d.modStoker fun x => { x with headValid := [] }
    else d
  else if 0x070 ≤ page && page ≤ 0x077 then
    let g := page - 0x070
    if offs.contains 0x020 then d.relock g
    else d.each ((offs.filter (fun o => 0x030 ≤ o && o < 0x050)).map (fun o => 8 * g + (o - 0x030) / 4)) Dev.loseLock
  else d

/-- A page's commit is due at the boundary into the running frame. -/
def Dev.due (d : Dev) (page : Nat) : Bool :=
  let h := d.page page
  h.armed && (!h.atFrame || h.frame.toNat = d.frame12)

/-- The armed pages that commit at this boundary. -/
def Dev.duePages (d : Dev) : List Nat :=
  (d.pages.map (·.1)).filter fun p => stageable p && d.isOn (pageDom p) && d.due p

/-- The dirty registers of a page become live. -/
def Dev.commitPage (d : Dev) (page : Nat) : Dev :=
  let d := (d.page page).dirty.foldl (fun d o => d.commitReg page o (d.mirrorGet page o)) d
  let d := if page = 0x078 then d.ptCommit else d
  d.modPage page fun h => { h with dirty := [], armed := false }

/-- Order 5: all pages armed for this boundary commit in one beat. -/
def Dev.commitOrder5 (d : Dev) : Dev :=
  let l := d.duePages
  let new := d.each l Dev.commitPage
  l.foldl (fun x p => x.committed d p (d.page p).dirty) new

/-- A STAGE record at order 6 (R61, R462). DEDUCED: log 155. DESIGN CHOICE: log 76. -/
def Dev.stageRecord (d : Dev) (r : StageRec) : Dev :=
  if !d.isOn (pageDom r.page) then d
  else if r.page = 0x078 && r.off = 0x024 then d.ptApply r.val
  else
    let new := d.commitReg r.page r.off r.val
    let mask := BitVec.ofNat 28 (mirrorMask r.page r.off)
    let new := { new with mirror := tabSet new.mirror (regKey r.page r.off) (r.val &&& mask) }
    let new := new.modPage r.page fun h => { h with dirty := setErase h.dirty r.off }
    new.committed d r.page [r.off]

/-! The commands. -/

/-- A write at a staged-mirror offset of a page, 0x820 to 0xFFF. -/
def Dev.stagedWrite (d : Dev) (req : Req) (page off : Nat) (v : DW) : Dev :=
  match pageInfo page with
  | none => d
  | some _ =>
    if !d.pageOn page then d.coldReg req true page off
    else if 0x820 ≤ off && off < 0x1000 then d.mirrorSet page (off - 0x800) v else d

/-- A write of PAGE_CTRL that sets ARM_STAGE, or DISCARD. DESIGN CHOICE: log 20. -/
def Dev.pageCmd (d : Dev) (page : Nat) (f : Dev → Dev) : Dev :=
  match pageInfo page with
  | none => d
  | some _ => if d.pageOn page then f d else d.coldReg .host true page 4

/-- DESIGN CHOICE: log 27. -/
def execStagedWrite (req : Req) (page off : BitVec 12) (v : DW) (s : State) : Host.Outcome State Fault Refusal :=
  .next (s.onDev fun d => (d.stagedWrite req page.toNat off.toNat v).settle)

def execArmStage (page : BitVec 12) (s : State) : Host.Outcome State Fault Refusal :=
  .next (s.onDev fun d => (d.pageCmd page.toNat fun d => d.arm page.toNat).settle)

def execDiscard (page : BitVec 12) (s : State) : Host.Outcome State Fault Refusal :=
  .next (s.onDev fun d => (d.pageCmd page.toNat fun d => d.discardStage page.toNat).settle)

def execPtWrite (v : DW) (s : State) : Host.Outcome State Fault Refusal :=
  .next (s.onDev fun d => (d.stagedWrite .host 0x078 0x824 v).settle)

end Sys2Proof.Machine
end

