-- ==== Sys2Proof/Machine/Boundary.lean ====
section
/-! DEFINITION. The frame boundary, the commit of an image, tempo regulation (R42 to R45, R60, R65 to R69, R74 to R82,
R167, R197, R317, R389, R390, R435, R437, R448). -/

namespace Sys2Proof.Machine

/-! Order 1: what became of each run (R43, R65, R80, R82, R167, R389). -/

/-- Slots with a program whose run reached WAIT, and those that overran. A dormant slot is neither. -/
def Dev.live (d : Dev) (s : Nat) : Bool := d.isOn (domHearth (s / 4)) && (d.core s).run ≠ .dormant
def Dev.doneSlots (d : Dev) : List Nat := d.programs.filter fun s => d.live s && (d.core s).run = .waiting
def Dev.overSlots (d : Dev) : List Nat := d.programs.filter fun s => d.live s && (d.core s).run ≠ .waiting

/-- A slot completed the frame: its counts are written. -/
def Dev.slotDone (d : Dev) (s : Nat) : Dev :=
  let d := d.drain PageOps.none s
  let h := s / 4
  let i := s % 4
  let steps := Nat.min (d.core s).steps 0x7FFFFF
  let d := (d.putAt Reg.HEARTH.STEPS.STEPS h i steps).putAt Reg.HEARTH.PEN.PEN h i (Nat.min (d.core s).pen 0x7FFFFF)
  let d := d.putAt Reg.HEARTH.PEAK.PEAK h i (Nat.max (d.getAt Reg.HEARTH.PEAK.PEAK h i) steps)
  d.modLoader fun l => { l with series := tabDel l.series s, lastDone := tabSet l.lastDone s (d.frame12 % 4) }

/-- A slot overran: what its damper still holds is discarded with the run. -/
def Dev.slotOver (d : Dev) (s : Nat) : Dev :=
  let d := ((d.emitDue PageOps.none s (d.core s).steps).dropHeld s).modLoader fun l => { l with series := tabMap 0 l.series s (· + 1) }
  (d.countS Reg.IMAGE.SLOT_CNT.OVERRUN Reg.IMAGE.SLOT_CNT.OVR_OVF 0 s).raise 0x0A0 3

/-- The frame that has just ended, for a hearth with a slot that ran: occupancy, and what the health counts take.
DESIGN CHOICE: log 73. -/
def Dev.hearthEnd (d : Dev) (done excess : List Nat) (h : Nat) : Dev :=
  let mine := (done ++ excess).filter (fun s => s / 4 = h)
  if mine.isEmpty then
    ((d.putAt Reg.HEARTH.FINISH.WATCH h 0 0).putAt Reg.HEARTH.TEMPO.HEADROOM h 0 0).modHearth h fun x =>
      { x with ended := none, high := 0, restarted := false, watchFired := false, finish := 0 }
  else
    let x := d.hearth h
    let occ := if excess.any (fun s => s / 4 = h) then 1023 else Nat.min x.finish 1023
    let d := (d.putAt Reg.HEARTH.FINISH.OCC h 0 occ).putAt Reg.HEARTH.FINISH.WATCH h 0 (b2n x.watchFired)
    let counted := !x.restarted && decide (d.mode ≤ 1)
    let flare := d.getAt Reg.HEARTH.TEMPO.FLARE h 0
    let reg := d.getAt Reg.HEARTH.TEMPO.REG h 0
    let d := d.modHealth fun y =>
      { y with
        vSum := if counted then tabMap 0 y.vSum h (· + reg) else y.vSum
        vCnt := if counted then tabMap 0 y.vCnt h (· + 1) else y.vCnt
        dayFrames := tabMap 0 y.dayFrames h (· + 1)
        dayFlare := tabMap 0 y.dayFlare h (· + flare) }
    d.modHearth h fun x =>
      { x with ended := some occ, endRestarted := x.restarted, restarted := false, watchFired := false, finish := 0 }

/-! Orders 3 and 4 (R29, R60, R80, R230, R231, R317). -/

/-- CLR writes and doorbells of a completed slot take effect; an overrun slot's are discarded and its sources return to
their state at frame entry. -/
def Dev.slotOrder3 (d : Dev) (done : Bool) (s : Nat) : Dev :=
  let c := d.core s
  let d := d.modCore s fun c => { c with doors := [], clrs := [] }
  if done then c.doors.foldl Dev.ring (c.clrs.foldl (fun d n => d.applyClr s n) d) else d.routerReplay s

/-- Map changes become visible; streams that read a replaced or erased region end at this boundary.
DESIGN CHOICE: log 80. -/
def Dev.flashVisible (d : Dev) : Dev :=
  let pend := d.flash.pend
  pend.foldl (fun d (r, m, ends) =>
    let old := d.region r
    let d := d.modFlash fun f =>
      { f with map := tabSet f.map r m
               erasing := if old.state ≠ 0 && stripeKey old ≠ stripeKey m then setInsert f.erasing (stripeKey old) else f.erasing }
    if ends then
      (d.forgetLost r).setStreams (d.streams.map fun s =>
        if s.desc.region = r && !s.desc.cacheFed then { s with withdrawn := true } else s)
    else d) (d.modFlash fun f => { f with pend := [] })

/-- State blocks of completed slots advance. -/
def Dev.advanceBlocks (d : Dev) (done : List Nat) : Dev :=
  d.modLoader fun l =>
    { l with run := l.run.map fun i =>
        { i with blocks := i.blocks.map fun b => if done.contains b.slot then { b with gen := b.gen + 1 } else b } }

/-- The initial image of a block. -/
def Image.initData (i : Image) (b : StateBlk) : List DW :=
  match i.inits.find? (·.sec = b.init) with | some s => s.data | none => []

/-- BASE0 of a block receives the initial image (R60). DESIGN CHOICE: log 75. -/
def Dev.initBlock (d : Dev) (i : Image) (b : StateBlk) : Dev :=
  d.storeDWs (slotAddr b.slot b.base0) (fitDW b.size (i.initData b))

/-- A state block is reset (R197). DEDUCED: log 74. DESIGN CHOICE: log 75. -/
def Dev.resetBlock (d : Dev) (b : StateBlk) : Dev :=
  match d.loader.run with
  | none => d
  | some i =>
    let d := (d.initBlock i b).storeDWs (slotAddr b.slot b.base1) (List.replicate b.size 0#28)
    let d := d.modLoader fun l =>
      { l with run := some { i with blocks := i.blocks.map fun x =>
          if x.slot = b.slot && x.index = b.index then { x with gen := 0 } else x } }
    let d := d.modHealth fun x => { x with srToday := x.srToday + 1 }
    let h := b.slot / 4
    let d := (d.countS Reg.HEARTH.STATE_RESET.COUNT Reg.HEARTH.STATE_RESET.OVF h 0).lastFault b.slot 5 (d.coreOf b.slot)
    d.raise (0x010 + h) 7

/-- The blocks that were found bad are reset. DEDUCED: log 74. -/
def Dev.resetBlocks (d : Dev) : Dev :=
  let keys := d.loader.resets
  let l := d.blocks.filter fun b => keys.contains (16 * b.slot + b.index)
  l.foldl Dev.resetBlock (d.modLoader fun x => { x with resets := [] })

/-! Order 6: the commit of an image (R67, R74 to R79, R287). -/

/-- PEND (R77). -/
def Dev.pend (d : Dev) : Nat := d.get Reg.IMAGE.STATUS.PEND
def Dev.setPend (d : Dev) (v : Nat) : Dev := d.put Reg.IMAGE.STATUS.PEND v

/-- IMAGE.RESULT is written. -/
def Dev.imageResult (d : Dev) (status : Nat) (late : Bool) : Dev :=
  (((d.put Reg.IMAGE.RESULT.STATUS status).put Reg.IMAGE.RESULT.ABORT_LATE (b2n late)).put Reg.IMAGE.RESULT.FRAME
    d.frame12).raise 0x0A0 2

/-- The commit is armed for the frame that begins: by WHEN and TARGET as the COMMIT took them (R14, R74).
DESIGN CHOICE: log 79. -/
def Dev.commitDue (d : Dev) : Bool :=
  d.pend = 3 && (match d.loader.armed with | some (true, t) => decide (t = d.frame12) | _ => true)

/-- Blocks of the new image: carried over with their generation, or initialised. -/
def carryBlocks (old : Option Image) (new : Image) : List StateBlk :=
  new.blocks.map fun b => match b.from? old with | some x => { b with gen := x.gen } | none => { b with gen := 0 }

/-- A block whose STATE_ID an old block has. -/
def sameId (old : Option Image) (b : StateBlk) : Bool :=
  match old with | some o => o.blocks.any (·.id = b.id) | none => false

/-- State carry-over. -/
def Dev.carryOver (d : Dev) (old : Option Image) (new : Image) : Dev :=
  let fresh := new.blocks.filter fun b => (b.from? old).isNone
  let d := fresh.foldl (fun d b => d.initBlock new b) d
  let d := (d.put Reg.IMAGE.CARRY.CARRIED (new.blocks.length - fresh.length)).put Reg.IMAGE.CARRY.INIT fresh.length
  d.put Reg.IMAGE.CARRY_MOVED.MOVED (fresh.filter (sameId old)).length

/-- FIXED_MV as a SET code. -/
def fixedSet (mv : Nat) : Nat := (mv - 500) / 5

/-- A hearth as the new image finds it. DESIGN CHOICE: log 172. -/
def Dev.hearthCommit (d : Dev) (i : Image) (h : Nat) : Dev :=
  let d := d.modHearth h fun x => { x with nextSet := none, ended := none }
  if !d.isOn (domHearth h) then d
  else if (hearthSlots h).any (bitOf i.slotMask) then
    let d := d.modHearth h fun x => { x with high := 0, nextSet := some flareSet }
    (d.putAt Reg.HEARTH.TEMPO.REG h 0 flareSet).putAt Reg.HEARTH.TEMPO.HEADROOM h 0 0
  else d

/-- A source is pending for a slot. -/
def Dev.slotPending (d : Dev) (s : Nat) : Bool :=
  d.pendPriv s != 0#32 || d.router.pendS.any fun n => d.srcTarget n = s

/-- The loaded image takes effect. HELD is set for what is pending at a slot that loses its program (R235).
DESIGN CHOICE: log 75, 76. -/
def Dev.commitImage (d : Dev) : Dev :=
  match d.loader.loaded with
  | none => d
  | some new =>
    let old := d.loader.run
    let bare := (List.range 64).filter fun s => d.hasProgram s && !bitOf new.slotMask s
    let d := if bare.any d.slotPending then d.raise 0x030 1 else d
    let d := d.modLoader fun l =>
      { l with
        run := some { new with blocks := carryBlocks old new }, loaded := none, armed := none, stranded := []
        series := l.series.filter fun e => bitOf new.slotMask e.1 }
    let d := d.put Reg.IMAGE.STATUS.RUN_AB (1 - d.runAB)
    let d := (d.setPend 0).put Reg.IMAGE.STATUS.RUN_MODE new.mode
    let d := d.put Reg.IMAGE.STATUS.RUN_SLOTS new.slots.length
    let d := d.putAt Reg.IMAGE.RUN_ID.ID 0 0 (bitsOf new.id 27 0)
    let d := (d.putAt Reg.IMAGE.RUN_ID.ID 0 1 (bitsOf new.id 55 28)).putAt Reg.IMAGE.RUN_ID.ID 0 2 (bitsOf new.id 63 56)
    let d := d.stokerCommit new.streams new.slotMask
    let d := new.stages.foldl Dev.stageRecord d
    let d := d.carryOver old new
    let d := d.each (List.range 64) fun d s =>
      d.modCore s fun c => { c with fetchPoison := false, run := if bitOf new.slotMask s then c.run else .dormant }
    let d := d.each (List.range 16) fun d h => d.hearthCommit new h
    let d := d.imageResult 1 false
    if d.aon.bootLoad then
      let ms := Nat.min (d.aon.sinceReset * 1000 / 32768) 0xFFFF
      (d.put Reg.AON.BOOT.FIRST_MS ms).modAon fun a => { a with bootLoad := false, bootOutcome := 1, bootDetail := 0 }
    else d

/-! Order 7: setpoints (R43, R66 to R69, R183). -/

/-- FOLDS ≠ 0. -/
def Dev.folded (d : Dev) (h : Nat) : Bool := d.getAt Reg.HEARTH.CORES.FOLDS h 0 ≠ 0

/-- A hearth's setpoint for the frame that begins; flare is the 950 mV point. DEDUCED: log 72. -/
def Dev.hearthSet (d : Dev) (h : Nat) : Dev :=
  if !d.isOn (domHearth h) then d
  else
    match d.loader.run with
    | none => d
    | some i =>
      let v :=
        if i.mode = 2 then fixedSet i.fixedMv
        else if d.folded h then flareSet
        else ((d.hearth h).nextSet).getD (d.getAt Reg.HEARTH.TEMPO.REG h 0)
      let d := d.modHearth h fun x => { x with nextSet := none }
      (d.putAt Reg.HEARTH.TEMPO.SET h 0 v).putAt Reg.HEARTH.TEMPO.FLARE h 0 (b2n (decide (v = flareSet)))

/-! Order 8: frame entry (R43, R45, R87, R197, R214, R282, R389, R390, R394). -/

/-- A hearth takes part in the frame: ON, and no entry has reached its drain. DEDUCED: log 78. -/
def Dev.hearthEnters (d : Dev) (h : Nat) : Bool :=
  d.isOn (domHearth h) &&
    (match d.power.entry with
     | some e => !(e.doms.any (·.1 = domHearth h) && 2 ≤ e.stage && !e.undoing && !e.aborted && e.abandoned.isNone)
     | none => true)

/-- A block of a running hearth with a copy in a cold bank is reset, once its banks are initialised. -/
def Dev.coldBlock (d : Dev) (b : StateBlk) : Dev :=
  let banks := b.spans.flatMap fun x => spanBanks x.1 (x.2 - x.1)
  let on := banks.all fun k => match k with | some (n, _) => d.memOn n | none => false
  let cold := banks.any fun k => match k with | some (n, x) => !d.warm.contains (bankKey n x) | none => false
  if d.hearthEnters (b.slot / 4) && on && cold then
    (b.spans.foldl (fun d x => d.warmSpan x.1 (x.2 - x.1)) d).resetBlock b
  else d

/-- The record of a run that ends at its first fetch, under R214, carries the frame that begins. -/
def repoison (frame : Nat) (r : List DW) : List DW := listSet r 1 (BitVec.ofNat 28 frame)

/-- FRAME_START at a slot; one whose program bank is found cold is dormant until an image is committed (R390).
DESIGN CHOICE: log 77. -/
def Dev.enterSlot (d : Dev) (s : Nat) : Dev :=
  let d := d.modCore s fun c => { c with timerFired := false }
  if !d.hearthEnters (s / 4) then d.modCore s fun c => { Core.sleep c with run := .dormant }
  else if d.isCold (progAddr s d.runAB 0) || d.loader.stranded.contains s then
    (d.modCore s fun c => { Core.sleep c with run := .dormant }).modLoader fun l =>
      { l with stranded := setInsert l.stranded s }
  else
    let d := d.modCore s fun c => c.enter (d.slotCfg s) d.aon.frame
    let d := d.modCore s fun c =>
      if d.coreOf s = 7 || (d.hearth (s / 4)).awaiting = some s then { c with run := .stopped }
      else if c.fetchPoison then
        let r := c.report.map (repoison d.aon.frame.toNat)
        { c with run := .ended, report := r, reports := c.reports ++ r.toList }
      else c
    ((d.routerClear s).firePriv s 0).fixNotices s

/-- Frame entry. DESIGN CHOICE: log 77. -/
def Dev.frameEntry (d : Dev) : Dev :=
  let d := d.blocks.foldl Dev.coldBlock d
  let d := d.portsEvaluate
  let d := d.programs.foldl Dev.enterSlot d
  let d := d.each (List.range 64) fun d s => if d.hasProgram s then d.settlePair s else d
  d.routerSnapshot

/-! The handover of a patch (R448). -/

/-- STANDBY takes ACTIVE, and the former ACTIVE restarts with the patch and takes STANDBY. -/
def Dev.handOver (d : Dev) : Dev :=
  let a := d.active
  let k := d.standby
  if d.ctrl.handover && a < 3 && k < 3 then
    let d := ((d.setActive k).setStandby a)
    let d := { d with ctrl := { d.ctrl with ready := false } }
    let d := d.wipeCore (64 + a) { Core.reset with ps := 0xC00, run := .running }
    (((d.roleEvent k).roleEvent a)).patchTaken
  else d

/-! The boundary (R43). -/

/-- The boundary at which the lanes of a PORTS domain that leaves ON stop (R350). -/
def Dev.entryPast (d : Dev) : Dev :=
  d.modPower fun p => { p with entry := p.entry.map fun e => if 2 ≤ e.stage && !e.undoing then { e with past := true } else e }

/-- The boundary sequence, in its order. DEDUCED: log 78. -/
def Dev.boundary (d : Dev) : Dev :=
  let done := d.doneSlots
  let excess := d.overSlots
  -- order 1
  let d := d.modLoader fun l => { l with series := l.series.filter fun e => d.programs.contains e.1 && d.live e.1 }
  let d := d.each done Dev.slotDone
  let d := d.each excess Dev.slotOver
  let d := d.each ((List.range 16).filter fun h => d.isOn (domHearth h)) fun d h => d.hearthEnd done excess h
  let d := d.entryPast.modAon fun a => { a with frame := a.frame + 1 }
  let d := d.handOver
  -- orders 2 and 3
  let d := (d.portsOrder2 done excess).flashVisible
  let d := d.each hopAll fun d n => d.hopOrder3 n done excess
  let d := d.stokerOrder3 done excess
  let d := d.each done fun d s => d.slotOrder3 true s
  let d := d.each excess fun d s => d.slotOrder3 false s
  -- order 4
  let d := (d.advanceBlocks done).resetBlocks
  -- orders 5 and 6
  let d := d.commitOrder5
  let d := if d.commitDue then d.commitImage else d
  -- order 7
  let d := d.each (List.range 16) Dev.hearthSet
  let d := d.modLoader fun l => { l with arrived := [], complete := [], late := [], overBudget := [] }
  -- order 8
  d.frameEntry

/-! Tempo regulation (R66). -/

/-- The occupancy target in hundredths of T. -/
def Dev.target (d : Dev) : Nat := if d.mode = 0 then 50 else 75

/-- The procedure of R66 for a hearth. DEDUCED: log 72. DESIGN CHOICE: log 73. -/
def Dev.regulate (d : Dev) (h : Nat) : Dev :=
  match (d.hearth h).ended with
  | none => d
  | some occ =>
    let high := decide (1024 * (d.target + 1) < 100 * occ)
    let low := decide (100 * occ < 1024 * (d.target - 2))
    let v := d.getAt Reg.HEARTH.TEMPO.REG h 0
    let same := d.folded h || (d.hearth h).endRestarted
    let v' :=
      if same then v
      else if d.getAt Reg.HEARTH.FINISH.WATCH h 0 = 1 || high then Nat.min (v + 1) flareSet
      else if low then v - 1
      else v
    let n := if v' = flareSet && high then (d.hearth h).high + 1 else 0
    let d := d.putAt Reg.HEARTH.TEMPO.REG h 0 v'
    let d := d.modHearth h fun x =>
      { x with ended := none, high := n, nextSet := some (if d.folded h then flareSet else v') }
    let d := d.putAt Reg.HEARTH.TEMPO.HEADROOM h 0 (b2n (decide (16 ≤ n)))
    if n = 16 then d.raise (0x010 + h) 8 else d

/-- TEMPO_REGULATION, in GUARDED and DENSE mode, by the core that holds ACTIVE. DEDUCED: log 72. -/
def Dev.tempo (d : Dev) : Dev :=
  if d.mode ≤ 1 && d.served then
    d.each ((List.range 16).filter fun h => d.isOn (domHearth h)) Dev.regulate
  else d

/-! IMAGE.CTRL (R74 to R77). -/

/-- COMMIT: it takes WHEN and TARGET as they stand, and keeps them (R14). -/
def Dev.imageArm (d : Dev) : Dev :=
  if d.pend = 2 then
    (d.setPend 3).modLoader fun l =>
      { l with armed := some (d.flag Reg.IMAGE.CTRL.WHEN, d.get Reg.IMAGE.CTRL.TARGET) }
  else d.imageResult 3 false

/-- ABORT. In the frame whose boundary made the commit it is late. DEDUCED: log 156. DESIGN CHOICE: log 79. -/
def Dev.imageAbort (d : Dev) : Dev :=
  match d.pend with
  | 1 =>
    let job := d.loader.load
    let d := (d.setPend 0).modLoader fun l => { l with load := none, loaded := none }
    match job with
    | some ⟨some (hop, tag), _⟩ => (match d.cmd hop tag with | some c => d.endCmd c .aborted 0 0 | none => d)
    | _ => d
  | 2 => (d.setPend 0).modLoader fun l => { l with loaded := none }
  | 3 => (d.setPend 2).imageResult 2 false
  | 4 => d.setPend 0
  | _ =>
    if d.get Reg.IMAGE.RESULT.STATUS = 1 && d.get Reg.IMAGE.RESULT.FRAME = d.frame12 then d.imageResult 1 true else d

/-- A write of IMAGE.CTRL: ABORT acts first. DESIGN CHOICE: log 79. -/
def Dev.imageCtrl (d : Dev) (v : DW) : Dev :=
  let d := (d.put Reg.IMAGE.CTRL.TARGET (bitsOf v.toNat 27 16)).put Reg.IMAGE.CTRL.WHEN (bitsOf v.toNat 4 4)
  (d.iff (bitOf v.toNat 1) Dev.imageAbort).iff (bitOf v.toNat 0) Dev.imageArm

/-- A write into an inactive image slot (R76): true where the write is discarded. DEDUCED: log 156. -/
def Dev.inactiveWrite (d : Dev) : Bool × Dev :=
  match d.pend with
  | 1 => (true, d)
  | 2 => (false, (d.setPend 0).modLoader fun l => { l with loaded := none })
  | 3 => (false, ((d.setPend 0).modLoader fun l => { l with loaded := none }).imageResult 3 false)
  | _ => (false, d)

/-! The commands. -/

def execTempoRegulation (s : State) : Host.Outcome State Fault Refusal := .next (s.onDev fun d => d.tempo.settle)

/-- DESIGN CHOICE: log 28. -/
def execCommit (v : DW) (s : State) : Host.Outcome State Fault Refusal :=
  .next (s.onDev fun d => (if d.pageOn 0x0A0 then d.imageCtrl v else d.coldReg .host true 0x0A0 0x034).settle)

def execImageAbort (s : State) : Host.Outcome State Fault Refusal :=
  .next (s.onDev fun d => (if d.pageOn 0x0A0 then d.imageAbort else d.coldReg .host true 0x0A0 0x034).settle)

end Sys2Proof.Machine
end

