-- ==== Sys2Proof/Machine/Clocks.lean ====
section
/-! DEFINITION. Oscillators, the frame clock, pulse crossings and soft resets (R335, R336, R409 to R420, R471). -/

namespace Sys2Proof.Machine

/-! The frame clock (R335, R336, R413, R414). -/

/-- The frame clock's configuration is in use: programs run, or an image is being loaded (R413). -/
def Dev.rateInUse (d : Dev) : Bool := d.runMask ≠ 0 || (1 ≤ d.get Reg.IMAGE.STATUS.PEND && d.get Reg.IMAGE.STATUS.PEND ≤ 3)

/-- Every lane's lock follows what is configured now. DEDUCED: log 56. -/
def Dev.settleLanes (d : Dev) : Dev := d.each (List.range 64) fun d n => (d.settleBad n).settleLock n

/-- The frame clock stops and the audio PLL relocks. DEDUCED: log 17. -/
def Dev.clockStop (d : Dev) : Dev :=
  let d := (d.put Reg.CLOCKS.STATUS.LOCK 0).put Reg.CLOCKS.STATUS.FRAME_RUN 0
  let d := (d.put Reg.CLOCKS.STATUS.HOLDOVER 0).put Reg.CLOCKS.STATUS.WRONG_RATE 0
  d.modAon fun a => { a with realigning := false }

/-- A write of CLOCKS.CFG. DESIGN CHOICE: log 55. -/
def Dev.clocksCfg (d : Dev) (v : DW) : Dev :=
  let n := bitsOf v.toNat 12 10
  let old := (d.regGet (Reg.CLOCKS.CFG.FB.key 0 0)).toNat
  let new := withBits (withBits (withBits old 12 7 (bitsOf v.toNat 12 7)) 5 4 (bitsOf v.toNat 5 4)) 1 0 (bitsOf v.toNat 1 0)
  let change := decide (bitsOf old 12 7 ≠ bitsOf v.toNat 12 7)
  if n < 2 || bitsOf v.toNat 9 8 = 3 || (change && d.rateInUse) then d.raise 0x091 4
  else
    let was := d.get Reg.CLOCKS.CFG.REF
    let d := d.regSet (Reg.CLOCKS.CFG.FB.key 0 0) (BitVec.ofNat 28 new)
    if !d.isOn (domPorts 0) then d
    else if change then d.clockStop.settleLanes
    else if was ≠ bitsOf v.toNat 5 4 && d.flag Reg.CLOCKS.STATUS.LOCK then d.modAon fun a => { a with realigning := true }
    else d

/-- The audio PLL enters holdover: its reference is lost, or is absent or at a wrong rate after a change.
DESIGN CHOICE: log 58. -/
def Dev.holdover (d : Dev) : Dev :=
  if d.isOn (domPorts 0) then
    let d := d.put Reg.CLOCKS.STATUS.REF_PRESENT 0
    if d.flag Reg.CLOCKS.STATUS.LOCK && !d.flag Reg.CLOCKS.STATUS.HOLDOVER then
      let d := d.put Reg.CLOCKS.STATUS.HOLDOVER 1
      (d.countS Reg.CLOCKS.HOLDOVER_CNT.COUNT Reg.CLOCKS.HOLDOVER_CNT.OVF 0 0).raise 0x091 1
    else d
  else d

/-- A write of CLOCKS.CFG that changes REF; `rateOk` tells whether the new reference is present at its nominal rate.
DESIGN CHOICE: log 58. -/
def Dev.refSelect (d : Dev) (v : DW) (rateOk : Bool) : Dev :=
  let was := d.get Reg.CLOCKS.CFG.REF
  let d := d.clocksCfg v
  if d.get Reg.CLOCKS.CFG.REF ≠ was && !rateOk then d.holdover else d

/-- The selected reference can be seen: the crystal runs, or the pads of WCLK_IN and MCLK_IN are neither held nor without
their rail (R335, R404, R473). -/
def Dev.refSeen (d : Dev) : Bool :=
  if d.get Reg.CLOCKS.CFG.REF = 0 then d.flag Reg.CLOCKS.STATUS.XTAL_OK
  else d.padsSeen 0

/-- The audio PLL declares lock: the frame clock starts. The count from the crystal needs the crystal to run.
DESIGN CHOICE: log 55. -/
def Dev.pllLock (d : Dev) : Dev :=
  if d.isOn (domPorts 0) && !d.flag Reg.CLOCKS.STATUS.LOCK && d.refSeen then
    let d := ((d.put Reg.CLOCKS.STATUS.LOCK 1).put Reg.CLOCKS.STATUS.REF_PRESENT 1).put Reg.CLOCKS.STATUS.FRAME_RUN 1
    (d.raise 0x091 0).settleLanes.midiDeliver
  else d

/-- The PLL is aligned with the reference again: after holdover, or after a change of reference. -/
def Dev.pllRealigned (d : Dev) : Dev :=
  if d.isOn (domPorts 0) && d.flag Reg.CLOCKS.STATUS.LOCK 
      && (d.flag Reg.CLOCKS.STATUS.HOLDOVER || d.aon.realigning) && d.refSeen then
    let d := (d.put Reg.CLOCKS.STATUS.HOLDOVER 0).put Reg.CLOCKS.STATUS.WRONG_RATE 0
    let d := (d.put Reg.CLOCKS.STATUS.REF_PRESENT 1).modAon fun a => { a with realigning := false }
    d.raise 0x091 3
  else d

/-- The reference is found at a different nominal rate; holdover goes on. DESIGN CHOICE: log 58. -/
def Dev.wrongRate (d : Dev) : Dev :=
  if d.isOn (domPorts 0) then (d.put Reg.CLOCKS.STATUS.WRONG_RATE 1).raise 0x091 2 else d

/-! The always-on oscillators (R411, R412, R429). -/

def Dev.xtalOk (d : Dev) : Dev := (d.put Reg.CLOCKS.STATUS.XTAL_OK 1).put Reg.CLOCKS.STATUS.PILOT_SUB 0

def Dev.xtalFail (d : Dev) : Dev :=
  let d := (d.put Reg.CLOCKS.STATUS.XTAL_OK 0).put Reg.CLOCKS.STATUS.PILOT_SUB 1
  let d := d.pilotStart.raise 0x091 7
  if d.get Reg.CLOCKS.CFG.REF = 0 then d.holdover else d

/-- The pilot oscillator has a user. -/
def Dev.pilotUsed (d : Dev) : Bool :=
  d.power.entry.isSome || d.power.exit.isSome || d.power.bankInit.isSome || d.aon.stage = .held || d.aon.stage = .sensing
    || d.flag Reg.CLOCKS.STATUS.PILOT_SUB

def Dev.pilotStop (d : Dev) : Dev := if d.pilotUsed then d else d.put Reg.CLOCKS.STATUS.PILOT_RUN 0

/-! Pulses (R222, R418). -/

/-- An event source outside the device's own blocks pulses: a private source whose row of R223 names an event, or a
lane source. SOFT0 to SOFT7 and sources 160 to 479 fire only through SET_PEND, and a block's source only as its line
rises (R223, R224). DEDUCED: log 54. -/
def Dev.fireSource (d : Dev) (t n : Nat) : Dev :=
  if n < 32 then (if t ≤ 65 && !privReserved t n && !(t < 64 && 24 ≤ n) then d.firePriv t n else d)
  else if 96 ≤ n && n ≤ 159 then d.pulseShared n
  else d

/-- A source pulses, and as many times more as given, before an acknowledge returns (R418). -/
def Dev.fireBurst (d : Dev) (t n : Nat) : Nat → Dev
  | 0 => d.fireSource t n
  | k + 1 => (d.fireBurst t n k).fireSource t n

/-- The acknowledge of a source's crossing returns: the next pending pulse is sent. DEDUCED: log 53. -/
def Dev.pulseAck (d : Dev) (n : Nat) : Dev :=
  if !d.router.awaiting.contains n then d
  else
    match tabGet 0 d.router.queued n with
    | 0 => d.modRouter fun r => { r with awaiting := setErase r.awaiting n }
    | k + 1 => (d.modRouter fun r => { r with queued := tabMap 0 r.queued n fun _ => k }).fireShared n

/-! Soft resets (R417, R419, R420, R471). -/

/-- The crossing group of a page that takes a soft reset. -/
def srstGroup (page : Nat) : Nat :=
  if 0x060 ≤ page && page ≤ 0x067 then 1 + (page - 0x060) / 2
  else if 0x070 ≤ page && page ≤ 0x077 then 6 + (page - 0x070)
  else if page = 0x079 then 14
  else 0

/-- A group's crossings are flushed from one side. -/
def Dev.crossReset (d : Dev) (g : Nat) : Dev :=
  let d := d.modRouter fun r =>
    { r with awaiting := r.awaiting.filter fun n => crossingOf n ≠ some g
             queued := r.queued.filter fun e => crossingOf e.1 ≠ some g }
  (d.setGroup Reg.CLOCKS.XRESET.GROUP g).raise 0x091 5

/-- The registers of a page take their reset values; the sensed level of its I/O rail is not a value of the block.
DESIGN CHOICE: log 57. -/
def Dev.pageReset (d : Dev) (page : Nat) : Dev :=
  let fresh := (d.resetPages page page).modPage page fun h => { h with inReset := true }
  if 0x060 ≤ page && page ≤ 0x067 then
    fresh.putAt Reg.FCH.STATUS.VIO (page - 0x060) 0 (d.getAt Reg.FCH.STATUS.VIO (page - 0x060) 0)
  else if 0x070 ≤ page && page ≤ 0x077 then
    fresh.putAt Reg.PORTS.GSTAT.VIO (page - 0x070) 0 (d.getAt Reg.PORTS.GSTAT.VIO (page - 0x070) 0)
  else fresh

/-- A page takes a soft reset (R471). DESIGN CHOICE: log 57. -/
def Dev.softReset (d : Dev) (page : Nat) : Dev :=
  let d := (d.pageReset page).crossReset (srstGroup page)
  if 0x070 ≤ page && page ≤ 0x077 then
    let g := page - 0x070
    let d := d.relock g
    (d.each ((List.range 8).map (8 * g + ·)) fun d n => d.settleLock n).modPorts (·.dropGroup g)
  else if page = 0x079 then d.modPorts fun p => { p with uart := [] }
  else d

/-- Does a page take a soft reset? -/
def takesSrst (page : Nat) : Bool := match pageInfo page with | some i => i.srst | none => false

/-! The commands. -/

def execPllLock (s : State) : Host.Outcome State Fault Refusal := .next (s.onDev fun d => d.pllLock.settle)

def execRefLost (s : State) : Host.Outcome State Fault Refusal := .next (s.onDev fun d => d.holdover.settle)

def execRealigned (s : State) : Host.Outcome State Fault Refusal := .next (s.onDev fun d => d.pllRealigned.settle)

def execWrongRate (s : State) : Host.Outcome State Fault Refusal := .next (s.onDev fun d => d.wrongRate.settle)

def execClocksCfg (v : DW) (s : State) : Host.Outcome State Fault Refusal :=
  .next (s.onDev fun d => (d.clocksCfg v).settle)

def execRefSelect (v : DW) (rateOk : Bool) (s : State) : Host.Outcome State Fault Refusal :=
  .next (s.onDev fun d => (d.refSelect v rateOk).settle)

def execXtalOk (s : State) : Host.Outcome State Fault Refusal := .next (s.onDev fun d => d.xtalOk.settle)

def execXtalFail (s : State) : Host.Outcome State Fault Refusal := .next (s.onDev fun d => d.xtalFail.settle)

def execPilotStop (s : State) : Host.Outcome State Fault Refusal := .next (s.onDev fun d => d.pilotStop.settle)

def execPulseAck (source : BitVec 10) (s : State) : Host.Outcome State Fault Refusal :=
  .next (s.onDev fun d => (d.pulseAck source.toNat).settle)

def execSourceFire (target : BitVec 7) (source : BitVec 10) (more : BitVec 4) (s : State) :
    Host.Outcome State Fault Refusal :=
  .next (s.onDev fun d => (d.fireBurst target.toNat source.toNat more.toNat).settle)

end Sys2Proof.Machine
end

