-- ==== Sys2Proof/Machine/Alu.lean ====
section
/-! DEFINITION. The ALU unit (R136 to R142): what each of its syllables does, from the operands it reads. -/

namespace Sys2Proof.Machine

/-! DW register instructions (R136). -/

def effAdd (d a b : BitVec 5) (c : Core) : Eff := (Eff.alu d (addWrap (c.d a) (c.d b) 0)).trapV c
def effAdc (d a b : BitVec 5) (c : Core) : Eff := (Eff.alu d (addWrap (c.d a) (c.d b) (b2n c.c))).trapV c
def effSub (d a b : BitVec 5) (c : Core) : Eff := (Eff.alu d (subWrap (c.d a) (c.d b) 0)).trapV c
def effSbc (d a b : BitVec 5) (c : Core) : Eff := (Eff.alu d (subWrap (c.d a) (c.d b) (1 - b2n c.c))).trapV c
def effAdds (d a b : BitVec 5) (c : Core) : Eff := Eff.alu d (addSat (c.d a) (c.d b))
def effSubs (d a b : BitVec 5) (c : Core) : Eff := Eff.alu d (subSat (c.d a) (c.d b))
def effAnd (d a b : BitVec 5) (c : Core) : Eff := Eff.alu d (logicOut (c.d a &&& c.d b))
def effOr (d a b : BitVec 5) (c : Core) : Eff := Eff.alu d (logicOut (c.d a ||| c.d b))
def effXor (d a b : BitVec 5) (c : Core) : Eff := Eff.alu d (logicOut (c.d a ^^^ c.d b))
def effAndn (d a b : BitVec 5) (c : Core) : Eff := Eff.alu d (logicOut (c.d a &&& ~~~(c.d b)))
def effCmp (a b : BitVec 5) (c : Core) : Eff := Eff.flagsOnly (subWrap (c.d a) (c.d b) 0)
def effTst (a b : BitVec 5) (c : Core) : Eff := Eff.flagsOnly (logicOut (c.d a &&& c.d b))
def effMin (d a b : BitVec 5) (c : Core) : Eff :=
  Eff.alu d (pickOut (if (c.d a).toInt ≤ (c.d b).toInt then c.d a else c.d b))
def effMax (d a b : BitVec 5) (c : Core) : Eff :=
  Eff.alu d (pickOut (if (c.d a).toInt ≤ (c.d b).toInt then c.d b else c.d a))
def effNeg (d a : BitVec 5) (c : Core) : Eff := (Eff.alu d (subWrap 0#28 (c.d a) 0)).trapV c
def effNegs (d a : BitVec 5) (c : Core) : Eff := Eff.alu d (subSat 0#28 (c.d a))
def effAbs (d a : BitVec 5) (c : Core) : Eff := (Eff.alu d (absWrap (c.d a))).trapV c
def effAbss (d a : BitVec 5) (c : Core) : Eff := Eff.alu d (absSat (c.d a))
def effNot (d a : BitVec 5) (c : Core) : Eff := Eff.alu d (logicOut (~~~(c.d a)))

/-- Bits from `n - 1` down that equal bit [27], until the first that differs. -/
def normCount (v : DW) : Nat → Nat
  | 0 => 0
  | n + 1 => if v.getLsbD n == v.msb then normCount v n + 1 else 0

/-- NORM: Z follows the count, N is 0, C and V unchanged (R136). -/
def effNorm (d a : BitVec 5) (c : Core) : Eff :=
  let r := BitVec.ofNat 28 (normCount (c.d a) 27)
  Eff.alu d ⟨r, ⟨some (r == 0#28), some false, none, none⟩, false⟩
def effSxw (d a : BitVec 5) (c : Core) : Eff := Eff.putD d (((c.d a).extractLsb' 0 14).signExtend 28)
def effPack (d a b : BitVec 5) (c : Core) : Eff :=
  Eff.putD d ((c.d a).extractLsb' 0 14 ++ (c.d b).extractLsb' 0 14)

/-- A shift count: bits [5:0] of the operand (R140). -/
def shiftCount (v : DW) : Nat := (v.extractLsb' 0 6).toNat

def effLsl (d a b : BitVec 5) (c : Core) : Eff := Eff.alu d (shiftLeft (c.d a) (shiftCount (c.d b)))
def effLsr (d a b : BitVec 5) (c : Core) : Eff := Eff.alu d (shiftRight (c.d a) (shiftCount (c.d b)))
def effAsr (d a b : BitVec 5) (c : Core) : Eff := Eff.alu d (shiftArith (c.d a) (shiftCount (c.d b)))
def effRor (d a b : BitVec 5) (c : Core) : Eff := Eff.alu d (rotRight (c.d a) (shiftCount (c.d b)))
def effRol (d a b : BitVec 5) (c : Core) : Eff := Eff.alu d (rotLeft (c.d a) (shiftCount (c.d b)))

/-- Quotient, remainder, V and the DZ contribution of a division (R141). -/
def divide (a b : DW) : DW × DW × Bool × Bool :=
  if b = 0#28 then ((if a.msb then 0x8000000#28 else 0x7FFFFFF#28), a, true, true)
  else
    let q := a.toInt.tdiv b.toInt
    (BitVec.ofInt 28 q, BitVec.ofInt 28 (a.toInt - q * b.toInt), outside 28 q, false)

/-- DIV: the divide trap before the overflow trap; Z and N follow q, C is 0 (R141, R142). -/
def effDiv (d a b : BitVec 5) (c : Core) : Eff :=
  let (q, r, v, dz) := divide (c.d a) (c.d b)
  if dz && c.traps.getLsbD 0 then Eff.raise 0x0E none 0
  else
    ({ Eff.none with
        grs := [(d.toNat, fullMask, q), (d.toNat + 1, fullMask, r)]
        flags := flagsZN q (some false) (some v)
        dz := dz
        steps := 16 } : Eff).trapV c

/-! Immediate and constant instructions (R137). -/

def effAddi (d a : BitVec 5) (imm : BitVec 6) (c : Core) : Eff :=
  (Eff.alu d (addWrap (c.d a) (imm.signExtend 28) 0)).trapV c
def effCmpi (a : BitVec 5) (imm : BitVec 6) (c : Core) : Eff :=
  Eff.flagsOnly (subWrap (c.d a) (imm.signExtend 28) 0)
def effLsli (d a : BitVec 5) (imm : BitVec 6) (c : Core) : Eff := Eff.alu d (shiftLeft (c.d a) imm.toNat)
def effLsri (d a : BitVec 5) (imm : BitVec 6) (c : Core) : Eff := Eff.alu d (shiftRight (c.d a) imm.toNat)
def effAsri (d a : BitVec 5) (imm : BitVec 6) (c : Core) : Eff := Eff.alu d (shiftArith (c.d a) imm.toNat)
def effRori (d a : BitVec 5) (imm : BitVec 6) (c : Core) : Eff := Eff.alu d (rotRight (c.d a) imm.toNat)
def effRoli (d a : BitVec 5) (imm : BitVec 6) (c : Core) : Eff := Eff.alu d (rotLeft (c.d a) imm.toNat)
def effMovi (d : BitVec 5) (imm : BitVec 11) : Eff := Eff.putD d (imm.signExtend 28)

/-- MOVH, MOVM and MOVL write a field of Dd (R137). -/
def effField (d : BitVec 5) (mask : DW) (v : DW) : Eff := { Eff.none with grs := [(d.toNat, mask, v)] }
def effMovh (d : BitVec 5) (imm : BitVec 11) : Eff := effField d 0xFFE0000 ((imm.setWidth 28) <<< 17)
def effMovm (d : BitVec 5) (imm : BitVec 11) : Eff := effField d 0x001FFC0 ((imm.setWidth 28) <<< 6)
def effMovl (d : BitVec 5) (imm : BitVec 6) : Eff := effField d 0x000003F (imm.setWidth 28)

/-! W instructions (R138). -/

/-- A W shift count: bits [5:0] of the half (R138, R140). -/
def shiftCountW (v : W) : Nat := (v.extractLsb' 0 6).toNat

def effAddw (d a b : Half) (c : Core) : Eff := (Eff.aluW d (addWrap (c.half a) (c.half b) 0)).trapV c
def effSubw (d a b : Half) (c : Core) : Eff := (Eff.aluW d (subWrap (c.half a) (c.half b) 0)).trapV c
def effAddsw (d a b : Half) (c : Core) : Eff := Eff.aluW d (addSat (c.half a) (c.half b))
def effSubsw (d a b : Half) (c : Core) : Eff := Eff.aluW d (subSat (c.half a) (c.half b))
def effCmpw (a b : Half) (c : Core) : Eff := Eff.flagsOnly (subWrap (c.half a) (c.half b) 0)
def effNegw (d a : Half) (c : Core) : Eff := (Eff.aluW d (subWrap 0#14 (c.half a) 0)).trapV c
def effNegsw (d a : Half) (c : Core) : Eff := Eff.aluW d (subSat 0#14 (c.half a))
def effAbsw (d a : Half) (c : Core) : Eff := (Eff.aluW d (absWrap (c.half a))).trapV c
def effAbssw (d a : Half) (c : Core) : Eff := Eff.aluW d (absSat (c.half a))
def effMinw (d a b : Half) (c : Core) : Eff :=
  Eff.aluW d (pickOut (if (c.half a).toInt ≤ (c.half b).toInt then c.half a else c.half b))
def effMaxw (d a b : Half) (c : Core) : Eff :=
  Eff.aluW d (pickOut (if (c.half a).toInt ≤ (c.half b).toInt then c.half b else c.half a))
def effLslw (d a b : Half) (c : Core) : Eff := Eff.aluW d (shiftLeft (c.half a) (shiftCountW (c.half b)))
def effLsrw (d a b : Half) (c : Core) : Eff := Eff.aluW d (shiftRight (c.half a) (shiftCountW (c.half b)))
def effAsrw (d a b : Half) (c : Core) : Eff := Eff.aluW d (shiftArith (c.half a) (shiftCountW (c.half b)))
def effRorw (d a b : Half) (c : Core) : Eff := Eff.aluW d (rotRight (c.half a) (shiftCountW (c.half b)))
def effMovw (d a : Half) (c : Core) : Eff := Eff.aluW d ⟨c.half a, FlagOut.keep, false⟩

end Sys2Proof.Machine
end

