-- ==== Sys2Proof/Machine/Mac.lean ====
section
/-! DEFINITION. The MAC units (R143 to R145): what each of their syllables does, from the operands it reads. -/

namespace Sys2Proof.Machine

/-- A product: exact, doubled when FRAC = 1 (R144). -/
def product (a b : Int) (frac : Bool) : Int := if frac then 2 * (a * b) else a * b

/-- The low W of a D register as a signed number (R143, MACW and MPYW). -/
def Core.lowW (c : Core) (n : BitVec 5) : Int := ((c.d n).extractLsb' 0 14).toInt

/-- MAC and MPY forms: the accumulator or zero, plus or minus the product, modulo 2^70 (R143, R144). -/
def macSum (base p : Int) (sub : Bool) : Acc := BitVec.ofInt 70 (if sub then base - p else base + p)

def effMac (o : MacOps) (c : Core) : Eff :=
  Eff.putA o.acc (macSum (c.a o.acc).toInt (product (c.d o.a).toInt (c.d o.b).toInt o.frac) o.sub)
def effMpy (o : MacOps) (c : Core) : Eff :=
  Eff.putA o.acc (macSum 0 (product (c.d o.a).toInt (c.d o.b).toInt o.frac) o.sub)
def effMacw (o : MacOps) (c : Core) : Eff :=
  Eff.putA o.acc (macSum (c.a o.acc).toInt (product (c.lowW o.a) (c.lowW o.b) o.frac) o.sub)
def effMpyw (o : MacOps) (c : Core) : Eff :=
  Eff.putA o.acc (macSum 0 (product (c.lowW o.a) (c.lowW o.b) o.frac) o.sub)

/-- The scaled value of an extraction: nearest with ties away from zero, or floored (R145). -/
def extScale (v : Int) (s : Nat) (rnd : Bool) : Int :=
  if rnd && decide (1 ≤ s) then
    let m : Int := ((v.natAbs + 2 ^ (s - 1)) / 2 ^ s : Nat)
    if v < 0 then -m else m
  else v / 2 ^ s

/-- The value an extraction writes, and whether it clipped (R145). -/
def extract (w : Nat) (v : Acc) (shift : BitVec 6) (sat rnd : Bool) : BitVec w × Bool :=
  let r := extScale v.toInt shift.toNat rnd
  if sat then (satBits w r, outside w r) else (BitVec.ofInt w r, false)

def effExt (d : BitVec 5) (acc : BitVec 2) (shift : BitVec 6) (sat rnd : Bool) (c : Core) : Eff :=
  let (r, s) := extract 28 (c.a acc) shift sat rnd
  { Eff.putD d r with sat := s }
def effExtw (d : BitVec 5) (acc : BitVec 2) (shift : BitVec 6) (sat rnd : Bool) (c : Core) : Eff :=
  let (r, s) := extract 14 (c.a acc) shift sat rnd
  { Eff.none with grs := [(d.toNat, halfMask false, halfPut false r)], sat := s }
def effClra (acc : BitVec 2) : Eff := Eff.putA acc 0#70
def effLda (d : BitVec 5) (acc : BitVec 2) (shift : BitVec 6) (c : Core) : Eff :=
  Eff.putA acc (BitVec.ofInt 70 ((c.d d).toInt * 2 ^ shift.toNat))

end Sys2Proof.Machine
end

