-- ==== Sys2Proof/Machine/Bundle.lean ====
section
/-! DEFINITION. A bundle before it executes: what its syllables write and read, and the checks of R107, orders 2 to 5
(R90, R91, R101, R105, R107, R120, R129, R133, R154). -/

namespace Sys2Proof.Machine

/-- A syllable of a fetched bundle: its word, and the instruction that its UNIT and OP name. -/
structure Syl where
  word : DW
  ins : Option Instr
  deriving DecidableEq, Repr

/-- A syllable as a command brings it. -/
def Syl.ofInstr (i : Instr) : Syl := ⟨(encodeSyll i).getD 0, some i⟩

/-- A syllable as a word of memory brings it. -/
def Syl.ofWord (w : DW) : Syl := ⟨w, rawSyll 0 0 w⟩

def Syl.unit (s : Syl) : Nat := (s.word.extractLsb' 24 3).toNat
def Syl.stop (s : Syl) : Bool := s.word.getLsbD 27

/-! What a syllable writes (R105, R129): keys below 0x40 are general registers, 0x40 to 0x43 accumulators, and 0x80 + n
system register n; with the bits that are written. -/

/-- The half of Dn as a register. DEDUCED: log 135. -/
def halfKey (h : Half) : Nat × DW := (h.reg.toNat, halfMask h.hi)
/-- DEDUCED: log 135. -/
def wholeKey (n : BitVec 5) : Nat × DW := (n.toNat, fullMask)
def sysKey (n : Nat) : Nat × DW :=
  if 0x20 ≤ n then (0x40 + (n - 0x20) / 3, fullMask) else (0x80 + n, fullMask)
/-- DEDUCED: log 136. -/
def psKey : Nat × DW := sysKey 0x08
/-- The two registers of a pair from Dn on; D31 has no register after it. DEDUCED: log 160. -/
def pairKeys (n : BitVec 5) : List (Nat × DW) :=
  if n = 31 then [(31, fullMask)] else [(n.toNat, fullMask), (n.toNat + 1, fullMask)]

/-- The pointer that post-modify writes. -/
def postKeys (o : LsOps) : List (Nat × DW) :=
  if o.am = 1 || o.am = 2 then [(0x20 + o.p.toNat, fullMask)] else []

/-- DEDUCED: log 136. -/
def syllWrites : Instr → List (Nat × DW)
  | .call _ _ => [(0x27, fullMask), sysKey 0x09]
  | .callr _ _ => [(0x27, fullMask), sysKey 0x09]
  | .ret _ => [(0x27, fullMask), sysKey 0x09]
  | .retx _ => [psKey]
  | .loop _ _ _ => [sysKey 0, sysKey 1, sysKey 2]
  | .mov _ dst _ => [(dst.toNat, fullMask)]
  | .sys _ d n dir => if dir then [sysKey n.toNat] else [wholeKey d]
  | .add _ d _ _ => [wholeKey d, psKey]
  | .adc _ d _ _ => [wholeKey d, psKey]
  | .sub _ d _ _ => [wholeKey d, psKey]
  | .sbc _ d _ _ => [wholeKey d, psKey]
  | .adds _ d _ _ => [wholeKey d, psKey]
  | .subs _ d _ _ => [wholeKey d, psKey]
  | .and _ d _ _ => [wholeKey d, psKey]
  | .or _ d _ _ => [wholeKey d, psKey]
  | .xor _ d _ _ => [wholeKey d, psKey]
  | .andn _ d _ _ => [wholeKey d, psKey]
  | .cmp _ _ _ => [psKey]
  | .tst _ _ _ => [psKey]
  | .min _ d _ _ => [wholeKey d, psKey]
  | .max _ d _ _ => [wholeKey d, psKey]
  | .neg _ d _ => [wholeKey d, psKey]
  | .negs _ d _ => [wholeKey d, psKey]
  | .abs _ d _ => [wholeKey d, psKey]
  | .abss _ d _ => [wholeKey d, psKey]
  | .not _ d _ => [wholeKey d, psKey]
  | .norm _ d _ => [wholeKey d, psKey]
  | .sxw _ d _ => [wholeKey d]
  | .pack _ d _ _ => [wholeKey d]
  | .lsl _ d _ _ => [wholeKey d, psKey]
  | .lsr _ d _ _ => [wholeKey d, psKey]
  | .asr _ d _ _ => [wholeKey d, psKey]
  | .ror _ d _ _ => [wholeKey d, psKey]
  | .rol _ d _ _ => [wholeKey d, psKey]
  | .div _ d _ _ => psKey :: pairKeys d
  | .addi _ d _ _ => [wholeKey d, psKey]
  | .cmpi _ _ _ => [psKey]
  | .lsli _ d _ _ => [wholeKey d, psKey]
  | .lsri _ d _ _ => [wholeKey d, psKey]
  | .asri _ d _ _ => [wholeKey d, psKey]
  | .rori _ d _ _ => [wholeKey d, psKey]
  | .roli _ d _ _ => [wholeKey d, psKey]
  | .movi _ d _ => [wholeKey d]
  | .movh _ d _ => [wholeKey d]
  | .movm _ d _ => [wholeKey d]
  | .movl _ d _ => [wholeKey d]
  | .addw _ d _ _ => [halfKey d, psKey]
  | .subw _ d _ _ => [halfKey d, psKey]
  | .addsw _ d _ _ => [halfKey d, psKey]
  | .subsw _ d _ _ => [halfKey d, psKey]
  | .cmpw _ _ _ => [psKey]
  | .negw _ d _ => [halfKey d, psKey]
  | .negsw _ d _ => [halfKey d, psKey]
  | .absw _ d _ => [halfKey d, psKey]
  | .abssw _ d _ => [halfKey d, psKey]
  | .minw _ d _ _ => [halfKey d, psKey]
  | .maxw _ d _ _ => [halfKey d, psKey]
  | .lslw _ d _ _ => [halfKey d, psKey]
  | .lsrw _ d _ _ => [halfKey d, psKey]
  | .asrw _ d _ _ => [halfKey d, psKey]
  | .rorw _ d _ _ => [halfKey d, psKey]
  | .movw _ d _ => [halfKey d]
  | .mac _ o => [(0x40 + o.acc.toNat, fullMask)]
  | .mpy _ o => [(0x40 + o.acc.toNat, fullMask)]
  | .macw _ o => [(0x40 + o.acc.toNat, fullMask)]
  | .mpyw _ o => [(0x40 + o.acc.toNat, fullMask)]
  | .ext _ _ d _ _ _ _ => [wholeKey d]
  | .extw _ _ d _ _ _ _ => [(d.toNat, halfMask false)]
  | .clra _ _ a => [(0x40 + a.toNat, fullMask)]
  | .lda _ _ _ a _ => [(0x40 + a.toNat, fullMask)]
  | .ldw _ o => wholeKey o.d :: postKeys o
  | .ldwl _ o => (o.d.toNat, halfMask false) :: postKeys o
  | .ldwh _ o => (o.d.toNat, halfMask true) :: postKeys o
  | .ld _ o => wholeKey o.d :: postKeys o
  | .ldp _ o => pairKeys o.d ++ postKeys o
  | .stw _ o => postKeys o
  | .stwh _ o => postKeys o
  | .st _ o => postKeys o
  | .stp _ o => postKeys o
  | .pmod _ p _ _ => [(0x20 + p.toNat, fullMask)]
  | _ => []

/-! What a syllable reads of D registers: the bits that the load-use rule looks at (R154). -/

/-- The low half of Dn. DEDUCED: log 160. -/
def lowKey (n : BitVec 5) : Nat × DW := (n.toNat, halfMask false)

/-- DEDUCED: log 160. -/
def syllReads : Instr → List (Nat × DW)
  | .loop _ (.reg n) _ => [wholeKey n]
  | .mov _ _ src => [(src.toNat, fullMask)]
  | .sys _ d _ true => [wholeKey d]
  | .add _ _ a b => [wholeKey a, wholeKey b]
  | .adc _ _ a b => [wholeKey a, wholeKey b]
  | .sub _ _ a b => [wholeKey a, wholeKey b]
  | .sbc _ _ a b => [wholeKey a, wholeKey b]
  | .adds _ _ a b => [wholeKey a, wholeKey b]
  | .subs _ _ a b => [wholeKey a, wholeKey b]
  | .and _ _ a b => [wholeKey a, wholeKey b]
  | .or _ _ a b => [wholeKey a, wholeKey b]
  | .xor _ _ a b => [wholeKey a, wholeKey b]
  | .andn _ _ a b => [wholeKey a, wholeKey b]
  | .cmp _ a b => [wholeKey a, wholeKey b]
  | .tst _ a b => [wholeKey a, wholeKey b]
  | .min _ _ a b => [wholeKey a, wholeKey b]
  | .max _ _ a b => [wholeKey a, wholeKey b]
  | .neg _ _ a => [wholeKey a]
  | .negs _ _ a => [wholeKey a]
  | .abs _ _ a => [wholeKey a]
  | .abss _ _ a => [wholeKey a]
  | .not _ _ a => [wholeKey a]
  | .norm _ _ a => [wholeKey a]
  | .sxw _ _ a => [lowKey a]
  | .pack _ _ a b => [lowKey a, lowKey b]
  | .lsl _ _ a b => [wholeKey a, lowKey b]
  | .lsr _ _ a b => [wholeKey a, lowKey b]
  | .asr _ _ a b => [wholeKey a, lowKey b]
  | .ror _ _ a b => [wholeKey a, lowKey b]
  | .rol _ _ a b => [wholeKey a, lowKey b]
  | .div _ _ a b => [wholeKey a, wholeKey b]
  | .addi _ _ a _ => [wholeKey a]
  | .cmpi _ a _ => [wholeKey a]
  | .lsli _ _ a _ => [wholeKey a]
  | .lsri _ _ a _ => [wholeKey a]
  | .asri _ _ a _ => [wholeKey a]
  | .rori _ _ a _ => [wholeKey a]
  | .roli _ _ a _ => [wholeKey a]
  | .movh _ d _ => [wholeKey d]
  | .movm _ d _ => [wholeKey d]
  | .movl _ d _ => [wholeKey d]
  | .addw _ _ a b => [halfKey a, halfKey b]
  | .subw _ _ a b => [halfKey a, halfKey b]
  | .addsw _ _ a b => [halfKey a, halfKey b]
  | .subsw _ _ a b => [halfKey a, halfKey b]
  | .cmpw _ a b => [halfKey a, halfKey b]
  | .negw _ _ a => [halfKey a]
  | .negsw _ _ a => [halfKey a]
  | .absw _ _ a => [halfKey a]
  | .abssw _ _ a => [halfKey a]
  | .minw _ _ a b => [halfKey a, halfKey b]
  | .maxw _ _ a b => [halfKey a, halfKey b]
  | .lslw _ _ a b => [halfKey a, halfKey b]
  | .lsrw _ _ a b => [halfKey a, halfKey b]
  | .asrw _ _ a b => [halfKey a, halfKey b]
  | .rorw _ _ a b => [halfKey a, halfKey b]
  | .movw _ _ a => [halfKey a]
  | .mac _ o => [wholeKey o.a, wholeKey o.b]
  | .mpy _ o => [wholeKey o.a, wholeKey o.b]
  | .macw _ o => [lowKey o.a, lowKey o.b]
  | .mpyw _ o => [lowKey o.a, lowKey o.b]
  | .lda _ _ d _ _ => [wholeKey d]
  | .stw _ o => [(o.d.toNat, halfMask false)]
  | .stwh _ o => [(o.d.toNat, halfMask true)]
  | .st _ o => [wholeKey o.d]
  | .stp _ o => pairKeys o.d
  | .rep _ (.reg n) _ => [wholeKey n]
  | .blkmac _ n _ _ _ _ _ _ _ => [wholeKey n]
  | .blkmov _ n _ _ _ _ _ => [wholeKey n]
  | .blkfill _ n fa _ _ _ _ => [wholeKey n, (fa.toNat, fullMask)]
  | .blkmax _ n _ _ _ _ _ _ => [wholeKey n]
  | _ => []

/-- Two lists of register bits share a bit (R154). -/
def overlap (l r : List (Nat × DW)) : Bool := l.any fun x => r.any fun y => x.1 = y.1 && x.2 &&& y.2 ≠ 0

/-! Order 2: well formed (R105, R129). -/

def Syl.writes (s : Syl) : List (Nat × DW) := match s.ins with | some i => syllWrites i | none => []
def Syl.reads (s : Syl) : List (Nat × DW) := match s.ins with | some i => syllReads i | none => []

/-- Two lists of writes name the same register, a half standing for its whole register (R87). DEDUCED: log 135. -/
def clash (l r : List (Nat × DW)) : Bool := l.any fun x => r.any fun y => x.1 = y.1

/-- No two syllables write the same register. DEDUCED: log 135. -/
def writesApart : List Syl → Bool
  | [] => true
  | s :: t => t.all (fun r => !clash s.writes r.writes) && writesApart t

/-- Strictly ascending UNIT order. -/
def ascending : List Syl → Bool
  | s :: t :: r => decide (s.unit < t.unit) && ascending (t :: r)
  | _ => true

def Syl.isRep (s : Syl) : Bool := match s.ins with | some (.rep _ _ _) => true | _ => false

/-- A long instruction. -/
def Syl.isLong (s : Syl) : Bool :=
  match s.ins with
  | some (.blkmac _ _ _ _ _ _ _ _ _) => true
  | some (.blkmov _ _ _ _ _ _ _) => true
  | some (.blkfill _ _ _ _ _ _ _) => true
  | some (.blkmax _ _ _ _ _ _ _ _) => true
  | _ => false

/-- A syllable that a REP bundle may not contain. -/
def Syl.noRep (s : Syl) : Bool :=
  match s.ins with
  | some (.br _ _ _) => true
  | some (.jr _ _ _) => true
  | some (.call _ _) => true
  | some (.callr _ _) => true
  | some (.ret _) => true
  | some (.retx _) => true
  | some (.wait _) => true
  | some (.barrier _ _) => true
  | some (.svc _ _) => true
  | some (.brk _ _) => true
  | _ => false

def wellFormed (l : List Syl) : Bool :=
  match l with
  | [] => false
  | h :: t =>
    ((l.getLast?).map Syl.stop).getD false && decide (l.length ≤ 5)
      && t.all (fun s => s.unit ≠ 5)
      && ascending (if h.unit = 5 then t else l)
      && (!h.isRep || (!t.isEmpty && t.all (fun s => !s.noRep)))
      && (!h.isLong || t.isEmpty)
      && writesApart l

/-! What a syllable reads of the register file and the accumulators, for their codes (R192, R197): general numbers, and
0x40 + 3 × a + k for part k of accumulator a. A write of half a register reads the other half. -/

def accParts (a : Nat) : List Nat := [0x40 + 3 * a, 0x41 + 3 * a, 0x42 + 3 * a]

/-- The pointer registers of an address, with those of a circular step. -/
def lsUses (o : LsOps) : List Nat :=
  let p := o.p.toNat
  let m := (o.x.setWidth 3 : BitVec 3).toNat
  if o.am = 0 then [0x20 + p]
  else if o.am = 2 then [0x20 + p, 0x28 + m, 0x30 + p, 0x38 + p]
  else [0x20 + p, 0x28 + m]

/-- The pointers of a long instruction. -/
def blkUses (p : BitVec 3) (circ : Bool) : List Nat :=
  if circ then [0x20 + p.toNat, 0x30 + p.toNat, 0x38 + p.toNat] else [0x20 + p.toNat]

def syllPtrs : Instr → List Nat
  | .jr _ _ p => [0x20 + p.toNat]
  | .call _ _ => [0x27]
  | .callr _ p => [0x20 + p.toNat, 0x27]
  | .ret _ => [0x27]
  | .sys _ _ n false => if 0x20 ≤ n.toNat then [0x20 + n.toNat] else []
  | .mac _ o => accParts o.acc.toNat
  | .macw _ o => accParts o.acc.toNat
  | .ext _ _ _ a _ _ _ => accParts a.toNat
  | .extw _ _ _ a _ _ _ => accParts a.toNat
  | .ldw _ o => lsUses o
  | .ldwl _ o => lsUses o
  | .ldwh _ o => lsUses o
  | .ld _ o => lsUses o
  | .ldp _ o => lsUses o
  | .stw _ o => lsUses o
  | .stwh _ o => lsUses o
  | .st _ o => lsUses o
  | .stp _ o => lsUses o
  | .pmod _ p am m => lsUses ⟨0, p, am, m.setWidth 6⟩
  | .blkmac _ _ fa fb acc _ ci _ _ => blkUses fa ci ++ blkUses fb ci ++ accParts acc.toNat
  | .blkmov _ _ fa fb ci _ _ => blkUses fa ci ++ blkUses fb ci
  | .blkfill _ _ _ fb ci _ _ => blkUses fb ci
  | .blkmax _ _ fa _ _ ci _ _ => blkUses fa ci
  | _ => []

/-- The registers and accumulator parts whose stored words a bundle reads. -/
def bundleRegs (l : List Syl) : List Nat :=
  l.flatMap fun s =>
    s.reads.map (·.1) ++ (s.writes.filter (fun w => w.2 ≠ fullMask)).map (·.1)
      ++ (match s.ins with | some i => syllPtrs i | none => [])

/-- A bundle reads a register whose stored word is uncorrectable. DESIGN CHOICE: log 167. -/
def Core.readsBad (c : Core) (l : List Syl) : Bool := !c.bad.isEmpty && (bundleRegs l).any c.bad.contains

/-- The page that counts the stored words of a core's registers (R201, R472). -/
def corePage (core : Nat) : Nat := if core < 64 then 0x010 + core / 4 else 0x020 + (core - 64)

/-- The registers that a bundle reads are corrected, written back and counted where they are correctable (R192, R194). -/
def Dev.regCorrect (d : Dev) (core : Nat) (l : List Syl) : Dev :=
  if (d.core core).weak.isEmpty then d
  else
    let hit := (d.core core).weak.filter (bundleRegs l).contains
    (d.modCore core fun c => { c with weak := c.weak.filter fun n => !hit.contains n }).each hit fun d _ =>
      d.countCorr (corePage core)

/-! Orders 3 to 5. -/

/-- A syllable passes order 3: assigned, its reserved bits 0, its operands as R107 order 3 asks. -/
def Syl.assigned (s : Syl) : Bool :=
  match s.ins with
  | some i => syllOk i && encodeSyll i == some s.word
  | none => false

/-- Levels S and M. DEDUCED: log 134. -/
def Core.above (c : Core) : Bool := c.priv ≠ 0

/-- A write of PS that R91 refuses. -/
def psRefused (c : Core) (v : DW) : Bool :=
  let want := (v.extractLsb' 10 2).toNat
  if c.priv = 0 then false else want = 2 || (c.priv = 1 && want = 3)

/-- Order 4: the syllable asks for something that its level may not do (R90, R91, R101, R133). DEDUCED: log 132. -/
def privRefused (c : Core) (dsp : Bool) (i : Instr) : Bool :=
  match i with
  | .retx _ => !c.above
  | .wait _ => dsp && c.priv = 1
  | .sys _ d n dir =>
    let k := n.toNat
    if dir then
      (k = 0x08 && psRefused c (c.d d)) || k = 0x09 || k = 0x0B || k = 0x14
        || (!c.above && (k = 0x0A || (0x10 ≤ k && k ≤ 0x13)))
    else !c.above && 0x10 ≤ k && k ≤ 0x14
  | _ => false

/-- The count that REP or a long instruction takes, and how much of it is done: LPROG's where it resumes (R124). -/
def Core.resumeAt (c : Core) (kind count : Nat) : Nat × Nat × Bool :=
  if (c.lprog.extractLsb' 26 2).toNat = kind then
    ((c.lprog.extractLsb' 13 13).toNat, (c.lprog.extractLsb' 0 13).toNat, true)
  else (count, 0, false)

/-- The same, where the core goes on at its place within the instruction (R164). DEDUCED: log 143. -/
def progress (c : Core) (kind count : Nat) : Nat × Nat × Bool :=
  match c.midway with
  | some m => if m.addr = c.fetch && m.kind = kind then (m.total, m.done, true) else c.resumeAt kind count
  | none => c.resumeAt kind count

def repCount (c : Core) : RepCount → Nat
  | .imm n => n.toNat + 1
  | .reg n => (c.d n).toNat

/-- A syllable writes LC (R120). -/
def Syl.writesLc (s : Syl) : Bool := s.writes.any (fun w => w.1 = 0x80)

/-- The count that a PFX syllable latches, none for another syllable; and its limit. -/
def prefixCount (c : Core) (i : Instr) : Option (Nat × Nat × Nat) :=
  match i with
  | .rep _ n _ => some (1, repCount c n, 1024)
  | .blkmac _ n _ _ _ _ _ _ _ => some (2, (c.d n).toNat, 4096)
  | .blkmov _ n _ _ _ _ _ => some (2, (c.d n).toNat, 4096)
  | .blkfill _ n _ _ _ _ _ => some (2, (c.d n).toNat, 4096)
  | .blkmax _ n _ _ _ _ _ _ => some (2, (c.d n).toNat, 4096)
  | _ => none

/-- Order 5: the repeat conflicts (R120, R121). -/
def countRefused (c : Core) (s : Syl) : Option Exc :=
  match s.ins.bind (prefixCount c) with
  | some (kind, count, limit) =>
    if (progress c kind count).2.2 || count ≤ limit then none else some ⟨0x05, some (BitVec.ofNat 28 count), 0⟩
  | none => none

/-- The first syllable with a property, with its position. -/
def firstSyl (p : Syl → Bool) (l : List Syl) : Option (Nat × Syl) :=
  (l.zipIdx.find? (fun x => p x.1)).map (fun x => (x.2, x.1))

/-- The checks of R107, orders 2 to 5: what a fetched bundle raises, with the position of the syllable.
DEDUCED: log 132. -/
def precheck (c : Core) (dsp : Bool) (l : List Syl) : Option (Nat × Exc) :=
  let first := ((l.head?).map Syl.word).getD 0
  if !wellFormed l then some (0, ⟨0x02, some first, 0⟩)
  else
    match firstSyl (fun s => !s.assigned) l with
    | some (i, s) => some (i, ⟨0x01, some s.word, 0⟩)
    | none =>
      match firstSyl (fun s => (s.ins.map (privRefused c dsp)).getD false) l with
      | some (i, s) => some (i, ⟨0x03, some s.word, 0⟩)
      | none =>
        match (if ((l.head?).map Syl.isRep).getD false then firstSyl Syl.writesLc l else none) with
        | some (i, s) => some (i, ⟨0x05, some s.word, 0⟩)
        | none => (((l.head?).bind (countRefused c))).map (fun e => (0, e))

end Sys2Proof.Machine
end

