-- ==== Sys2Proof/Machine/Ctl.lean ====
section
/-! DEFINITION. The CTL and LS units (R90, R95, R110 to R115, R131 to R135, R146, R147, R206, R211): what each of their
syllables does, from the operands it reads. -/

namespace Sys2Proof.Machine

/-- Where a syllable executes: its core, the address and length of its bundle, and the step in which it issues. -/
structure Place where
  core : Nat
  addr : Nat
  len : Nat
  step : Nat
  deriving DecidableEq, Repr

/-! Transfers (R111 to R113, R131, R132). -/

/-- The return address: the first syllable after the bundle. -/
def Place.next (x : Place) : DW := BitVec.ofNat 28 (x.addr + x.len)

/-- The target of BR and CALL: the bundle's first syllable plus disp12, modulo 2^28; below 0 it lies above 0x4FFF.
DEDUCED: log 165. -/
def Place.target (x : Place) (disp : BitVec 12) : DW := BitVec.ofNat 28 x.addr + disp.signExtend 28

/-- The target of JR and CALLR: Pp[14:0]. -/
def ptrTarget (c : Core) (p : BitVec 3) : DW := ((c.p p).extractLsb' 0 15).setWidth 28

def effBranch (c : Core) (cond : BitVec 4) (target : DW) : Eff :=
  if condHolds cond c.z c.n c.c c.v then Eff.act [.jump target true] else Eff.none

/-- CALL and CALLR (R112). -/
def Dev.effCall (d : Dev) (c : Core) (x : Place) (target : DW) : Eff :=
  let sp := c.g 0x27 - 2
  if 32 ≤ c.shadow.length then Eff.raise 0x0A (some target) 0
  else
    match d.accCheck x.core c.priv true sp 2 with
    | some e => { Eff.none with exc := some e }
    | none =>
      { Eff.none with
        grs := [(0x27, fullMask, sp)]
        acts := [.storeD sp x.next, .push x.next, .jump target false] }

/-- What a load of n W meets before it reads: an exception of R94, or a poisoned word. -/
def Dev.loadMeets (d : Dev) (x : Place) (priv : Nat) (a : DW) (n : Nat) : Option Eff :=
  match d.accCheck x.core priv false a n with
  | some e => some { Eff.none with exc := some e }
  | none =>
    match d.poisonIn x.core a n with
    | some m =>
      match d.reaction x.core m with
      | .stream => none
      | .raise => some { Eff.raise 0x0D (some a) 0 with met := some m }
      | _ => some { Eff.none with met := some m }
    | none => none

/-- A load of n W reads zeros, because it meets a bad word of stream data (R197). -/
def Dev.loadZero (d : Dev) (x : Place) (a : DW) (n : Nat) : Bool := (d.poisonIn x.core a n).isSome

/-- The DW at offset k from an address, as a load of n W reads it: the second of two follows the reading of the first,
as the high part of a counter does (R23). -/
def Dev.loadedDW (d : Dev) (P : PageOps) (x : Place) (a : DW) (n : Nat) (k : Nat) : DW :=
  if d.loadZero x a n then 0
  else if k = 0 then d.loadDW P x.core x.step a.toNat true
  else (d.loadEffect P x.core x.step a.toNat true).loadDW P x.core x.step (a.toNat + k) true

/-- The W at an address. -/
def Dev.loadedW (d : Dev) (P : PageOps) (x : Place) (a : DW) : W :=
  if d.loadZero x a 1 then 0 else d.loadW P x.core x.step a.toNat

/-- RET (R113). -/
def Dev.effRet (d : Dev) (P : PageOps) (c : Core) (x : Place) : Eff :=
  let sp := c.g 0x27
  match c.shadow with
  | [] => Eff.raise 0x0B (some sp) 0
  | top :: _ =>
    match d.loadMeets x c.priv sp 2 with
    | some e => e
    | none =>
      let ra := d.loadedDW P x sp 2 0
      if ra ≠ top then Eff.raise 0x09 (some ra) (top.toNat % 0x8000)
      else
        { Eff.none with
          grs := [(0x27, fullMask, sp + 2)]
          acts := [.load sp 2, .pop, .jump ra false] }

/-- The order U, S, M of levels (R211). -/
def levelRank (l : Nat) : Nat := if l = 3 then 2 else l

/-- RETX (R210, R211). DEDUCED: log 136, 137. -/
def effRetx (c : Core) (x : Place) : Eff :=
  let want := (c.estat.extractLsb' 10 2).toNat
  let seal' := (c.eseal.extractLsb' 10 2).toNat
  if want = 2 || levelRank seal' < levelRank want then Eff.raise 0x04 (some (BitVec.ofNat 28 x.addr)) 0
  else Eff.act [.retx]

/-- LOOP (R115). -/
def effLoop (c : Core) (x : Place) (first : DW) (count : LoopCount) (endd : BitVec 7) : Eff :=
  if c.ld = 2 then Eff.raise 0x02 (some first) 0
  else
    let n := match count with | .imm k => k.toNat + 1 | .reg r => (c.d r).toNat
    let le := x.next + endd.setWidth 28
    if n = 0 then Eff.act [.jump (le + 1) false] else Eff.act [.loop n x.next le]

/-! System registers (R90, R91, R135). -/

/-- Part k of an accumulator. -/
def accPart (a : Acc) (k : Nat) : DW :=
  if k = 0 then a.extractLsb' 0 28 else if k = 1 then a.extractLsb' 28 28 else (a.extractLsb' 56 14).signExtend 28

def accPutPart (a : Acc) (k : Nat) (v : DW) : Acc :=
  if k = 0 then a.extractLsb' 56 14 ++ a.extractLsb' 28 28 ++ v
  else if k = 1 then a.extractLsb' 56 14 ++ v ++ a.extractLsb' 0 28
  else v.extractLsb' 0 14 ++ a.extractLsb' 28 28 ++ a.extractLsb' 0 28

/-- What a system register reads as. -/
def sysRead (c : Core) (n : Nat) : DW :=
  match n with
  | 0x00 => c.lc
  | 0x01 => c.ls
  | 0x02 => c.le
  | 0x03 => c.lc1
  | 0x04 => c.ls1
  | 0x05 => c.le1
  | 0x08 => c.ps
  | 0x09 => BitVec.ofNat 28 c.shadow.length
  | 0x0A => c.lprog
  | 0x0B => 1
  | 0x10 => c.epc
  | 0x11 => c.ecause
  | 0x12 => c.eval
  | 0x13 => c.estat
  | 0x14 => c.eseal
  | n => if 0x20 ≤ n && n ≤ 0x2B then accPart (tabGet 0#70 c.acc ((n - 0x20) / 3)) ((n - 0x20) % 3) else 0

/-- The bits of PS that a write changes (R87, R91). -/
def psWritable (c : Core) : DW := if c.priv = 0 then 0x3F else 0xD3F

/-- The loop buffer after a write of LS, LE, LS1 or LE1 (R92). -/
def Core.sysLoops (c : Core) (n : Nat) : LoopBuf :=
  if ((n = 0x01 || n = 0x02) && 1 ≤ c.ld) || ((n = 0x04 || n = 0x05) && c.ld = 2) then ⟨none, false⟩ else c.loopBuf

/-- A system register is written; registers that no level writes keep their value. -/
def sysWrite (c : Core) (n : Nat) (v : DW) : Core :=
  let c := { c with loopBuf := c.sysLoops n }
  match n with
  | 0x00 => { c with lc := v }
  | 0x01 => { c with ls := v }
  | 0x02 => { c with le := v }
  | 0x03 => { c with lc1 := v }
  | 0x04 => { c with ls1 := v }
  | 0x05 => { c with le1 := v }
  | 0x08 => { c with ps := maskPut c.ps (psWritable c) v }
  | 0x0A => { c with lprog := v }
  | 0x10 => { c with epc := v &&& 0x0007FFF }
  | 0x11 => { c with ecause := v &&& 0x87FFFFF }
  | 0x12 => { c with eval := v }
  | 0x13 => { c with estat := v &&& 0xFC03FFF }
  | n =>
    if 0x20 ≤ n && n ≤ 0x2B then
      let a := (n - 0x20) / 3
      { c with acc := tabSet c.acc a (accPutPart (tabGet 0#70 c.acc a) ((n - 0x20) % 3) v) }
    else c

def effSys (d : BitVec 5) (n : BitVec 6) (dir : Bool) (c : Core) : Eff :=
  if dir then Eff.act [.sys n (c.d d)] else Eff.putD d (sysRead c n.toNat)

def effMov (dst src : BitVec 6) (c : Core) : Eff := { Eff.none with grs := [(dst.toNat, fullMask, c.g src.toNat)] }

/-! Loads and stores (R146). -/

/-- The pointer that post-modify leaves. -/
def lsPostGrs (c : Core) (o : LsOps) : List (Nat × DW × DW) :=
  match lsPost c o.p o.am (o.x.setWidth 3) with
  | some v => [(0x20 + o.p.toNat, fullMask, v)]
  | none => []

/-- A load of n W at an address, which writes the registers `w` and the pointer `post`. -/
def Dev.effLoadAt (d : Dev) (c : Core) (x : Place) (a : DW) (n : Nat) (w post : List (Nat × DW × DW)) : Eff :=
  match d.loadMeets x c.priv a n with
  | some e => e
  | none =>
    { Eff.none with
      grs := w ++ post
      loads := w.map (fun e => (e.1, e.2.1))
      acts := [.load a n] }

/-- A load of n W that writes the registers `put` names. DEDUCED: log 140. -/
def Dev.effLoad (d : Dev) (c : Core) (x : Place) (o : LsOps) (n : Nat) (put : DW → List (Nat × DW × DW)) : Eff :=
  d.effLoadAt c x (lsAddr c o) n (put (lsAddr c o)) (lsPostGrs c o)

/-- A store of n W at an address. -/
def Dev.effStoreAt (d : Dev) (c : Core) (x : Place) (a : DW) (n : Nat) (acts : List Act) (post : List (Nat × DW × DW)) :
    Eff :=
  match d.accCheck x.core c.priv true a n with
  | some e => { Eff.none with exc := some e }
  | none => { Eff.none with grs := post, acts := acts }

/-- A store of n W. -/
def Dev.effStore (d : Dev) (c : Core) (x : Place) (o : LsOps) (n : Nat) (acts : DW → List Act) : Eff :=
  d.effStoreAt c x (lsAddr c o) n (acts (lsAddr c o)) (lsPostGrs c o)

def Dev.effLdw (d : Dev) (P : PageOps) (x : Place) (o : LsOps) (c : Core) : Eff :=
  d.effLoad c x o 1 fun a => [(o.d.toNat, fullMask, (d.loadedW P x a).signExtend 28)]
def Dev.effLdwl (d : Dev) (P : PageOps) (x : Place) (o : LsOps) (c : Core) : Eff :=
  d.effLoad c x o 1 fun a => [(o.d.toNat, halfMask false, halfPut false (d.loadedW P x a))]
def Dev.effLdwh (d : Dev) (P : PageOps) (x : Place) (o : LsOps) (c : Core) : Eff :=
  d.effLoad c x o 1 fun a => [(o.d.toNat, halfMask true, halfPut true (d.loadedW P x a))]
def Dev.effLd (d : Dev) (P : PageOps) (x : Place) (o : LsOps) (c : Core) : Eff :=
  d.effLoad c x o 2 fun a => [(o.d.toNat, fullMask, d.loadedDW P x a 2 0)]
def Dev.effLdp (d : Dev) (P : PageOps) (x : Place) (o : LsOps) (c : Core) : Eff :=
  d.effLoad c x o 4 fun a =>
    [(o.d.toNat, fullMask, d.loadedDW P x a 4 0), (o.d.toNat + 1, fullMask, d.loadedDW P x a 4 2)]
def Dev.effStw (d : Dev) (x : Place) (o : LsOps) (c : Core) : Eff :=
  d.effStore c x o 1 fun a => [.storeW a (halfOf (c.d o.d) false)]
def Dev.effStwh (d : Dev) (x : Place) (o : LsOps) (c : Core) : Eff :=
  d.effStore c x o 1 fun a => [.storeW a (halfOf (c.d o.d) true)]
def Dev.effSt (d : Dev) (x : Place) (o : LsOps) (c : Core) : Eff := d.effStore c x o 2 fun a => [.storeD a (c.d o.d)]
def Dev.effStp (d : Dev) (x : Place) (o : LsOps) (c : Core) : Eff :=
  d.effStore c x o 4 fun a => [.storeP a (c.d o.d) (c.g (o.d.toNat + 1))]

/-- PMOD makes no access (R146). -/
def effPmod (p : BitVec 3) (am : BitVec 2) (m : BitVec 3) (c : Core) : Eff :=
  match lsPost c p am m with
  | some v => { Eff.none with grs := [(0x20 + p.toNat, fullMask, v)] }
  | none => Eff.none

/-! Any syllable. -/

/-- What a syllable of a bundle does. PFX syllables act through their own operations. -/
def Dev.effOf (d : Dev) (P : PageOps) (c : Core) (x : Place) (first word : DW) (i : Instr) : Eff :=
  match i with
  | .br _ cond disp => effBranch c cond (x.target disp)
  | .jr _ cond p => effBranch c cond (ptrTarget c p)
  | .call _ disp => d.effCall c x (x.target disp)
  | .callr _ p => d.effCall c x (ptrTarget c p)
  | .ret _ => d.effRet P c x
  | .retx _ => effRetx c x
  | .loop _ n e => effLoop c x first n e
  | .wait _ => Eff.act [.wait]
  | .barrier _ b => { Eff.act [.barrier b] with steps := 12 }
  | .svc _ _ => Eff.raise 0x11 (some word) 0
  | .brk _ _ => Eff.raise 0x10 (some word) 0
  | .iflush _ => { Eff.act [.iflush] with steps := 3 }
  | .mov _ dst src => effMov dst src c
  | .sys _ r n dir => effSys r n dir c
  | .add _ r a b => effAdd r a b c
  | .adc _ r a b => effAdc r a b c
  | .sub _ r a b => effSub r a b c
  | .sbc _ r a b => effSbc r a b c
  | .adds _ r a b => effAdds r a b c
  | .subs _ r a b => effSubs r a b c
  | .and _ r a b => effAnd r a b c
  | .or _ r a b => effOr r a b c
  | .xor _ r a b => effXor r a b c
  | .andn _ r a b => effAndn r a b c
  | .cmp _ a b => effCmp a b c
  | .tst _ a b => effTst a b c
  | .min _ r a b => effMin r a b c
  | .max _ r a b => effMax r a b c
  | .neg _ r a => effNeg r a c
  | .negs _ r a => effNegs r a c
  | .abs _ r a => effAbs r a c
  | .abss _ r a => effAbss r a c
  | .not _ r a => effNot r a c
  | .norm _ r a => effNorm r a c
  | .sxw _ r a => effSxw r a c
  | .pack _ r a b => effPack r a b c
  | .lsl _ r a b => effLsl r a b c
  | .lsr _ r a b => effLsr r a b c
  | .asr _ r a b => effAsr r a b c
  | .ror _ r a b => effRor r a b c
  | .rol _ r a b => effRol r a b c
  | .div _ r a b => effDiv r a b c
  | .addi _ r a n => effAddi r a n c
  | .cmpi _ a n => effCmpi a n c
  | .lsli _ r a n => effLsli r a n c
  | .lsri _ r a n => effLsri r a n c
  | .asri _ r a n => effAsri r a n c
  | .rori _ r a n => effRori r a n c
  | .roli _ r a n => effRoli r a n c
  | .movi _ r n => effMovi r n
  | .movh _ r n => effMovh r n
  | .movm _ r n => effMovm r n
  | .movl _ r n => effMovl r n
  | .addw _ r a b => effAddw r a b c
  | .subw _ r a b => effSubw r a b c
  | .addsw _ r a b => effAddsw r a b c
  | .subsw _ r a b => effSubsw r a b c
  | .cmpw _ a b => effCmpw a b c
  | .negw _ r a => effNegw r a c
  | .negsw _ r a => effNegsw r a c
  | .absw _ r a => effAbsw r a c
  | .abssw _ r a => effAbssw r a c
  | .minw _ r a b => effMinw r a b c
  | .maxw _ r a b => effMaxw r a b c
  | .lslw _ r a b => effLslw r a b c
  | .lsrw _ r a b => effLsrw r a b c
  | .asrw _ r a b => effAsrw r a b c
  | .rorw _ r a b => effRorw r a b c
  | .movw _ r a => effMovw r a c
  | .mac _ o => effMac o c
  | .mpy _ o => effMpy o c
  | .macw _ o => effMacw o c
  | .mpyw _ o => effMpyw o c
  | .ext _ _ r a n s k => effExt r a n s k c
  | .extw _ _ r a n s k => effExtw r a n s k c
  | .clra _ _ a => effClra a
  | .lda _ _ r a n => effLda r a n c
  | .ldw _ o => d.effLdw P x o c
  | .ldwl _ o => d.effLdwl P x o c
  | .ld _ o => d.effLd P x o c
  | .ldp _ o => d.effLdp P x o c
  | .ldwh _ o => d.effLdwh P x o c
  | .stw _ o => d.effStw x o c
  | .stwh _ o => d.effStwh x o c
  | .st _ o => d.effSt x o c
  | .stp _ o => d.effStp x o c
  | .pmod _ p am m => effPmod p am m c
  | _ => Eff.none

end Sys2Proof.Machine
end

