-- ==== Sys2Proof/Machine/Shadow.lean ====
section
/-! DEFINITION. The shadow pass (R168 to R171): every operand moved two bit positions up, the operation in a lane that is
two bits wider, and the result moved back. -/

namespace Sys2Proof.Machine

/-! The lane (R169). -/

/-- An operand × 4 in a lane of w + 2 bits. -/
def up {w : Nat} (x : BitVec w) : BitVec (w + 2) := x ++ 0#2

/-- The back-transform: bits [w+1:2] of the lane. -/
def back {w : Nat} (r : BitVec (w + 2)) : BitVec w := r.extractLsb' 2 w

/-- A value that only passes through the lane. -/
def lane {w : Nat} (x : BitVec w) : BitVec w := back (up x)

/-- Z from bits [w+1:2], N from bit [w+1], C and V as the lane gives them (R170). -/
def shadowZN {w : Nat} (r : BitVec (w + 2)) (c v : Option Bool) : FlagOut := ⟨some (back r == 0#w), some r.msb, c, v⟩

/-- A result of the lane, moved back. -/
def laneOut {w : Nat} (r : BitVec (w + 2)) (c v : Option Bool) (sat : Bool) : AluOut w :=
  ⟨back r, shadowZN r c v, sat⟩

/-! Sums and differences: a carry or borrow enters at bit [2], so it counts 4. -/

/-- An exact value of the lane clipped to (2^(w−1) − 1) × 4 and −2^(w−1) × 4. -/
def clipLane (w : Nat) (x : Int) : BitVec (w + 2) :=
  BitVec.ofInt (w + 2) (max (-2 ^ (w - 1) * 4) (min ((2 ^ (w - 1) - 1) * 4) x))

def shadowAdd {w : Nat} (a b : BitVec w) (cin : Nat) : AluOut w :=
  let o := addWrap (up a) (up b) (4 * cin)
  laneOut o.res o.flags.c o.flags.v false

def shadowSub {w : Nat} (a b : BitVec w) (bin : Nat) : AluOut w :=
  let o := subWrap (up a) (up b) (4 * bin)
  laneOut o.res o.flags.c o.flags.v false

def shadowAddSat {w : Nat} (a b : BitVec w) : AluOut w :=
  let x := (up a).toInt + (up b).toInt
  laneOut (clipLane w x) (addWrap (up a) (up b) 0).flags.c (some (outside (w + 2) x)) (outside (w + 2) x)

def shadowSubSat {w : Nat} (a b : BitVec w) : AluOut w :=
  let x := (up a).toInt - (up b).toInt
  laneOut (clipLane w x) (subWrap (up a) (up b) 0).flags.c (some (outside (w + 2) x)) (outside (w + 2) x)

def shadowAbs {w : Nat} (a : BitVec w) : AluOut w :=
  let o := absWrap (up a)
  laneOut o.res none o.flags.v false

def shadowAbsSat {w : Nat} (a : BitVec w) : AluOut w :=
  let x : Int := if 0 ≤ (up a).toInt then (up a).toInt else 0 - (up a).toInt
  laneOut (clipLane w x) none (some (outside (w + 2) x)) (outside (w + 2) x)

/-- MIN and MAX compare in the lane. -/
def shadowMin {w : Nat} (a b : BitVec w) : AluOut w :=
  laneOut (if (up a).toInt ≤ (up b).toInt then up a else up b) none none false
def shadowMax {w : Nat} (a b : BitVec w) : AluOut w :=
  laneOut (if (up a).toInt ≤ (up b).toInt then up b else up a) none none false

/-! Logic: operands NOT (x × 4), the De Morgan dual, and NOT of its result. -/

def shadowLogic {w : Nat} (r : BitVec (w + 2)) : AluOut w := laneOut (~~~r) none (some false) false

def shadowAnd {w : Nat} (a b : BitVec w) : AluOut w := shadowLogic (~~~(up a) ||| ~~~(up b))
def shadowOr {w : Nat} (a b : BitVec w) : AluOut w := shadowLogic (~~~(up a) &&& ~~~(up b))
def shadowXor {w : Nat} (a b : BitVec w) : AluOut w := shadowLogic (~~~(~~~(up a) ^^^ ~~~(up b)))
def shadowAndn {w : Nat} (a b : BitVec w) : AluOut w := shadowLogic (~~~(up a) ||| up b)
def shadowNot {w : Nat} (a : BitVec w) : AluOut w := shadowLogic (~~~(~~~(up a)))

/-! Shifts within bits [w+1:0] and rotates within bits [w+1:2]; the count is as in the primary pass, and C is the bit
shifted out two positions above its primary position (R170). -/

def shadowShift {w : Nat} (r : BitVec (w + 2)) (c : Option Bool) : AluOut w := laneOut r c (some false) false

def shadowLsl {w : Nat} (a : BitVec w) (n : Nat) : AluOut w :=
  if n = 0 then shadowShift (up a) none
  else shadowShift (up a <<< n) (some (decide (n ≤ w + 2) && (up a).getLsbD (w + 2 - n)))

def shadowLsr {w : Nat} (a : BitVec w) (n : Nat) : AluOut w :=
  if n = 0 then shadowShift (up a) none else shadowShift (up a >>> n) (some ((up a).getLsbD (n + 1)))

def shadowAsr {w : Nat} (a : BitVec w) (n : Nat) : AluOut w :=
  if n = 0 then shadowShift (up a) none
  else shadowShift ((up a).sshiftRight n) (some (if n + 1 < w + 2 then (up a).getLsbD (n + 1) else (up a).msb))

def shadowRor {w : Nat} (a : BitVec w) (n : Nat) : AluOut w :=
  let k := n % w
  if k = 0 then shadowShift (up a) none
  else
    let r : BitVec (w + 2) := (back (up a) >>> k ||| back (up a) <<< (w - k)) ++ 0#2
    shadowShift r (some r.msb)

def shadowRol {w : Nat} (a : BitVec w) (n : Nat) : AluOut w :=
  let k := n % w
  if k = 0 then shadowShift (up a) none
  else
    let r : BitVec (w + 2) := (back (up a) <<< k ||| back (up a) >>> (w - k)) ++ 0#2
    shadowShift r (some (r.getLsbD 2))

/-! NORM, SXW, PACK. -/

/-- Bits of the lane from `n + 1` down to bit [2] that equal bit [w+1], until the first that differs. -/
def shadowNormCount (v : BitVec 30) : Nat → Nat
  | 0 => 0
  | n + 1 => if v.getLsbD (n + 2) == v.msb then shadowNormCount v n + 1 else 0

def shadowNorm (a : DW) : AluOut 28 :=
  let r := up (BitVec.ofNat 28 (shadowNormCount (up a) 27))
  ⟨back r, ⟨some (back r == 0#28), some r.msb, none, none⟩, false⟩

def shadowSxw (a : DW) : DW := back ((up a).extractLsb' 0 16 |>.signExtend 30)
def shadowPack (a b : DW) : DW := back ((up a).extractLsb' 2 14 ++ (up b).extractLsb' 0 16)

/-! DIV: both operands × 4; the quotient is unshifted and the remainder comes back from bits [29:2]. -/

/-- The quotient's range is that of 28 bits, where it stands unshifted. DEDUCED: log 166. -/
def shadowDivide (a b : DW) : DW × DW × Bool × Bool :=
  if up b = 0#30 then ((if (up a).msb then 0x8000000#28 else 0x7FFFFFF#28), lane a, true, true)
  else
    let q := (up a).toInt.tdiv (up b).toInt
    (BitVec.ofInt 28 q, back (BitVec.ofInt 30 ((up a).toInt - q * (up b).toInt)), outside 28 q, false)

/-! Multiply and accumulate: factors × 4, the accumulator and the product × 16 in 74 bits. -/

/-- An accumulator × 16, and back from bits [73:4]. -/
def upAcc (a : Acc) : BitVec 74 := a ++ 0#4
def backAcc (r : BitVec 74) : Acc := r.extractLsb' 4 70

def shadowMac (base : BitVec 74) (p : Int) (sub : Bool) : Acc :=
  backAcc (BitVec.ofInt 74 (if sub then base.toInt - p else base.toInt + p))

/-- The scaled value of an extraction, × 4 in the lane, from the accumulator × 16. DEDUCED: log 166. -/
def shadowExtract (w : Nat) (v : Acc) (shift : BitVec 6) (sat rnd : Bool) : BitVec w × Bool :=
  let x := 4 * extScale (upAcc v).toInt (shift.toNat + 4) (rnd && decide (1 ≤ shift.toNat))
  if sat then (back (clipLane w x), outside (w + 2) x) else (back (BitVec.ofInt (w + 2) x), false)

/-! Address formation: base, modifier and offset × 4. -/

/-- P + M, or the circular step, in the lane. -/
def shadowStep (p b l : DW) (m : Int) : DW :=
  if up l = 0#30 then back (BitVec.ofInt 30 ((up p).toNat + 4 * m))
  else back (BitVec.ofInt 30 ((up b).toNat + (((up p).toNat : Int) + 4 * m - (up b).toNat) % ((up l).toNat : Int)))

def shadowSum (a b : DW) : DW := back (up a + up b)

def shadowAddr (c : Core) (o : LsOps) : DW :=
  match o.am.toNat with
  | 0 => shadowSum (c.p o.p) (o.x.signExtend 28)
  | 3 => shadowSum (c.p o.p) (c.m (o.x.setWidth 3))
  | _ => lane (c.p o.p)

def shadowPost (c : Core) (p : BitVec 3) (am : BitVec 2) (m : BitVec 3) : List (Nat × DW × DW) :=
  match am.toNat with
  | 1 => [(0x20 + p.toNat, fullMask, shadowSum (c.p p) (c.m m))]
  | 2 => [(0x20 + p.toNat, fullMask, shadowStep (c.p p) (c.b p) (c.l p) (c.m m).toInt)]
  | _ => []

/-! The syllables. -/

/-- Results that pass through the lane. -/
def Eff.laned (e : Eff) : Eff := { e with grs := e.grs.map fun g => (g.1, g.2.1, lane g.2.2) }

/-- A load whose word the primary pass latched: its address is formed again, the word is placed again (R174). -/
def Dev.shadowLoad (d : Dev) (c : Core) (x : Place) (o : LsOps) (n : Nat) (prim : Eff) (k : Nat) : Eff :=
  d.effLoadAt c x (shadowAddr c o) n ((prim.grs.take k).map fun g => (g.1, g.2.1, lane g.2.2))
    (shadowPost c o.p o.am (o.x.setWidth 3))

def Dev.shadowStore (d : Dev) (c : Core) (x : Place) (o : LsOps) (n : Nat) (acts : DW → List Act) : Eff :=
  d.effStoreAt c x (shadowAddr c o) n (acts (shadowAddr c o)) (shadowPost c o.p o.am (o.x.setWidth 3))

/-- The target of a transfer by displacement. -/
def Place.shadowTarget (x : Place) (disp : BitVec 12) : DW := shadowSum (BitVec.ofNat 28 x.addr) (disp.signExtend 28)

/-- CALL and RET form the stack address again. -/
def Dev.shadowCall (d : Dev) (c : Core) (x : Place) (target : DW) : Eff :=
  let sp := back (up (c.g 0x27) - up 2#28)
  if 32 ≤ c.shadow.length then Eff.raise 0x0A (some target) 0
  else
    match d.accCheck x.core c.priv true sp 2 with
    | some e => { Eff.none with exc := some e }
    | none =>
      { Eff.none with
        grs := [(0x27, fullMask, sp)]
        acts := [.storeD sp (lane x.next), .push (lane x.next), .jump target false] }

def shadowRet (c : Core) (prim : Eff) : Eff :=
  if prim.exc.isSome || prim.met.isSome then prim
  else { prim with grs := [(0x27, fullMask, shadowSum (c.g 0x27) 2#28)] }

/-- What the shadow pass gives for a syllable, moved back; `prim` is what the primary pass gave, for the words that its
loads latched. -/
def Dev.shadowOf (d : Dev) (c : Core) (x : Place) (i : Instr) (prim : Eff) : Eff :=
  match i with
  | .br _ cond disp => effBranch c cond (x.shadowTarget disp)
  | .jr _ cond p => effBranch c cond (lane (ptrTarget c p))
  | .call _ disp => d.shadowCall c x (x.shadowTarget disp)
  | .callr _ p => d.shadowCall c x (lane (ptrTarget c p))
  | .ret _ => shadowRet c prim
  | .mov _ dst src => { Eff.none with grs := [(dst.toNat, fullMask, lane (c.g src.toNat))] }
  | .sys _ r n dir => if dir then Eff.act [.sys n (lane (c.d r))] else Eff.putD r (lane (sysRead c n.toNat))
  | .add _ r a b => (Eff.alu r (shadowAdd (c.d a) (c.d b) 0)).trapV c
  | .adc _ r a b => (Eff.alu r (shadowAdd (c.d a) (c.d b) (b2n c.c))).trapV c
  | .sub _ r a b => (Eff.alu r (shadowSub (c.d a) (c.d b) 0)).trapV c
  | .sbc _ r a b => (Eff.alu r (shadowSub (c.d a) (c.d b) (1 - b2n c.c))).trapV c
  | .adds _ r a b => Eff.alu r (shadowAddSat (c.d a) (c.d b))
  | .subs _ r a b => Eff.alu r (shadowSubSat (c.d a) (c.d b))
  | .and _ r a b => Eff.alu r (shadowAnd (c.d a) (c.d b))
  | .or _ r a b => Eff.alu r (shadowOr (c.d a) (c.d b))
  | .xor _ r a b => Eff.alu r (shadowXor (c.d a) (c.d b))
  | .andn _ r a b => Eff.alu r (shadowAndn (c.d a) (c.d b))
  | .cmp _ a b => Eff.flagsOnly (shadowSub (c.d a) (c.d b) 0)
  | .tst _ a b => Eff.flagsOnly (shadowAnd (c.d a) (c.d b))
  | .min _ r a b => Eff.alu r (shadowMin (c.d a) (c.d b))
  | .max _ r a b => Eff.alu r (shadowMax (c.d a) (c.d b))
  | .neg _ r a => (Eff.alu r (shadowSub 0#28 (c.d a) 0)).trapV c
  | .negs _ r a => Eff.alu r (shadowSubSat 0#28 (c.d a))
  | .abs _ r a => (Eff.alu r (shadowAbs (c.d a))).trapV c
  | .abss _ r a => Eff.alu r (shadowAbsSat (c.d a))
  | .not _ r a => Eff.alu r (shadowNot (c.d a))
  | .norm _ r a => Eff.alu r (shadowNorm (c.d a))
  | .sxw _ r a => Eff.putD r (shadowSxw (c.d a))
  | .pack _ r a b => Eff.putD r (shadowPack (c.d a) (c.d b))
  | .lsl _ r a b => Eff.alu r (shadowLsl (c.d a) (shiftCount (c.d b)))
  | .lsr _ r a b => Eff.alu r (shadowLsr (c.d a) (shiftCount (c.d b)))
  | .asr _ r a b => Eff.alu r (shadowAsr (c.d a) (shiftCount (c.d b)))
  | .ror _ r a b => Eff.alu r (shadowRor (c.d a) (shiftCount (c.d b)))
  | .rol _ r a b => Eff.alu r (shadowRol (c.d a) (shiftCount (c.d b)))
  | .div _ r a b =>
    let (q, m, v, dz) := shadowDivide (c.d a) (c.d b)
    if dz && c.traps.getLsbD 0 then Eff.raise 0x0E none 0
    else
      ({ Eff.none with
          grs := [(r.toNat, fullMask, q), (r.toNat + 1, fullMask, m)]
          flags := flagsZN q (some false) (some v)
          dz := dz
          steps := 16 } : Eff).trapV c
  | .addi _ r a n => (Eff.alu r (shadowAdd (c.d a) (n.signExtend 28) 0)).trapV c
  | .cmpi _ a n => Eff.flagsOnly (shadowSub (c.d a) (n.signExtend 28) 0)
  | .lsli _ r a n => Eff.alu r (shadowLsl (c.d a) n.toNat)
  | .lsri _ r a n => Eff.alu r (shadowLsr (c.d a) n.toNat)
  | .asri _ r a n => Eff.alu r (shadowAsr (c.d a) n.toNat)
  | .rori _ r a n => Eff.alu r (shadowRor (c.d a) n.toNat)
  | .roli _ r a n => Eff.alu r (shadowRol (c.d a) n.toNat)
  | .movi _ r n => (effMovi r n).laned
  | .movh _ r n => (effMovh r n).laned
  | .movm _ r n => (effMovm r n).laned
  | .movl _ r n => (effMovl r n).laned
  | .addw _ r a b => (Eff.aluW r (shadowAdd (c.half a) (c.half b) 0)).trapV c
  | .subw _ r a b => (Eff.aluW r (shadowSub (c.half a) (c.half b) 0)).trapV c
  | .addsw _ r a b => Eff.aluW r (shadowAddSat (c.half a) (c.half b))
  | .subsw _ r a b => Eff.aluW r (shadowSubSat (c.half a) (c.half b))
  | .cmpw _ a b => Eff.flagsOnly (shadowSub (c.half a) (c.half b) 0)
  | .negw _ r a => (Eff.aluW r (shadowSub 0#14 (c.half a) 0)).trapV c
  | .negsw _ r a => Eff.aluW r (shadowSubSat 0#14 (c.half a))
  | .absw _ r a => (Eff.aluW r (shadowAbs (c.half a))).trapV c
  | .abssw _ r a => Eff.aluW r (shadowAbsSat (c.half a))
  | .minw _ r a b => Eff.aluW r (shadowMin (c.half a) (c.half b))
  | .maxw _ r a b => Eff.aluW r (shadowMax (c.half a) (c.half b))
  | .lslw _ r a b => Eff.aluW r (shadowLsl (c.half a) (shiftCountW (c.half b)))
  | .lsrw _ r a b => Eff.aluW r (shadowLsr (c.half a) (shiftCountW (c.half b)))
  | .asrw _ r a b => Eff.aluW r (shadowAsr (c.half a) (shiftCountW (c.half b)))
  | .rorw _ r a b => Eff.aluW r (shadowRor (c.half a) (shiftCountW (c.half b)))
  | .movw _ r a => Eff.aluW r ⟨lane (c.half a), FlagOut.keep, false⟩
  | .mac _ o => Eff.putA o.acc (shadowMac (upAcc (c.a o.acc)) (product (up (c.d o.a)).toInt (up (c.d o.b)).toInt o.frac) o.sub)
  | .mpy _ o => Eff.putA o.acc (shadowMac 0#74 (product (up (c.d o.a)).toInt (up (c.d o.b)).toInt o.frac) o.sub)
  | .macw _ o =>
    Eff.putA o.acc (shadowMac (upAcc (c.a o.acc))
      (product (up ((c.d o.a).extractLsb' 0 14)).toInt (up ((c.d o.b).extractLsb' 0 14)).toInt o.frac) o.sub)
  | .mpyw _ o =>
    Eff.putA o.acc (shadowMac 0#74
      (product (up ((c.d o.a).extractLsb' 0 14)).toInt (up ((c.d o.b).extractLsb' 0 14)).toInt o.frac) o.sub)
  | .ext _ _ r a n s k => let (v, p) := shadowExtract 28 (c.a a) n s k; { Eff.putD r v with sat := p }
  | .extw _ _ r a n s k =>
    let (v, p) := shadowExtract 14 (c.a a) n s k
    { Eff.none with grs := [(r.toNat, halfMask false, halfPut false v)], sat := p }
  | .clra _ _ a => Eff.putA a (backAcc 0#74)
  | .lda _ _ r a n => Eff.putA a (backAcc (BitVec.ofInt 74 ((up (c.d r)).toInt * 4 * 2 ^ n.toNat)))
  | .ldw _ o => d.shadowLoad c x o 1 prim 1
  | .ldwl _ o => d.shadowLoad c x o 1 prim 1
  | .ldwh _ o => d.shadowLoad c x o 1 prim 1
  | .ld _ o => d.shadowLoad c x o 2 prim 1
  | .ldp _ o => d.shadowLoad c x o 4 prim 2
  | .stw _ o => d.shadowStore c x o 1 fun a => [.storeW a (lane (halfOf (c.d o.d) false))]
  | .stwh _ o => d.shadowStore c x o 1 fun a => [.storeW a (lane (halfOf (c.d o.d) true))]
  | .st _ o => d.shadowStore c x o 2 fun a => [.storeD a (lane (c.d o.d))]
  | .stp _ o => d.shadowStore c x o 4 fun a => [.storeP a (lane (c.d o.d)) (lane (c.g (o.d.toNat + 1)))]
  | .pmod _ p am m =>
    let g := shadowPost c p am m
    if g.isEmpty then Eff.none else { Eff.none with grs := g }
  | _ => prim

/-! The compare (R171, R173). -/

/-- The access or transfer that an action puts on its bus, as words. -/
def Act.words : Act → List Nat
  | .storeD a v => [0, a.toNat, v.toNat]
  | .storeP a v w => [1, a.toNat, v.toNat, w.toNat]
  | .storeW a v => [2, a.toNat, v.toNat]
  | .load a n => [3, a.toNat, n]
  | .jump t b => [4, t.toNat, b2n b]
  | .push r => [5, r.toNat]
  | .pop => [6]
  | .loop n l e => [7, n, l.toNat, e.toNat]
  | .sys n v => [8, n.toNat, v.toNat]
  | .retx => [9]
  | .wait => [10]
  | .barrier b => [11, b.toNat]
  | .iflush => [12]

/-- A flag as it is driven: 2 where it is not written. -/
def flagWord : Option Bool → Nat
  | .none => 2
  | some b => b2n b

/-- Every word that a syllable drives on the buses of R172. -/
def Eff.buses (e : Eff) : List Nat :=
  e.grs.flatMap (fun g => [g.1, g.2.1.toNat, g.2.2.toNat]) ++ e.accs.flatMap (fun a => [a.1, a.2.toNat])
    ++ [flagWord e.flags.z, flagWord e.flags.n, flagWord e.flags.c, flagWord e.flags.v, b2n e.sat, b2n e.dz]
    ++ (match e.exc with | some x => [x.cause, (x.eval.map BitVec.toNat).getD 0x10000000, x.detail] | .none => [])
    ++ e.acts.flatMap Act.words

/-- A word with the bits of a mask inverted. -/
def flipAt (l : List Nat) (k mask : Nat) : List Nat := l.zipIdx.map fun x => if x.2 = k then x.1 ^^^ mask else x.1

/-- The words that a held bundle drives in its primary and in its shadow pass; the fetch address passes the lane. -/
def Held.primWords (h : Held) : List Nat := h.prim.flatMap Eff.buses ++ h.next.toList.map BitVec.toNat
def Held.shadowWords (h : Held) : List Nat := h.shadow.flatMap Eff.buses ++ h.next.toList.map fun a => (lane a).toNat

/-- The compare of a held bundle, where a fault inverts bits of word k of its primary outputs: a difference in any bit
of any output is a mismatch, whether or not anything reads it. DESIGN CHOICE: log 162. -/
def Held.differs (h : Held) (k mask : Nat) : Bool := decide (flipAt h.primWords k mask ≠ h.shadowWords)

end Sys2Proof.Machine
end

