-- ==== Sys2Proof/Machine/Exec.lean ====
section
/-! DEFINITION. The executor: taking an exception or an interrupt, loops and transfers, one issue of a bundle, REP and
the long instructions, and the arrival of syllables (R104 to R125, R127 to R129, R133, R148, R149, R152 to R161, R202 to
R214). -/

namespace Sys2Proof.Machine

/-! Taking an exception (R203 to R206, R212, R214, R219). -/

/-- PS with PRIV and IE replaced. DEDUCED: log 149. -/
def psLevel (ps : DW) (priv : Nat) : DW := (ps &&& ~~~0x0000D00#28) ||| (BitVec.ofNat 28 priv <<< 10)

/-- LPROG (R122). DEDUCED: log 143. -/
def lprogWord (kind total done : Nat) : DW := BitVec.ofNat 28 (kind * 2 ^ 26 + total % 0x2000 * 2 ^ 13 + done % 0x2000)

/-- LPROG as an exception or an interrupt between units of work sets it (R122, R123). -/
def Core.progressWord (c : Core) : DW :=
  match c.midway with | some m => lprogWord m.kind m.total m.done | none => c.lprog

/-- What entry saves and changes: EPC, ECAUSE, EVAL, ESTAT, ESEAL, LPROG, PS, the fetch address; the loop buffer is
invalidated and no load is in flight. -/
def Core.enterAt (c : Core) (epc : Nat) (ecause eval : DW) (blen spos level : Nat) (target : DW) : Core :=
  { c with
    epc := BitVec.ofNat 28 (epc % 0x8000), ecause := ecause, eval := eval
    estat := BitVec.ofNat 28 (blen % 8 * 2 ^ 25 + spos % 8 * 2 ^ 22) ||| (c.ps &&& 0x0003FFF)
    eseal := BitVec.ofNat 28 (c.priv * 2 ^ 10)
    lprog := c.progressWord, midway := none
    ps := psLevel c.ps level, fetch := target, loopBuf := ⟨none, false⟩, loadBits := [], bundle := [] }

/-- Entry for exception 0x04, which keeps EPC, ESTAT, ESEAL and PRIV (R212). -/
def Core.enterRestore (c : Core) (eval : DW) (target : DW) : Core :=
  { c with
    ecause := 0x0000004, eval := eval, ps := c.ps &&& ~~~0x0000100#28, fetch := target
    lprog := c.progressWord, midway := none, loopBuf := ⟨none, false⟩, loadBits := [], bundle := [] }

/-- The entry address of the monitor, in the hearth's ROM. DEDUCED: log 146. -/
def monitorEntry : DW := 0x4000#28 + Config.monitorOffset.setWidth 28

/-- Where a core takes an entry at a level (R205, R219). -/
def Dev.vector (d : Dev) (core level : Nat) : DW :=
  if 64 ≤ core then Config.ctrlVector.setWidth 28
  else if level = 1 then BitVec.ofNat 28 (d.slotCfg core).handler
  else monitorEntry

/-- ECAUSE of an exception. -/
def causeWord (e : Exc) : DW := BitVec.ofNat 28 (e.detail % 0x8000 * 0x100 + e.cause % 0x100)

/-- A fetch that found poison. -/
def Exc.fetchPoison (e : Exc) : Bool := e.cause = 0x0D && e.detail = 2

/-- The level at which a core takes an exception (R205, R212, R219). -/
def excLevel (c : Core) (core : Nat) (e : Exc) : Nat :=
  if 64 ≤ core then 3
  else if e.cause = 0x04 then (if c.priv = 1 then 1 else 3)
  else if c.priv = 0 && !e.fetchPoison then 1
  else 3

/-- The record of a run that the monitor ends (R214, R215); a second run of the same frame is not reported again.
DEDUCED: log 146. -/
def Core.monitorReport (c : Core) (e : Exc) : Core :=
  let frame := c.frameNo.extractLsb' 0 28
  let kind : DW := if e.fetchPoison then 2 else 1
  let old := match c.report with | some r => r[1]? == some frame | none => false
  if old then c
  else
    { c with
      report := some [kind, frame, c.eseal >>> 10, c.ecause, c.epc, c.eval]
      reports := c.reports ++ [[kind, frame, c.eseal >>> 10, c.ecause, c.epc, c.eval]] }

/-- A core spends steps and penalty steps; the next bundle is no retry. -/
def Core.spend (c : Core) (steps pen : Nat) : Core :=
  { c with steps := c.steps + steps, pen := c.pen + pen, phaseSteps := c.phaseSteps + steps, retry := false }

/-- The events of an exception 0x0D of a slot (R198, R201). -/
def Dev.noteReadOnly (d : Dev) (core : Nat) (e : Exc) : Dev :=
  if core < 64 && e.cause = 0x0D then d.raise (0x010 + core / 4) 10 else d

/-- A budget is checked once a slot has spent steps. -/
def Dev.budget (d : Dev) (core : Nat) : Dev := if core < 64 then d.checkBudget core else d

/-- A core takes an exception of the bundle at `addr` with `len` syllables, raised by the syllable at `spos` whose word
is `word`; the bundle spends 1 step and the entry 2 penalty steps, after `pen` penalty steps (R204). The signal and the
redirect are held like any output. -/
def Dev.takeException (d : Dev) (P : PageOps) (core addr len spos : Nat) (word : DW) (e : Exc) (pen : Nat) : Dev :=
  let c := d.core core
  let level := excLevel c core e
  let eval := e.eval.getD word
  let spos := if e.cause = 0x02 || e.detail = 2 && (e.cause = 0x07 || e.cause = 0x0D) then 0 else spos
  let d := d.modCore core fun c =>
    (if e.cause = 0x04 then c.enterRestore eval (d.vector core level)
      else c.enterAt addr (causeWord e) eval len spos level (d.vector core level)).spend (3 + pen) (2 + pen)
  let signal : Eff := Eff.raise e.cause (some eval) e.detail
  let d := d.hold core ⟨c, c.steps + pen, 1, [signal], [signal], some (d.vector core level), [], none, c.retry⟩
  let d := (d.noteReadOnly core e).budget core
  if core < 64 && level = 3 then
    ((d.drain P core).modCore core fun c =>
      { c.monitorReport e with fetchPoison := c.fetchPoison || e.fetchPoison }).endRun core
  else d

/-! Interrupts (R203, R204, R207). -/

/-- The interrupt that a core would accept now; a bundle that must be retried issues first (R163).
DEDUCED: log 133. -/
def Dev.acceptable (d : Dev) (core : Nat) : Option (Nat × Nat × Nat) :=
  let c := d.core core
  if c.ie && !c.retry && (64 ≤ core || c.priv ≤ 1) then
    (d.targetOf core).bind fun t => (d.deliverable t).map fun (n, g) => (t, n, g)
  else none

/-- A core enters for an interrupt: EPC is the address that it would fetch next. The damper holds the entry, which a
mismatch of an older bundle takes back (R238). -/
def Dev.enterInterrupt (d : Dev) (core t n g : Nat) : Dev :=
  let c := d.core core
  let level := if 64 ≤ core then 3 else 1
  let d := d.modCore core fun c =>
    (c.enterAt c.fetch.toNat (BitVec.ofNat 28 (2 ^ 27 + n * 0x100)) 0 0 0 level (d.vector core level)).spend 2 2
  ((d.deliver t n g).hold core ⟨c, c.steps, 0, [], [], none, [], some (t, n, g), false⟩).budget core

/-! Loops (R115 to R118, R160, R161). -/

/-- The innermost loop ends (R116). DEDUCED: log 150. -/
def Core.popLoop (c : Core) : Core :=
  let c' := if c.ld = 2 then { c with lc := c.lc1, ls := c.ls1, le := c.le1 } else c
  { c' with ps := c.ps - 0x0001000#28 }

/-- A taken branch or jump leaves the loops that its target lies outside of (R117). DEDUCED: log 150. -/
def Core.leaveLoops (c : Core) (target : DW) : Nat → Core
  | 0 => c
  | n + 1 =>
    if c.ld = 0 || (c.ls ≤ target && target ≤ c.le) then c else Core.leaveLoops c.popLoop target n

/-- Capture begins at LS, with no outer loop (R118). -/
def Core.capture (c : Core) : Core := { c with loopBuf := ⟨if c.ld = 1 then some 0 else none, false⟩ }

/-- The bundle at `addr` completed without a taken transfer: iterations that end with it, and the penalty steps.
DEDUCED: log 150. -/
def Core.loopEnd (c : Core) (addr len : Nat) : Nat → Core × Nat
  | 0 => (c, 0)
  | n + 1 =>
    if c.ld = 0 || c.le.toNat < addr || addr + len ≤ c.le.toNat then (c, 0)
    else
      let left := c.lc - 1
      if left ≠ 0 then
        let c := { c with lc := left, fetch := c.ls }
        if c.loopBuf.valid then (c, 0)
        else if c.loopBuf.cap.isSome then ({ c with loopBuf := ⟨c.loopBuf.cap, true⟩ }, 0)
        else (c.capture, 2)
      else
        let pen := b2n c.loopBuf.valid
        let (c, p) := Core.loopEnd ({ c with lc := left, loopBuf := ⟨none, false⟩ } : Core).popLoop addr len n
        (c, pen + p)

/-- A bundle of the iteration that is being captured issues; a body longer than 16 bundles is not captured. -/
def Core.countBundle (c : Core) : Core :=
  match c.loopBuf with
  | ⟨some k, false⟩ => { c with loopBuf := ⟨if k < 16 then some (k + 1) else none, false⟩ }
  | _ => c

/-! Pending stores (R155 to R157). -/

/-- Addresses to which the rules of overlap apply. DEDUCED: log 159. -/
def overlapWords (a : DW) (n : Nat) : List Nat := (accWords a n).filter (· < 0xD000000)

/-- Penalty steps of a load that would issue in a step. DEDUCED: log 159. -/
def overlapPen (l : List PendStore) (step : Nat) (ws : List Nat) : Nat :=
  let touch := (l.filter fun s => s.step < step && step ≤ s.step + 3).filter fun s => s.addrs.any ws.contains
  match touch.getLast? with
  | none => 0
  | some s => if ws.all s.addrs.contains then 0 else 3

/-! Applying what the syllables do (R106, R128, R129). -/

def Core.putGr (c : Core) (w : Nat × DW × DW) : Core :=
  { c with gr := tabSet c.gr w.1 (maskPut (c.g w.1) w.2.1 w.2.2) }

/-- Z, N, C and V of a syllable that writes them. -/
def psFlags (ps : DW) (f : FlagOut) : DW :=
  let put (ps : DW) (n : Nat) (b : Option Bool) : DW := match b with | some b => bitPut ps n b | none => ps
  put (put (put (put ps 0 f.z) 1 f.n) 2 f.c) 3 f.v

/-- Registers, accumulators and flags that a syllable writes. DEDUCED: log 137. -/
def Core.applyRegs (c : Core) (e : Eff) : Core :=
  let c := e.grs.foldl Core.putGr c
  let c := e.accs.foldl (fun c (a : Nat × Acc) => { c with acc := tabSet c.acc a.1 a.2 }) c
  { c with ps := psFlags c.ps e.flags }

/-- The sticky bits take the OR of every contribution. DEDUCED: log 137. -/
def Core.stick (c : Core) (effs : List Eff) : Core :=
  let ps := if effs.any (·.sat) then c.ps ||| 0x0000010 else c.ps
  { c with ps := if effs.any (·.dz) then ps ||| 0x0000020 else ps }

/-- The registers and accumulator parts that a syllable writes whole. -/
def Eff.mends (e : Eff) : List Nat :=
  (e.grs.filter (fun g => g.2.1 = fullMask)).map (·.1) ++ e.accs.flatMap (fun a => accParts a.1)
    ++ e.acts.filterMap fun a => match a with | .sys n _ => if 0x20 ≤ n.toNat then some (0x20 + n.toNat) else Option.none | _ => Option.none

/-- A whole write of a register gives its stored word a new code (R192). DESIGN CHOICE: log 167. -/
def Core.mend (c : Core) (effs : List Eff) : Core :=
  let whole := effs.flatMap Eff.mends
  { c with bad := c.bad.filter fun n => !whole.contains n, weak := c.weak.filter fun n => !whole.contains n }

/-- The state of a loop starts (R115). -/
def Core.startLoop (c : Core) (count : Nat) (ls le : DW) : Core :=
  let c := if c.ld = 1 then { c with lc1 := c.lc, ls1 := c.ls, le1 := c.le } else c
  ({ c with lc := BitVec.ofNat 28 count, ls := ls, le := le, ps := c.ps + 0x0001000#28 }).capture

/-- A return from an exception (R210). -/
def Core.returnTo (c : Core) : Core :=
  { c with ps := (c.ps &&& ~~~0x0000FFF#28) ||| (c.estat &&& 0x0000D3F), fetch := (c.epc.extractLsb' 0 15).setWidth 28 }

/-- A pending store of n W, where the overlap rules apply to it. DEDUCED: log 131. -/
def Core.noteStore (c : Core) (a : DW) (n last : Nat) : Core :=
  let ws := overlapWords a n
  if ws.isEmpty then c else { c with stores := c.stores.filter (fun s => last ≤ s.step + 8) ++ [⟨ws, last⟩] }

/-- A slot executes BARRIER b (R46 to R48, R183); it stops issuing, or passes a completed barrier, as the retry of a
bundle that passed it without a second PHASE. -/
def Dev.doBarrier (d : Dev) (P : PageOps) (core b : Nat) (again : Bool) : Dev :=
  if core < 64 && bitOf (d.barrierMask b) core then
    let d := d.modLoader fun l => { l with arrived := tabSet l.arrived b (setInsert (tabGet [] l.arrived b) core) }
    if d.loader.complete.contains b then
      (if again then d.modCore core fun c => { c with run := .running, phase := b, phaseSteps := 0 }
        else d.resumeFrom core b).switchFrom core
    else ((d.drainRest P core).modCore core fun c => { c with run := .barrier b }).switchFrom core
  else d

/-- WAIT (R133, R158): at U a slot's frame is complete 3 steps later, at `tick`; elsewhere the core sleeps until a
private source of its target is pending. DEDUCED: log 133. -/
def Dev.doWait (d : Dev) (P : PageOps) (core tick : Nat) : Dev :=
  if core < 64 && (d.core core).priv = 0 then
    let d := (d.drainRest P core).modCore core fun c => { c with run := .waiting, idle := true, phaseSteps := c.phaseSteps + 3 }
    let d := d.checkBudget core
    (d.modHearth (core / 4) fun h => { h with finish := Nat.max h.finish tick }).switchFrom core
  else if ((d.targetOf core).map d.anyPrivate).getD false then d
  else (d.drainRest P core).modCore core fun c => { c with run := .asleep }

/-! What the damper holds of a bundle beside registers, flags and the fetch address (R172). -/

/-- The advance that a load makes at once and that a discard takes back, on the even address of the word. -/
def Dev.loadHeld (d : Dev) (core step a : Nat) (whole : Bool) : List HeldOut :=
  match regionOf (decide (64 ≤ core)) a with
  | .hop =>
    if hopReg a = 0x00 && d.consumes core (hopOf a) && (d.hop (hopOf a)).next.isSome then [.popped (hopOf a)] else []
  | .slotLocal =>
    if core < 64 then
      let e := bitsOf (d.localReg core step 0x80).toNat 13 0
      if a = 0xF100082 && whole then [.started e (d.startRepeats core e)]
      else if a = 0xF100088 then [.noticed (tabGet 0 d.stoker.noticePos core)]
      else []
    else []
  | _ => []

/-- The same for a load of n W. -/
def Dev.loadOuts (d : Dev) (P : PageOps) (core step : Nat) (a : DW) (n : Nat) : List HeldOut :=
  if n = 1 then d.loadHeld core step (evenOf a.toNat) false
  else if n = 2 then d.loadHeld core step a.toNat true
  else
    d.loadHeld core step a.toNat true ++ (d.loadEffect P core step a.toNat true).loadHeld core step (a.toNat + 2) true

/-- What an action leaves for release, in a bundle whose last step is `last` and which is released at `tick`. -/
def Dev.actOuts (d : Dev) (P : PageOps) (core step last tick : Nat) (a : Act) : List HeldOut :=
  match a with
  | .storeD p v => [.storeD p v tick last]
  | .storeP p v w => [.storeP p v w tick last]
  | .storeW p v => [.storeW p v tick last]
  | .load p n => d.loadOuts P core step p n
  | _ => []

/-- A store waits on its way: the pending words that later loads meet, and the selection of a START. -/
def Dev.noteHeld (d : Dev) (core last : Nat) (o : HeldOut) : Dev :=
  match o with
  | .storeD p _ _ _ => (d.selStore core last o).modCore core (·.noteStore p 2 last)
  | .storeP p _ _ _ _ => (d.selStore core last o).modCore core (·.noteStore p 4 last)
  | .storeW p _ _ _ => (d.selStore core last o).modCore core (·.noteStore p 1 last)
  | _ => d

/-- What an action does at its issue; stores are held, and transfers, WAIT and BARRIER follow when the bundle
completes. -/
def Dev.doAct (d : Dev) (P : PageOps) (core step : Nat) (a : Act) : Dev :=
  match a with
  | .load p n => d.doLoad P core step p n
  | .push r => d.modCore core fun c => { c with shadow := r :: c.shadow }
  | .pop => d.modCore core fun c => { c with shadow := c.shadow.tail }
  | .loop n ls le => d.modCore core (·.startLoop n ls le)
  | .sys n v => d.modCore core (sysWrite · n.toNat v)
  | .iflush => d.modCore core fun c => { c with loopBuf := ⟨none, false⟩ }
  | _ => d

/-- One action, and what it leaves for release. -/
def Dev.act (P : PageOps) (core step last tick : Nat) (x : Dev × List HeldOut) (a : Act) : Dev × List HeldOut :=
  let outs := x.1.actOuts P core step last tick a
  (outs.foldl (fun d o => d.noteHeld core last o) (x.1.doAct P core step a), x.2 ++ outs)

/-- Where a bundle goes when it completes. -/
inductive Goes where
  | on
  | jump (t : DW) (branch : Bool)
  | ret
  deriving DecidableEq, Repr

def goesOf (acts : List Act) : Goes :=
  acts.foldl (fun g a => match a with | .jump t b => .jump t b | .retx => .ret | _ => g) .on

/-! One issue of a bundle. -/

/-- A bundle to be issued: its core, address and length, the syllables that execute and the position of the first of
them, when it is released, the load-use penalty, whether another iteration of a REP follows, and the loop buffer before
the bundle counted. -/
structure Issue where
  core : Nat
  addr : Nat
  len : Nat
  syls : List Syl
  off : Nat
  tick : Nat
  pen : Nat
  more : Bool
  buf : LoopBuf
  deriving DecidableEq, Repr

/-- The load-use penalty of a bundle that reads `reads` (R154). -/
def usePen (c : Core) (reads : List (Nat × DW)) : Nat := b2n (overlap c.loadBits reads)

/-- Where the syllables of an issue execute. -/
def Issue.place (x : Issue) (c : Core) : Place := ⟨x.core, x.addr, x.len, c.steps + x.pen⟩

/-- What each syllable does, behind the stores that the damper holds. -/
def Dev.effects (d : Dev) (P : PageOps) (x : Issue) : List Eff :=
  let d := d.ahead x.core
  let c := d.core x.core
  let first := ((x.syls.head?).map Syl.word).getD 0
  x.syls.map fun s => match s.ins with | some i => d.effOf P c (x.place c) first s.word i | none => Eff.none

/-- What the shadow pass gives for each syllable (R168). -/
def Dev.shadows (d : Dev) (x : Issue) (effs : List Eff) : List Eff :=
  let d := d.ahead x.core
  let c := d.core x.core
  effs.zipIdx.map fun e =>
    match (x.syls[e.2]?).bind Syl.ins with
    | some i => d.shadowOf c (x.place c) i e.1
    | none => e.1.laned

/-- The control firmware rebuilds a word of control memory (R197); what the word then holds is not stated.
DEDUCED: log 140. DESIGN CHOICE: log 179. -/
def Dev.rebuildWord (d : Dev) (m : Nat) : Dev :=
  let (v, d) := d.freeBelow 6 (2 ^ 28)
  d.storeDW (evenOf m) (BitVec.ofNat 28 v)

/-- The reaction to a poisoned word that is no exception (R197). -/
def Dev.reactTo (d : Dev) (core m : Nat) : Dev :=
  match d.reaction core m with
  | .restart => d.memRestart core
  | .block => (d.askReset m).endRun core
  | .group => d.groupRestart core
  | .rebuild => d.rebuildWord m
  | _ => d

/-- Penalty steps of the loads of a bundle, in bundle order. -/
def loadPens (c : Core) (step : Nat) (acts : List Act) : Nat :=
  acts.foldl (fun p a => match a with | .load a n => p + overlapPen c.stores (step + p) (overlapWords a n) | _ => p) 0

/-- The step count of a bundle without its transfer (R127). DEDUCED: log 144. -/
def baseSteps (effs : List Eff) : Nat := effs.foldl (fun n e => Nat.max n e.steps) 1

/-- WAIT and BARRIER of a bundle. DEDUCED: log 144. -/
def Dev.doEnd (d : Dev) (P : PageOps) (core tick : Nat) (again : Bool) (acts : List Act) : Dev :=
  acts.foldl (fun d a =>
    match a with
    | .wait => P.serve (d.doWait P core tick)
    | .barrier b => P.serve (d.doBarrier P core b.toNat again)
    | _ => d) d

/-- Every syllable's effect is applied: registers and flags, then what else the syllables ask for, then the sticky
bits; with what waits for release. -/
def Dev.applyAll (d : Dev) (P : PageOps) (x : Issue) (effs : List Eff) (step last : Nat) : Dev × List HeldOut :=
  let d := d.modCore x.core fun c => effs.foldl Core.applyRegs c
  let r := (effs.map (·.acts)).flatten.foldl (Dev.act P x.core step last x.tick) (d, [])
  (r.1.modCore x.core fun c => (c.stick effs).mend effs, r.2)

/-- Fetch moves on: to a target, to EPC, or past the bundle, where a loop may end; with the steps that this adds. -/
def Dev.depart (d : Dev) (x : Issue) (effs : List Eff) (base : Nat) (g : Goes) : Dev × Nat :=
  match g with
  | .jump t b =>
    (d.modCore x.core fun c =>
      let c := if b then c.leaveLoops t 2 else c
      { c with fetch := t, loopBuf := ⟨none, false⟩ }, 3 - base)
  | .ret =>
    (d.modCore x.core fun c => ({ c.returnTo with loopBuf := ⟨none, false⟩ }).stick effs, 3 - base)
  | .on =>
    if x.more then (d, 0)
    else
      let c := { d.core x.core with fetch := BitVec.ofNat 28 (x.addr + x.len) }
      let e := c.loopEnd x.addr x.len 2
      (d.setCore x.core e.1, e.2)

/-- The loads that the next bundle may have to wait for. -/
def Core.noteLoads (c : Core) (effs : List Eff) (after : Nat) : Core :=
  { c with loadBits := if after = 0 then (effs.map (·.loads)).flatten else [] }

/-- A bundle whose syllables raise nothing completes; its steps are counted, and the damper holds what waits for its
compare. DEDUCED: log 131. -/
def Dev.complete (d : Dev) (P : PageOps) (x : Issue) (effs : List Eff) : Dev :=
  let c := d.core x.core
  let step := c.steps + x.pen
  let acts := (effs.map (·.acts)).flatten
  let lpen := loadPens c step acts
  let base := baseSteps effs
  let o := d.applyAll P x effs step (step + lpen + base - 1)
  let r := o.1.depart x effs base (goesOf acts)
  let d' := r.1.modCore x.core fun c =>
    { (c.noteLoads effs r.2).spend (base + x.pen + lpen + r.2) (x.pen + lpen + r.2) with
      midway := if x.more then c.midway else none }
  let h : Held :=
    ⟨{ c with loopBuf := x.buf }, step + lpen, base, effs, d.shadows x effs, some (d'.core x.core).fetch, o.2, none, c.retry⟩
  ((d'.hold x.core h).budget x.core).doEnd P x.core x.tick c.retry acts

/-- How an issue of a bundle ends: complete; an exception, with the position and the word of its syllable; or a poisoned
word whose reaction ends or restarts the run. -/
inductive Issued where
  | done (d : Dev)
  | exc (d : Dev) (spos : Nat) (word : DW) (e : Exc)
  | met (d : Dev)

/-- A register of the bundle has an uncorrectable stored word: it is counted, and the run restarts on the same core
(R196, R197). DESIGN CHOICE: log 167. -/
def Dev.regRestart (d : Dev) (core : Nat) : Dev :=
  if core < 64 then (d.countUnc (corePage core)).memRestart core else d

/-- A read meets a poisoned word: its code, and the reset of a state block, which any reader asks for (R196, R197).
DEDUCED: log 140. -/
def Dev.meetPoison (d : Dev) (m : Nat) : Dev :=
  let d := d.readCode m
  if d.blocks.any (·.holds m) then d.askReset m else d

/-- A bundle executes: the first syllable that raises an exception or meets poison decides, and the bundle then has no
effect (R107 order 6, R202). DEDUCED: log 131. -/
def Dev.issue (d : Dev) (P : PageOps) (x : Issue) : Issued :=
  if (d.core x.core).readsBad x.syls then .met (d.regRestart x.core)
  else
    let effs := d.effects P x
    match (effs.zip x.syls).zipIdx.find? (fun e => e.1.1.exc.isSome || e.1.1.met.isSome) with
    | none => .done (d.complete P x effs)
    | some ((e, s), i) =>
      match e.met, e.exc with
      | some m, some ex => .exc (d.meetPoison m) (x.off + i) s.word ex
      | none, some ex => .exc d (x.off + i) s.word ex
      | some m, none => .met ((d.readCode m).reactTo x.core m)
      | none, none => .met d

/-! REP (R119 to R124, R148, R149). -/

/-- The core stands between two units of a repeated bundle or a long instruction (R164). -/
def Dev.setMidway (d : Dev) (core : Nat) (m : Midway) : Dev := d.modCore core fun c => { c with midway := some m }

/-- A bundle of one unit of work that does nothing but spend steps. DESIGN CHOICE: log 142. -/
def Issue.idle (x : Issue) : Issue := { x with syls := [], off := 0, more := false }

/-- Between two units: an acceptable interrupt enters, and without one the core stops there until its bundle arrives
again. DESIGN CHOICE: log 142. -/
def Dev.pause (d : Dev) (core : Nat) : Dev :=
  match d.acceptable core with
  | some (t, n, g) => d.enterInterrupt core t n g
  | none => d

/-- What was due by the step in which a bundle would issue is released. -/
def Dev.ready (d : Dev) (P : PageOps) (core pen : Nat) : Dev := d.emitDue P core ((d.core core).steps + pen)

/-- The iterations that are left of a REP bundle: `left` of them, stopped after `cut` more. Each is a bundle (R164):
what R91 and R101 ask of its syllables is checked anew. The penalty in the issue is that of the next iteration.
DESIGN CHOICE: log 142. -/
def Dev.repeatFrom (P : PageOps) : Nat → Midway → Option Nat → Issue → Dev → Dev
  | 0, _, _, x, d => d.modCore x.core fun c => { c with lprog := 0 }
  | left + 1, m, cut, x, d =>
    let d := (d.setMidway x.core m).ready P x.core x.pen
    if cut = some 0 then d.pause x.core
    else
      match firstSyl (fun s => (s.ins.map (privRefused (d.core x.core) (decide (x.core < 64)))).getD false) x.syls with
      | some (i, s) => d.takeException P x.core x.addr x.len (x.off + i) s.word ⟨0x03, some s.word, 0⟩ x.pen
      | none =>
        match d.issue P { x with more := left ≠ 0 } with
        | .done d' =>
          Dev.repeatFrom P left { m with done := m.done + 1 } (cut.map (· - 1))
            { x with pen := usePen (d'.core x.core) ((x.syls.map Syl.reads).flatten), buf := (d'.core x.core).loopBuf } d'
        | .exc d' i w e => d'.takeException P x.core x.addr x.len i w e x.pen
        | .met d' => d'

/-- A REP bundle issues. DEDUCED: log 143. -/
def Dev.repBundle (d : Dev) (P : PageOps) (x : Issue) (count : Nat) (cut : Option Nat) : Dev :=
  let c := d.core x.core
  let (total, done, _) := progress c 1 count
  let y := { x with syls := x.syls.tail, off := 1 }
  if total ≤ done then
    (d.modCore x.core fun c => { c with lprog := 0 }).complete P x.idle []
  else Dev.repeatFrom P (total - done) ⟨c.fetch, 1, total, done, c.steps, c.pen, c.phaseSteps⟩ cut y d

/-! Long instructions (R121, R122, R124, R148, R149). -/

/-- A long instruction's operands. -/
inductive LongOp where
  | mac (acc : BitVec 2) (frac : Bool)
  | mov
  | fill
  | max (abs : Bool)
  deriving DecidableEq, Repr

structure LongIns where
  op : LongOp
  fa : BitVec 3
  fb : BitVec 3
  circ : Bool
  width : Bool
  deriving DecidableEq, Repr

/-- W of an element. -/
def LongIns.e (l : LongIns) : Nat := if l.width then 1 else 2

/-- Steps of an element (R148). -/
def LongIns.cost (l : LongIns) : Nat := match l.op with | .mac _ _ => 2 | .mov => 2 | .fill => 1 | .max _ => 1

/-- The pointers that the instruction advances. -/
def LongIns.ptrs (l : LongIns) : List (BitVec 3) :=
  match l.op with | .mac _ _ => [l.fa, l.fb] | .mov => [l.fa, l.fb] | .fill => [l.fb] | .max _ => [l.fa]

/-- Element i of the stream through a pointer, as it is loaded. -/
def Dev.element (d : Dev) (P : PageOps) (x : Place) (l : LongIns) (a : DW) : DW :=
  if l.width then (d.loadedW P x a).signExtend 28 else d.loadedDW P x a 2 0

/-- The magnitude that BLKMAX takes with ABS = 1 (R121, R148). -/
def LongIns.mag (l : LongIns) (v : DW) : DW :=
  if l.width then ((absSat (v.extractLsb' 0 14)).res).signExtend 28 else (absSat v).res

/-- A store of an element. -/
def LongIns.store (l : LongIns) (a v : DW) : Act := if l.width then .storeW a (v.extractLsb' 0 14) else .storeD a v

/-- What element i does (R121): each element is one access under R94. -/
def Dev.effElement (d : Dev) (P : PageOps) (c : Core) (x : Place) (l : LongIns) (i : Nat) : Eff :=
  let n := l.e
  let pa := streamAddr c l.fa l.circ n i
  let pb := streamAddr c l.fb l.circ n i
  let base : Eff := { Eff.none with steps := l.cost }
  match l.op with
  | .fill =>
    (match d.accCheck x.core c.priv true pb n with
     | some e => { base with exc := some e }
     | none => { base with acts := [l.store pb (c.g l.fa.toNat)] })
  | .mov =>
    (match d.loadMeets x c.priv pa n with
     | some e => e
     | none =>
       match d.accCheck x.core c.priv true pb n with
       | some e => { base with exc := some e }
       | none => { base with acts := [.load pa n, l.store pb (d.element P x l pa)] })
  | .mac acc frac =>
    (match d.loadMeets x c.priv pa n with
     | some e => e
     | none =>
       match d.loadMeets x c.priv pb n with
       | some e => e
       | none =>
         let p := product (d.element P x l pa).toInt (d.element P x l pb).toInt frac
         { base with accs := [(acc.toNat, macSum (c.a acc).toInt p false)], acts := [.load pa n, .load pb n] })
  | .max abs =>
    (match d.loadMeets x c.priv pa n with
     | some e => e
     | none =>
       let v := d.element P x l pa
       let v := if abs then l.mag v else v
       let old := c.g l.fb.toNat
       let r := if i = 0 then v else if old.toInt ≤ v.toInt then v else old
       { base with grs := [(l.fb.toNat, fullMask, r)], acts := [.load pa n] })

/-- The pointers advance by `total` elements, and LPROG is 0 (R121, R124). -/
def Core.longDone (c : Core) (l : LongIns) (total : Nat) : Core :=
  let new := l.ptrs.map fun q => (0x20 + q.toNat, fullMask, streamAddr c q l.circ l.e total)
  { new.foldl Core.putGr c with lprog := 0 }

/-- The magnitude of an element in the lane. -/
def LongIns.shadowMag (l : LongIns) (v : DW) : DW :=
  if l.width then ((shadowAbsSat (v.extractLsb' 0 14)).res).signExtend 28 else (shadowAbsSat v).res

/-- What the shadow pass gives for an element: its addresses and its arithmetic in the lane, from the words that the
primary pass latched (R169, R174). -/
def Dev.shadowElement (d : Dev) (P : PageOps) (c : Core) (x : Place) (l : LongIns) (i : Nat) (e : Eff) : Eff :=
  let addr (q : BitVec 3) : DW :=
    if l.circ then shadowStep (c.p q) (c.b q) (c.l q) (i * l.e : Nat) else shadowSum (c.p q) (BitVec.ofNat 28 (i * l.e))
  let v (q : BitVec 3) : DW := lane (d.element P x l (streamAddr c q l.circ l.e i))
  match l.op with
  | .fill => { e with acts := [l.store (addr l.fb) (lane (c.g l.fa.toNat))] }
  | .mov => { e with acts := [.load (addr l.fa) l.e, l.store (addr l.fb) (v l.fa)] }
  | .mac acc frac =>
    { e with
      accs := [(acc.toNat, shadowMac (upAcc (c.a acc)) (product (up (v l.fa)).toInt (up (v l.fb)).toInt frac) false)]
      acts := [.load (addr l.fa) l.e, .load (addr l.fb) l.e] }
  | .max abs =>
    let w := if abs then l.shadowMag (v l.fa) else v l.fa
    let old := c.g l.fb.toNat
    let r := if i = 0 then w else if (up old).toInt ≤ (up w).toInt then w else lane old
    { e with grs := [(l.fb.toNat, fullMask, r)], acts := [.load (addr l.fa) l.e] }

/-- An element is applied, and the damper holds it (R164). -/
def Dev.elementDone (d : Dev) (P : PageOps) (x : Issue) (e shadow : Eff) : Dev :=
  let c := d.core x.core
  let lpen := loadPens c c.steps e.acts
  let last := c.steps + lpen + e.steps - 1
  let d := d.modCore x.core fun c => (c.applyRegs e).mend [e]
  let r := e.acts.foldl (Dev.act P x.core c.steps last x.tick) (d, [])
  let d := r.1.modCore x.core (·.spend (e.steps + lpen) lpen)
  (d.hold x.core ⟨c, c.steps + lpen, e.steps, [e], [shadow], none, r.2, none, c.retry⟩).budget x.core

/-- A long instruction is complete: its pointers advance, and fetch moves on. -/
def Dev.longEnd (d : Dev) (x : Issue) : Dev :=
  let c := { d.core x.core with fetch := BitVec.ofNat 28 (x.addr + x.len), midway := none }
  let (c, p) := c.loopEnd x.addr x.len 2
  (d.setCore x.core (c.spend p p)).budget x.core

/-- An element raises an exception: earlier elements stand, and the instruction counts as one step, whatever it did
(R122, R204). -/
def Dev.longRaises (d : Dev) (P : PageOps) (x : Issue) (m : Midway) (word : DW) (e : Exc) : Dev :=
  ((d.drain P x.core).modCore x.core fun c =>
    { c with steps := m.steps, pen := m.pen, phaseSteps := m.phaseSteps }).takeException P x.core x.addr x.len 0 word e 0

/-- The elements that are left of a long instruction, stopped after `cut` more. DESIGN CHOICE: log 142. -/
def Dev.longFrom (P : PageOps) (x : Issue) (word : DW) (l : LongIns) (d : Dev) : Nat → Midway → Option Nat → Dev
  | 0, m, _ => (d.modCore x.core fun c => c.longDone l m.total).longEnd x
  | left + 1, m, cut =>
    let d := (d.setMidway x.core m).ready P x.core 0
    if cut = some 0 then d.pause x.core
    else
      let a := d.ahead x.core
      let c := a.core x.core
      let p : Place := ⟨x.core, x.addr, x.len, c.steps⟩
      let e := a.effElement P c p l m.done
      match e.met, e.exc with
      | some k, some ex => (d.meetPoison k).longRaises P x m word ex
      | none, some ex => d.longRaises P x m word ex
      | some k, none => (d.readCode k).reactTo x.core k
      | none, none =>
        Dev.longFrom P x word l (d.elementDone P x e (a.shadowElement P c p l m.done e)) left { m with done := m.done + 1 } (cut.map (· - 1))

/-- The set-up of a long instruction: 4 steps (R148, R164). -/
def Dev.longSetup (d : Dev) (x : Issue) : Dev :=
  let c := d.core x.core
  let d := d.modCore x.core fun c => { c.spend (4 + x.pen) x.pen with loadBits := [] }
  (d.hold x.core ⟨{ c with loopBuf := x.buf }, c.steps + x.pen, 4, [], [], some c.fetch, [], none, c.retry⟩).budget x.core

/-- A long instruction issues: its set-up, then its elements. Where the core stands between two of them, it goes on
there. A count of 0 changes no register; a resumption with nothing left completes at once. -/
def Dev.longBundle (d : Dev) (P : PageOps) (x : Issue) (word : DW) (l : LongIns) (count : Nat) (cut : Option Nat) : Dev :=
  let c := d.core x.core
  if c.readsBad x.syls then d.regRestart x.core
  else
    let (total, done, resumed) := progress c 2 count
    match c.midway with
    | some m => Dev.longFrom P x word l d (m.total - m.done) m cut
    | none =>
      let d := d.longSetup x
      if total ≤ done && !resumed then d.longEnd x
      else Dev.longFrom P x word l d (total - done) ⟨c.fetch, 2, total, done, c.steps, c.pen, c.phaseSteps⟩ cut

/-! A bundle is fetched. -/

/-- The long instruction of a syllable. -/
def longOf (i : Instr) : Option (LongIns × BitVec 5 × Option Nat) :=
  match i with
  | .blkmac _ n fa fb acc fr ci wi cut => some (⟨.mac acc fr, fa, fb, ci, wi⟩, n, cut)
  | .blkmov _ n fa fb ci wi cut => some (⟨.mov, fa, fb, ci, wi⟩, n, cut)
  | .blkfill _ n fa fb ci wi cut => some (⟨.fill, fa, fb, ci, wi⟩, n, cut)
  | .blkmax _ n fa fb ab ci wi cut => some (⟨.max ab, fa, fb, ci, wi⟩, n, cut)
  | _ => none

/-- The core stands between two units of the bundle at its fetch address; another bundle there starts anew. -/
def Core.atPlace (c : Core) (syls : List Syl) : Core :=
  match c.midway with
  | some m =>
    let kind := ((syls.head?).bind fun s => s.ins.bind (prefixCount c)).map (·.1)
    if m.addr = c.fetch && kind = some m.kind then c else { c with midway := none }
  | none => c

/-- The bundle at the fetch address, as it is about to issue: what was due is released, and what the bundle waits for
is counted. -/
def Dev.poised (d : Dev) (P : PageOps) (core : Nat) (syls : List Syl) : Dev :=
  ((d.regCorrect core syls).modCore core fun c => { c.atPlace syls with bundle := [] }).ready P core
    (usePen (d.core core) ((syls.map Syl.reads).flatten))

/-- The issue of a bundle by a core. -/
def Issue.of (c : Core) (core : Nat) (syls : List Syl) (tick : Nat) : Issue :=
  ⟨core, c.fetch.toNat, syls.length, syls, 0, tick, usePen c ((syls.map Syl.reads).flatten), false, c.loopBuf⟩

/-- The bundle at the fetch address issues: the checks of R107, then execution. -/
def Dev.runBundle (d : Dev) (P : PageOps) (core : Nat) (syls : List Syl) (tick : Nat) : Dev :=
  let d := d.poised P core syls
  let c := d.core core
  let x := Issue.of c core syls tick
  match precheck c (decide (core < 64)) syls with
  | some (i, e) => d.takeException P core x.addr x.len i (((syls[i]?).map Syl.word).getD 0) e 0
  | none =>
    let d := d.modCore core fun c => if c.midway.isSome then c else c.countBundle
    match (syls.head?).bind Syl.ins with
    | some (.rep _ n cut) => d.repBundle P x (repCount c n) cut
    | some i =>
      match longOf i with
      | some (l, n, cut) => d.longBundle P x (((syls.head?).map Syl.word).getD 0) l (c.d n).toNat cut
      | none =>
        match d.issue P x with
        | .done d' => d'
        | .exc d' i w e => d'.takeException P core x.addr x.len i w e x.pen
        | .met d' => d'
    | none => d

/-- A syllable address that a core may fetch from at its level (R101, R102). DEDUCED: log 134. -/
def fetchOk (core priv a : Nat) : Bool := 64 ≤ core || a ≤ 0x3FFF || (priv = 3 && a ≤ 0x4FFF)

/-- A core whose bundles issue. -/
def Dev.canIssue (d : Dev) (core : Nat) : Bool :=
  let c := d.core core
  c.run = .running && !c.halted && !c.parked

/-- A fetch fails. -/
def Dev.fetchFault (d : Dev) (P : PageOps) (core len a : Nat) (e : Exc) : Dev :=
  ((d.modCore core fun c => { c with bundle := [] }).ready P core 0).takeException P core a len 0 0 e 0

/-- A syllable arrives at a core: the bundle issues with its last syllable, or with its fifth (R104, R105).
DEDUCED: log 145. DESIGN CHOICE: log 12. -/
def Dev.syllable (d : Dev) (P : PageOps) (x : Ctx) (i : Instr) : Dev :=
  let k := x.core.val
  if d.canIssue k then
    let c := d.core k
    let l := c.bundle ++ [i]
    let a := c.fetch.toNat + c.bundle.length
    if !fetchOk k c.priv a then d.fetchFault P k l.length c.fetch.toNat ⟨0x07, some (BitVec.ofNat 28 a), 2⟩
    else if x.stop || 5 ≤ l.length then d.runBundle P k (l.map Syl.ofInstr) x.tick.toNat
    else d.modCore k fun c => { c with bundle := l }
  else d

/-- The words of one bundle: up to the first with its STOP bit, and five at most. -/
def bundleWords : Nat → List DW → List DW
  | 0, _ => []
  | _, [] => []
  | n + 1, w :: ws => if w.getLsbD 27 then [w] else w :: bundleWords n ws

/-- The fault of a fetch of words at an address, of which the last is poisoned where that is so (R102, R197); with the
position of the word. -/
def fetchExc (core priv a : Nat) (words : List DW) (poisoned : Bool) : Option (Nat × Exc) :=
  match (List.range words.length).find? (fun k => !fetchOk core priv (a + k)) with
  | some k => some (k, ⟨0x07, some (BitVec.ofNat 28 (a + k)), 2⟩)
  | none =>
    if poisoned then some (words.length - 1, ⟨0x0D, some (BitVec.ofNat 28 (a + words.length - 1)), 2⟩) else none

/-- A fetch finds a syllable of a slot's program uncorrectable: it is poisoned and counted (R196). -/
def Dev.poisonFetch (d : Dev) (core a : Nat) : Dev :=
  let p := progAddr core d.runAB a
  if 64 ≤ core || d.isCold p then d
  else if d.tagAt p = .good || d.tagAt p = .correctable then (d.setTag p .uncorrectable).readCode p
  else d.readCode p

/-- The words of a bundle, of which the last is poisoned where that is so, are fetched (R102, R197).
DEDUCED: log 145. DESIGN CHOICE: log 12. -/
def Dev.fetched (d : Dev) (P : PageOps) (core : Nat) (words : List DW) (poisoned : Bool) : Dev :=
  let c := d.core core
  match fetchExc core c.priv c.fetch.toNat words poisoned with
  | some (k, e) =>
    (if e.cause = 0x0D then d.poisonFetch core (c.fetch.toNat + k) else d).fetchFault P core (k + 1) c.fetch.toNat e
  | none => d.runBundle P core (words.map Syl.ofWord) 0

/-- A bundle arrives as words of memory (R104, R107, R108); a poisoned word ends it. DESIGN CHOICE: log 148. -/
def Dev.rawBundle (d : Dev) (P : PageOps) (core : Nat) (words : List DW) (poisoned : Bool) : Dev :=
  let l := if poisoned then words.take 5 else bundleWords 5 words
  if d.canIssue core && !words.isEmpty then d.fetched P core l poisoned else d

/-- The next bundle, whose words are given, would raise an exception before it issues (R107 orders 1 to 5, R208). -/
def Dev.heldBack (d : Dev) (core : Nat) (words : List DW) (poisoned : Bool) : Bool :=
  let c := d.core core
  let l := if poisoned then words.take 5 else bundleWords 5 words
  let syls := l.map Syl.ofWord
  !fetchOk core c.priv c.fetch.toNat || (fetchExc core c.priv c.fetch.toNat l poisoned).isSome
    || (!words.isEmpty && (precheck (c.atPlace syls) (decide (core < 64)) syls).isSome)

/-- An interrupt is accepted between two bundles, before the bundle whose words are given (R207, R208).
DEDUCED: log 133. DESIGN CHOICE: log 162. -/
def Dev.interrupt (d : Dev) (P : PageOps) (core : Nat) (words : List DW) (poisoned : Bool) : Dev :=
  if d.canIssue core && (d.core core).bundle.isEmpty && !d.heldBack core words poisoned then
    match d.acceptable core with
    | some (t, n, g) => (d.ready P core 0).enterInterrupt core t n g
    | none => d
  else d

end Sys2Proof.Machine
end

