-- ==== Sys2Proof/Machine/Health.lean ====
section
/-! DEFINITION. The health state, the health record, the fuses and the end of core debug (R432 to R445, R450 to
R452, R455). -/

namespace Sys2Proof.Machine

/-! The sweep request (R440, R441). -/

/-- An evaluated bit of SWEEP_REASON is set or cleared. DESIGN CHOICE: log 19. -/
def Dev.sweepEval (d : Dev) (bit : Nat) (on : Bool) : Dev :=
  let old := d.get Reg.HEALTH.SWEEP_REASON.REASON
  if on then d.sweepSet (2 ^ bit) else d.put Reg.HEALTH.SWEEP_REASON.REASON (withBits old bit bit 0)

/-- The health state is established: SWEEP_N is driven. DESIGN CHOICE: log 19. -/
def Dev.sweepDrive (d : Dev) : Dev := d.put Reg.HEALTH.STATUS.SWEEP_DRIVEN 1

/-! Temperature (R433). -/

/-- Some HEARTH domain is ON. -/
def Dev.anyHearth (d : Dev) : Bool := (List.range 16).any fun h => d.isOn (domHearth h)

/-- A temperature as a signed 9-bit field. DESIGN CHOICE: log 125. -/
def tjField (t : Int) : Nat := (BitVec.ofInt 9 t).toNat

/-- The highest of some readings. DESIGN CHOICE: log 125. -/
def highest (l : List Int) : Int := l.foldl max (l.headD 0)

/-- The ACTIVE control core reads every sensor: one second. DESIGN CHOICE: log 125. -/
def Dev.tempSample (d : Dev) (temps : List Int) : Dev :=
  if !d.served || temps.isEmpty then d
  else
    let d := d.put Reg.HEALTH.TJ.NOW (tjField (highest temps))
    if d.anyHearth then
      let d := d.modHealth fun x =>
        { x with tjSum := x.tjSum + highest temps, tjSecs := x.tjSecs + 1, hourSecs := (x.hourSecs + 1) % 3600 }
      let d := d.put Reg.HEALTH.TJ.AVG (tjField (Int.fdiv d.health.tjSum d.health.tjSecs))
      if d.health.hourSecs = 0 then
        d.put Reg.HEALTH.HOURS.HOURS (Nat.min (d.get Reg.HEALTH.HOURS.HOURS + 1) 0xFFFFFFF) else d
    else d

/-! Headroom (R435, R436). -/

/-- The typical column of R165: mV above 500, and M steps/s. DESIGN CHOICE: log 126. -/
def rateTable : List (Nat × Nat) := [(0, 200), (100, 420), (200, 650), (250, 800), (350, 1080), (450, 1400)]

/-- The headroom of a mean of `sum / cnt` codes of 5 mV, in %. DESIGN CHOICE: log 126. -/
def headroomOf (sum cnt : Nat) : Nat :=
  match (rateTable.zip (rateTable.drop 1)).find? (fun s => 5 * sum ≤ s.2.1 * cnt) with
  | some ((v0, r0), (v1, r1)) =>
    let full := 1400 * cnt * (v1 - v0)
    100 * (full - (r0 * cnt * (v1 - v0) + (5 * sum - v0 * cnt) * (r1 - r0))) / full
  | none => 0

/-- The hourly value of a hearth. DESIGN CHOICE: log 126. -/
def Dev.hourHead (d : Dev) (h : Nat) : Dev :=
  let cnt := tabGet 0 d.health.vCnt h
  let d :=
    if cnt = 0 && !d.folded h then d
    else
      let v := if d.folded h then 0 else headroomOf (tabGet 0 d.health.vSum h) cnt
      let d := d.putAt Reg.HEALTH.HEAD.NOW 0 h v
      let d := d.putAt Reg.HEALTH.HEAD.MIN 0 h
        (if d.health.minValid.contains h then Nat.min v (d.getAt Reg.HEALTH.HEAD.MIN 0 h) else v)
      d.modHealth fun x => { x with minValid := setInsert x.minValid h }
  let now := d.getAt Reg.HEALTH.HEAD.NOW 0 h
  d.modHealth fun x =>
    { x with
      vSum := tabDel x.vSum h, vCnt := tabDel x.vCnt h
      headSum := if x.minValid.contains h then tabMap 0 x.headSum h (· + now) else x.headSum
      headCnt := if x.minValid.contains h then tabMap 0 x.headCnt h (· + 1) else x.headCnt }

/-- The hourly evaluation. DESIGN CHOICE: log 127. -/
def Dev.hourRoll (d : Dev) : Dev :=
  if !d.served then d
  else
    let d := d.each (List.range 16) Dev.hourHead
    let d := d.sweepEval 3 ((List.range 16).any fun h => decide (d.getAt Reg.HEALTH.HEAD.NOW 0 h < 10))
    let d := d.modFlash fun f => { f with age := f.age.map fun e => (e.1, e.2 + 1) }
    d.modHealth fun x => { x with recDue := true }

/-! The day (R436 to R439). -/

/-- The daily values of a hearth. DESIGN CHOICE: log 126. -/
def Dev.dayHead (d : Dev) (h : Nat) : Dev :=
  let x := d.health
  let n := tabGet 0 x.headCnt h
  let days := if n = 0 then tabGet [] x.headDays h else (tabGet 0 x.headSum h / n) :: tabGet [] x.headDays h
  let d := d.putAt Reg.HEALTH.HEAD.DAY30 0 h ((days[29]?).getD 0)
  let fr := tabGet 0 x.dayFrames h
  let d := d.putAt Reg.HEALTH.FLARE.DAY 0 h (if fr = 0 then 0 else Nat.min (tabGet 0 x.dayFlare h * 4096 / fr) 0xFFF)
  d.modHealth fun x => { x with headDays := tabSet x.headDays h days }

/-- The daily rollover. DESIGN CHOICE: log 127. -/
def Dev.dayRoll (d : Dev) : Dev :=
  if !d.served then d
  else
    let d := d.each (List.range 16) Dev.dayHead
    let d := d.each (List.range 5) fun d c =>
      (d.putAt Reg.HEALTH.CE_DAY.CE 0 c (Nat.min (tabGet 0 d.health.ceToday c) 0xFFFF)).putAt Reg.HEALTH.CE_DAY.UE 0 c
        (Nat.min (tabGet 0 d.health.ueToday c) 0xFFF)
    let d := d.put Reg.HEALTH.SR_DAY.COUNT (Nat.min d.health.srToday 0xFFFF)
    let d := d.modHealth fun x =>
      { x with headSum := [], headCnt := [], dayFrames := [], dayFlare := [], ceToday := [], ueToday := [], srToday := 0 }
    d.sweepEval 5 (decide (d.get Reg.HEALTH.CFG.SR_LIMIT < d.get Reg.HEALTH.SR_DAY.COUNT))

/-! The health record (R443, R444, R455). -/

/-- FUSE.CHIP_ID. -/
def Dev.chipId (d : Dev) : Nat :=
  d.getAt Reg.FUSE.CHIP_ID.ID 0 0 + d.getAt Reg.FUSE.CHIP_ID.ID 0 1 * 2 ^ 28 + d.getAt Reg.FUSE.CHIP_ID.ID 0 2 * 2 ^ 56

/-- A record's program completes. The next goes to the other stripe, and a failed one is written again there. -/
def Dev.recordWritten (d : Dev) (ok : Bool) : Dev :=
  if !d.served || !d.isOn (domFlash 0) || d.get Reg.FLASH.STATUS.MOUNT ≠ 2 then d
  else
    let d := d.modHealth fun x => { x with recStripe := 1 - x.recStripe, recDue := !ok }
    if ok then d.put Reg.HEALTH.REC_SEQ.SEQ ((d.get Reg.HEALTH.REC_SEQ.SEQ + 1) % 2 ^ 28) else d.raise 0x003 2

/-- A record that is valid. DESIGN CHOICE: log 161. -/
def recValid (r : HealthRec) : Bool := r.magic = 0x48544C48#32 && r.format = 1#16 && r.crcOk

/-- The newest valid record. -/
def newestRec (l : List HealthRec) : Option HealthRec :=
  (l.filter recValid).foldl (fun a r => match a with
    | some x => if x.seq.toNat < r.seq.toNat then some r else a
    | none => some r) none

/-- The roles of control cores that are not retired move up; a core that takes STANDBY is powered, and the SPARE role
may be lost (R190, R426). DESIGN CHOICE: log 130. -/
def Dev.compactRoles (d : Dev) (retired : Nat) : Dev :=
  let l := [d.active, d.standby, d.spareCtrl].filter (fun k => k < 3 && !bitOf retired k)
  let role (i : Nat) : Nat := (l[i]?).getD 3
  let lost := d.spareCtrl < 3 && role 2 = 3
  let d := (((d.setActive (role 0)).setStandby (role 1)).put Reg.HEALTH.CTRL.SPARE (role 2)).put Reg.HEALTH.CTRL.RETIRED retired
  let d := d.each ((List.range 3).filter (bitOf retired)) fun d k => d.lower (domCtrl k) true
  let d := d.iff lost fun d => d.sweepSet 4
  if role 1 < 3 && d.domSt (domCtrl (role 1)) ≠ .on then
    let d := d.gain (domCtrl (role 1)) 0
    { d with ctrl := { d.ctrl with ready := false } }
  else d

/-- A table from a list, key by position. -/
def tabOf {α : Type} (l : List α) : Tab α := l.zipIdx.map fun (x, i) => (i, x)

/-- The record of this die is put in force. DEDUCED: log 157. DESIGN CHOICE: log 130, 161. -/
def Dev.recordIn (d : Dev) (r : HealthRec) : Dev :=
  let d := d.modHealth fun x =>
    { x with
      cores := tabOf r.cores, slotmap := tabOf r.slotmap, tjSum := r.tjSum, tjSecs := r.tjSecs
      headDays := tabOf (r.headDays.map (·.map (·.toNat))), minValid := List.range r.headMin.length }
  let d := d.put Reg.HEALTH.HOURS.HOURS r.hours.toNat
  let d := d.put Reg.HEALTH.REC_SEQ.SEQ r.seq.toNat
  let d := (tabOf r.headMin).foldl (fun d e => d.putAt Reg.HEALTH.HEAD.MIN 0 e.1 e.2.toNat) d
  let d := (tabOf r.flareTotal).foldl (fun d e => d.putAt Reg.HEALTH.FLARE.TOTAL 0 e.1 e.2.toNat) d
  let d := d.each (List.range 16) fun d h => if d.isOn (domHearth h) then (d.loadMap h).healthCores h else d
  (d.compactRoles (bitsOf r.ctrl.toNat 8 6)).put Reg.HEALTH.STATUS.REC 1

/-- The stripe of the next record: 0 for stripe 4, 1 for stripe 5. Writes alternate, and the one after a record of
another die replaces it (R443, R444). -/
def Dev.recNext (d : Dev) (k : Nat) : Dev := d.modHealth fun x => { x with recStripe := k }

/-- The health record is read at start-up, once: the records of stripes 4 and 5, in that order. DEDUCED: log 157. -/
def Dev.healthRead (d : Dev) (l : List HealthRec) : Dev :=
  let d :=
    if d.get Reg.HEALTH.STATUS.REC ≠ 0 then d
    else
      match newestRec l with
      | none => (d.put Reg.HEALTH.STATUS.REC 3).modHealth fun x => { x with recDue := true }
      | some r =>
        let at5 := l.idxOf r
        if r.chipId.toNat = d.chipId then (d.recordIn r).recNext (1 - at5)
        else ((d.put Reg.HEALTH.STATUS.REC 2).raise 0x003 1).recNext at5
  d.sweepDrive

/-! Fuses (R450 to R452, R455). -/

/-- A write of FUSE.SEAL_CMD. DESIGN CHOICE: log 21, 128. -/
def Dev.sealWrite (d : Dev) (v : DW) (within1ms : Bool) : Dev :=
  if d.aon.sealStep && within1ms && v = 0x05A5A5A#28 && d.aon.blow.isNone then
    (d.modAon fun a => { a with sealStep := false, blow := some .seal }).put Reg.FUSE.STATUS.BLOWING 1
  else d.modAon fun a => { a with sealStep := decide (v = 0x0A5A5A5#28) }

/-- SEALED. -/
def Dev.isSealed (d : Dev) : Bool := d.flag Reg.FUSE.STATUS.SEALED

/-- A slot that debug halts is released; it issues nothing before its next frame entry. DESIGN CHOICE: log 129. -/
def Dev.unhaltSealed (d : Dev) (s : Nat) : Dev :=
  d.modCore s fun c =>
    if c.halted then
      { c with
        halted := false
        run := match c.run with
          | .running => .stopped
          | .barrier _ => .stopped
          | r => r
        bundle := [] }
    else c

/-- Debug closes. DESIGN CHOICE: log 129. -/
def Dev.closeDebug (d : Dev) : Dev :=
  let d := { d with tap := { d.tap with ir := match d.tap.ir with
    | .dbgAddr => .bypass
    | .dbgData => .bypass
    | .dbgCtrl => .bypass
    | r => r } }
  d.each (List.range 64) Dev.unhaltSealed

/-- A fuse blow in progress completes. DESIGN CHOICE: log 128. -/
def Dev.blowDone (d : Dev) (ok : Bool) : Dev :=
  match d.aon.blow with
  | none => d
  | some b =>
    let d := (d.modAon fun a => { a with blow := none }).put Reg.FUSE.STATUS.BLOWING 0
    let d := d.put Reg.FUSE.STATUS.BLOW_FAIL (b2n !ok)
    if !ok then d
    else
      match b with
      | .seal => (d.put Reg.FUSE.STATUS.SEALED 1).closeDebug
      | .floor n => d.put Reg.FUSE.FLOOR.FLOOR n

/-! The commands. -/

/-- DESIGN CHOICE: log 3. -/
def execTempSample (temps : List Int) (s : State) : Host.Outcome State Fault Refusal :=
  .next (s.onDev fun d => (d.tempSample temps).settle)

/-- DESIGN CHOICE: log 127. -/
def execHourRollover (s : State) : Host.Outcome State Fault Refusal := .next (s.onDev fun d => d.hourRoll.settle)

def execDayRollover (s : State) : Host.Outcome State Fault Refusal := .next (s.onDev fun d => d.dayRoll.settle)

def execHealthRecordWrite (ok : Bool) (s : State) : Host.Outcome State Fault Refusal :=
  .next (s.onDev fun d => (d.recordWritten ok).settle)

/-- DESIGN CHOICE: log 21, 128. -/
def execSealCmd (v : DW) (within1ms : Bool) (s : State) : Host.Outcome State Fault Refusal :=
  .next (s.onDev fun d => (d.sealWrite v within1ms).settle)

def execFuseBlowDone (ok : Bool) (s : State) : Host.Outcome State Fault Refusal :=
  .next (s.onDev fun d => (d.blowDone ok).settle)

end Sys2Proof.Machine
end

