-- ==== Sys2Proof/Machine/Debug.lean ====
section
/-! DEFINITION. Core debug and the TAP (R452 to R454, R458). -/

namespace Sys2Proof.Machine

/-! Halt, step, resume (R454). -/

/-- The selected slot. -/
def Dev.dbgSlot (d : Dev) : Nat := d.get Reg.DEBUG.SEL.SLOT

def Dev.dbgHalted (d : Dev) : Bool := (d.core d.dbgSlot).halted

/-- HALT stops the slot between bundles: a bundle that has not issued is fetched again later.
DESIGN CHOICE: log 152. -/
def Dev.dbgHalt (d : Dev) : Dev :=
  let s := d.dbgSlot
  ((d.drainRest PageOps.none s).modCore s fun c => { c with halted := true, bundle := [] }).switchFrom s

/-- RESUME releases the halt. -/
def Dev.dbgResume (d : Dev) : Dev :=
  let s := d.dbgSlot
  ((d.drain PageOps.none s).modCore s fun c => { c with halted := false }).settlePair s

/-- The bundle at a slot's fetch address in its running image slot: its words up to the STOP bit, and whether the last of
them is poisoned. -/
def Dev.bundleAt (d : Dev) (slot a : Nat) : Nat → List DW × Bool
  | 0 => ([], false)
  | n + 1 =>
    let p := progAddr slot d.runAB a
    let w := d.dwAt p
    if !fetchOk slot 0 a then ([0], false)
    else if d.poisonAt p then ([0], true)
    else if w.getLsbD 27 then ([w], false)
    else
      let (ws, bad) := Dev.bundleAt d slot (a + 1) n
      (w :: ws, bad)

/-- A fetch reads the codes of its words (R194, R196). -/
def Dev.fetchCodes (d : Dev) (slot a n : Nat) : Dev :=
  (List.range n).foldl (fun d k => d.readCode (progAddr slot d.runAB (a + k))) d

/-- The bundle at a halted slot's fetch address issues, checked as any other (R175). -/
def Dev.stepBundle (d : Dev) (s : Nat) : Dev :=
  let a := (d.core s).fetch.toNat
  let (ws, bad) := d.bundleAt s a 5
  ((d.iff (fetchOk s 0 a) fun d => d.fetchCodes s a ws.length)).fetched PageOps.none s ws bad

/-- STEP issues one bundle; what the step before it left in the damper is released. DESIGN CHOICE: log 152. -/
def Dev.dbgStep (d : Dev) : Dev :=
  let s := d.dbgSlot
  let c := d.core s
  if c.halted && c.run = .running && d.hasProgram s then (d.drain PageOps.none s).stepBundle s else d

/-! Registers and memory of a halted slot, at M level (R454, R458). -/

/-- DESIGN CHOICE: log 141. -/
def Dev.mstat (d : Dev) (cause : Nat) : Dev := d.put Reg.DEBUG.MSTAT.CAUSE cause

/-- The core as it would be at level M. DESIGN CHOICE: log 151. -/
def Core.atM (c : Core) : Core := { c with ps := psLevel c.ps 3 }

/-- A read of RDATA. DESIGN CHOICE: log 151. -/
def Dev.rdataRead (d : Dev) : DW × Dev :=
  if !d.dbgHalted then (0, d)
  else
    let d := d.drain PageOps.none d.dbgSlot
    let c := d.core d.dbgSlot
    let n := d.get Reg.DEBUG.RSEL.NUM
    if d.get Reg.DEBUG.RSEL.SYS = 0 then
      let v := c.g n
      (v, (d.put Reg.DEBUG.RDATA.DATA v.toNat).mstat 0)
    else if sysListed (BitVec.ofNat 6 n) then
      let v := sysRead c n
      (v, (d.put Reg.DEBUG.RDATA.DATA v.toNat).mstat 0)
    else (BitVec.ofNat 28 (d.get Reg.DEBUG.RDATA.DATA), d.mstat 0x01)

/-- A write of RDATA. DESIGN CHOICE: log 151. -/
def Dev.rdataWrite (d : Dev) (v : DW) : Dev :=
  if !d.dbgHalted then d
  else
    let s := d.dbgSlot
    let d := d.drain PageOps.none s
    let c := d.core s
    let n := d.get Reg.DEBUG.RSEL.NUM
    if d.get Reg.DEBUG.RSEL.SYS = 0 then
      ((d.setCore s { c with gr := tabSet c.gr n v }).put Reg.DEBUG.RDATA.DATA v.toNat).mstat 0
    else if !sysListed (BitVec.ofNat 6 n) then d.mstat 0x01
    else if n = 0x09 || n = 0x0B || n = 0x14 || (n = 0x08 && psRefused c.atM v) then d.mstat 0x03
    else
      let c' := if n = 0x08 then { c with ps := maskPut c.ps (psWritable c.atM) v } else sysWrite c n v
      ((d.setCore s c').put Reg.DEBUG.RDATA.DATA v.toNat).mstat 0

/-- A read of MDATA. DESIGN CHOICE: log 141, 151. -/
def Dev.mdataRead (d : Dev) : DW × Dev :=
  if !d.dbgHalted then (0, d)
  else
    let s := d.dbgSlot
    let d := d.drain PageOps.none s
    let a := BitVec.ofNat 28 (d.get Reg.DEBUG.MADDR.ADDR)
    let old := BitVec.ofNat 28 (d.get Reg.DEBUG.MDATA.DATA)
    match d.accCheck s 3 false a 2 with
    | some e => (old, d.mstat e.cause)
    | none =>
      match d.poisonIn s a 2 with
      | some m =>
        let d := d.readCode m
        (old, (if d.blocks.any (·.holds m) then d.askReset m else d).mstat 0x0D)
      | none =>
        let step := (d.core s).steps
        let v := d.loadDW PageOps.none s step a.toNat true
        let outs := d.loadOuts PageOps.none s step a 2
        let d := outs.foldl (fun d o => d.emitOut PageOps.none s o) (d.doLoad PageOps.none s step a 2)
        (v, (d.put Reg.DEBUG.MDATA.DATA v.toNat).mstat 0)

/-- A write of MDATA. -/
def Dev.mdataWrite (d : Dev) (v : DW) : Dev :=
  if !d.dbgHalted then d
  else
    let s := d.dbgSlot
    let d := d.drain PageOps.none s
    let a := BitVec.ofNat 28 (d.get Reg.DEBUG.MADDR.ADDR)
    match d.accCheck s 3 true a 2 with
    | some e => d.mstat e.cause
    | none =>
      let o : HeldOut := .storeD a v 0 (d.core s).steps
      (((d.selStore s (d.core s).steps o).emitOut PageOps.none s o).put Reg.DEBUG.MDATA.DATA v.toNat).mstat 0

/-! The DEBUG page: live registers (R458). -/

/-- CTRL: HALT, STEP and RESUME of one write act in this order. DESIGN CHOICE: log 152. -/
def Dev.dbgCtrlWrite (d : Dev) (v : DW) : Dev :=
  ((d.iff (v.getLsbD 0) Dev.dbgHalt).iff (v.getLsbD 1) Dev.dbgStep).iff (v.getLsbD 2) Dev.dbgResume

/-- A read of a live register of the page. -/
def Dev.dbgRead (d : Dev) (off : Nat) : DW × Dev :=
  if off = 0x024 then (BitVec.ofNat 28 (b2n d.dbgHalted), d)
  else if off = 0x028 then ((if d.dbgHalted then (d.core d.dbgSlot).fetch.setWidth 28 else 0), d)
  else if off = 0x030 then d.rdataRead
  else if off = 0x038 then d.mdataRead
  else if off = 0x03C then (BitVec.ofNat 28 (d.get Reg.DEBUG.MSTAT.CAUSE), d.mstat 0)
  else (d.regGet (regKey 0x0F0 off), d)

/-- A write of a live register of the page. -/
def Dev.dbgWrite (d : Dev) (off : Nat) (v : DW) : Dev :=
  if off = 0x020 then d.put Reg.DEBUG.SEL.SLOT (bitsOf v.toNat 5 0)
  else if off = 0x024 then d.dbgCtrlWrite v
  else if off = 0x02C then d.regSet (regKey 0x0F0 off) (v &&& 0x7F)
  else if off = 0x030 then d.rdataWrite v
  else if off = 0x034 then d.regSet (regKey 0x0F0 off) v
  else if off = 0x038 then d.mdataWrite v
  else d

/-! The TAP (R452, R453). -/

/-- An instruction is selected, and its register gives a value. DESIGN CHOICE: log 14. -/
def Dev.tapSelect (d : Dev) (ir : TapIr) (out : Cont) : Dev := { d with tap := { d.tap with ir := ir, out := out } }

/-- A debug instruction of the TAP: BYPASS after the seal. -/
def Dev.tapDebug (d : Dev) (f : Dev → Dev) : Dev := if d.isSealed then d.tapSelect .bypass 0 else f d

def Dev.tapAddr (d : Dev) (v : BitVec 12) : Dev :=
  { d with tap := { d.tap with ir := .dbgAddr, addr := v, out := v.setWidth 32 } }

/-- DESIGN CHOICE: log 153. -/
def Dev.tapCtrl (d : Dev) (v : BitVec 2) : Dev :=
  { d with tap := { d.tap with ir := .dbgCtrl, ctrl := v &&& 1, out := (v &&& 1).setWidth 32 } }

/-- DBG_DATA: a write of the offset where DBG_CTRL asks for one, else a read of it; only live registers are reached.
DESIGN CHOICE: log 153. -/
def Dev.tapData (d : Dev) (v : DW) (read : Dev → Nat → DW × Dev) (write : Dev → Nat → DW → Dev) : Dev :=
  if d.tap.ctrl.getLsbD 0 then
    let d := write d d.tap.addr.toNat v
    { d with tap := { d.tap with ir := .dbgData, data := v, out := v.setWidth 32 } }
  else
    let (r, d) := read d d.tap.addr.toNat
    { d with tap := { d.tap with ir := .dbgData, data := r, out := r.setWidth 32 } }

/-! The commands. -/

/-- A write of the DEBUG page by the host (R452). DEDUCED: log 26. -/
def Dev.dbgOpen (d : Dev) (f : Dev → Dev) : Dev := if d.isSealed then d else f d

/-- A read of the DEBUG page by the host: after the seal it reads 0xF000_0000. DEDUCED: log 26. -/
def Dev.dbgHostRead (d : Dev) (f : Dev → DW × Dev) : Dev :=
  if d.isSealed then { d with busHost := 0xF0000000 }
  else
    let (v, d) := f d
    { d with busHost := v.setWidth 32 }

def execHalt (s : State) : Host.Outcome State Fault Refusal := .next (s.onDev fun d => (d.dbgOpen Dev.dbgHalt).settle)
def execResume (s : State) : Host.Outcome State Fault Refusal := .next (s.onDev fun d => (d.dbgOpen Dev.dbgResume).settle)

def execRdata (write : Option DW) (s : State) : Host.Outcome State Fault Refusal :=
  .next (s.onDev fun d =>
    (match write with | some v => d.dbgOpen (·.rdataWrite v) | none => d.dbgHostRead Dev.rdataRead).settle)

def execMdata (write : Option DW) (s : State) : Host.Outcome State Fault Refusal :=
  .next (s.onDev fun d =>
    (match write with | some v => d.dbgOpen (·.mdataWrite v) | none => d.dbgHostRead Dev.mdataRead).settle)

/-- DESIGN CHOICE: log 14. -/
def execExtest (s : State) : Host.Outcome State Fault Refusal := .next (s.onDev fun d => d.tapSelect .extest d.tap.out)
def execIdcode (s : State) : Host.Outcome State Fault Refusal := .next (s.onDev fun d => d.tapSelect .idcode 0x15C8096B)
/-- DESIGN CHOICE: log 14. -/
def execSamplePreload (s : State) : Host.Outcome State Fault Refusal :=
  .next (s.onDev fun d => d.tapSelect .samplePreload d.tap.out)
def execClamp (s : State) : Host.Outcome State Fault Refusal := .next (s.onDev fun d => d.tapSelect .clamp 0)
/-- DESIGN CHOICE: log 14. -/
def execHighz (s : State) : Host.Outcome State Fault Refusal := .next (s.onDev fun d => d.tapSelect .highz 0)
def execBypass (s : State) : Host.Outcome State Fault Refusal := .next (s.onDev fun d => d.tapSelect .bypass 0)

def execDbgAddr (v : BitVec 12) (s : State) : Host.Outcome State Fault Refusal :=
  .next (s.onDev fun d => d.tapDebug (·.tapAddr v))
def execDbgCtrl (v : BitVec 2) (s : State) : Host.Outcome State Fault Refusal :=
  .next (s.onDev fun d => d.tapDebug (·.tapCtrl v))

end Sys2Proof.Machine
end

