-- ==== Sys2Proof/Machine/Crypto.lean ====
section
/-! DEFINITION. SHA-256 as FIPS 180-4 defines it, and pure Ed25519 of RFC 8032: what R1 says the manual means by those
names (R447). -/

namespace Sys2Proof.Machine

/-! SHA-2 (FIPS 180-4). -/

/-- The primes below 410, which are the first eighty. -/
def smallPrimes : List Nat :=
  (List.range 410).filter fun p => decide (2 ≤ p) && (List.range 21).all fun d => decide (d < 2) || decide (p ≤ d) || p % d ≠ 0

/-- The largest number with n bits below the bits of x already found whose k-th power is at most v. -/
def rootBits (k v : Nat) : Nat → Nat → Nat
  | 0, x => x
  | n + 1, x => rootBits k v n (if (x + 2 ^ n) ^ k ≤ v then x + 2 ^ n else x)

/-- The first 64 bits of the fractional part of the k-th root of a prime. -/
def rootFraction (k p : Nat) : BitVec 64 := BitVec.ofNat 64 (rootBits k (p * 2 ^ (64 * k)) 70 0)

/-- Round constants of SHA-512, from cube roots, and initial values, from square roots; those of SHA-256 are their high
halves. -/
def shaK : List (BitVec 64) := smallPrimes.map (rootFraction 3)
def shaInit : List (BitVec 64) := (smallPrimes.take 8).map (rootFraction 2)

/-- The amounts of the two hashes: word size, rotations of Σ0, Σ1, and rotations and shift of σ0, σ1. -/
structure ShaPar (w : Nat) where
  s0 : Nat × Nat × Nat
  s1 : Nat × Nat × Nat
  t0 : Nat × Nat × Nat
  t1 : Nat × Nat × Nat
  k : List (BitVec w)
  h : List (BitVec w)

def sha256Par : ShaPar 32 :=
  ⟨(2, 13, 22), (6, 11, 25), (7, 18, 3), (17, 19, 10), (shaK.take 64).map (·.extractLsb' 32 32), shaInit.map (·.extractLsb' 32 32)⟩
def sha512Par : ShaPar 64 := ⟨(28, 34, 39), (14, 18, 41), (1, 8, 7), (19, 61, 6), shaK, shaInit⟩

def rot3 {w : Nat} (x : BitVec w) (r : Nat × Nat × Nat) : BitVec w :=
  x.rotateRight r.1 ^^^ x.rotateRight r.2.1 ^^^ x.rotateRight r.2.2
def rot2 {w : Nat} (x : BitVec w) (r : Nat × Nat × Nat) : BitVec w :=
  x.rotateRight r.1 ^^^ x.rotateRight r.2.1 ^^^ (x >>> r.2.2)

/-- The message schedule, newest word first, n words longer. -/
def shaSched {w : Nat} (p : ShaPar w) : Nat → List (BitVec w) → List (BitVec w)
  | 0, l => l
  | n + 1, l =>
    let at' (i : Nat) : BitVec w := (l[i]?).getD 0
    shaSched p n ((rot2 (at' 1) p.t1 + at' 6 + rot2 (at' 14) p.t0 + at' 15) :: l)

/-- One round on the eight working words. -/
def shaRound {w : Nat} (p : ShaPar w) (s : List (BitVec w)) (kw : BitVec w × BitVec w) : List (BitVec w) :=
  match s with
  | [a, b, c, d, e, f, g, h] =>
    let t1 := h + rot3 e p.s1 + ((e &&& f) ^^^ (~~~e &&& g)) + kw.1 + kw.2
    let t2 := rot3 a p.s0 + ((a &&& b) ^^^ (a &&& c) ^^^ (b &&& c))
    [t1 + t2, a, b, c, d + t1, e, f, g]
  | _ => s

/-- A big-endian number from bytes. -/
def beNat (l : List (BitVec 8)) : Nat := l.foldl (fun a b => a * 256 + b.toNat) 0

/-- The hash of a block of 16 words. -/
def shaBlock {w : Nat} (p : ShaPar w) (h : List (BitVec w)) (ws : List (BitVec w)) : List (BitVec w) :=
  let sched := (shaSched p (p.k.length - 16) ws.reverse).reverse
  ((p.k.zip sched).foldl (shaRound p) h).zipWith (· + ·) h

/-- The words of a padded message of n blocks. -/
def shaBlocks {w : Nat} (p : ShaPar w) : Nat → List (BitVec 8) → List (BitVec w) → List (BitVec w)
  | 0, _, h => h
  | n + 1, l, h =>
    let b := w / 8
    let ws := (List.range 16).map fun i => BitVec.ofNat w (beNat ((l.drop (b * i)).take b))
    shaBlocks p n (l.drop (16 * b)) (shaBlock p h ws)

/-- The hash of a message, most significant byte first. -/
def sha {w : Nat} (p : ShaPar w) (m : List (BitVec 8)) : List (BitVec 8) :=
  let b := w / 8
  let n := (m.length + 1 + 2 * b + 16 * b - 1) / (16 * b)
  let pad := m ++ (0x80#8 :: List.replicate (16 * b * n - m.length - 1 - 8) 0#8)
    ++ (List.range 8).map (fun i => BitVec.ofNat 8 (8 * m.length / 256 ^ (7 - i)))
  (shaBlocks p n pad p.h).flatMap fun x => (List.range b).map fun i => BitVec.ofNat 8 (x.toNat / 256 ^ (b - 1 - i))

def sha256 (m : List (BitVec 8)) : List (BitVec 8) := sha sha256Par m
def sha512 (m : List (BitVec 8)) : List (BitVec 8) := sha sha512Par m

/-! Ed25519 (RFC 8032, 5.1). -/

def edP : Nat := 2 ^ 255 - 19
def edL : Nat := 2 ^ 252 + 27742317777372353535851937790883648493

/-- b ^ e mod p by squaring over the bits of e, least first. -/
def powMod (p : Nat) : Nat → Nat → Nat → Nat
  | 0, _, _ => 1
  | n + 1, b, e => (if e % 2 = 1 then b else 1) * powMod p n (b * b % p) (e / 2) % p

def edPow (b e : Nat) : Nat := powMod edP 256 b e
def edInv (x : Nat) : Nat := edPow x (edP - 2)
def edD : Nat := (edP - 121665) * edInv 121666 % edP

/-- A point in extended homogeneous coordinates. -/
structure EdPt where
  x : Nat
  y : Nat
  z : Nat
  t : Nat

def EdPt.add (p q : EdPt) : EdPt :=
  let a := (p.y + edP - p.x) * (q.y + edP - q.x) % edP
  let b := (p.y + p.x) * (q.y + q.x) % edP
  let c := 2 * p.t * q.t * edD % edP
  let d := 2 * p.z * q.z % edP
  let e := b + edP - a
  let f := d + edP - c
  let g := d + c
  let h := b + a
  ⟨e * f % edP, g * h % edP, f * g % edP, e * h % edP⟩

/-- n times a point, n below 2^k. -/
def EdPt.mul : Nat → Nat → EdPt → EdPt
  | 0, _, _ => ⟨0, 1, 1, 0⟩
  | k + 1, n, p =>
    let r := EdPt.mul k (n / 2) (p.add p)
    if n % 2 = 1 then p.add r else r

/-- Two points are equal. -/
def EdPt.same (p q : EdPt) : Bool := p.x * q.z % edP = q.x * p.z % edP && p.y * q.z % edP = q.y * p.z % edP

/-- The x coordinate of a point from y and its sign bit. -/
def edX (y sign : Nat) : Option Nat :=
  if edP ≤ y then none
  else
    let x2 := (y * y + edP - 1) * edInv (edD * y % edP * y + 1) % edP
    let x := edPow x2 ((edP + 3) / 8)
    let x := if x * x % edP = x2 then x else x * edPow 2 ((edP - 1) / 4) % edP
    if x * x % edP ≠ x2 then none
    else if x = 0 && sign = 1 then none
    else some (if x % 2 = sign then x else edP - x)

/-- A little-endian number. -/
def leNum (l : List (BitVec 8)) : Nat := beNat l.reverse

/-- A point from its 32 bytes. -/
def edPoint (l : List (BitVec 8)) : Option EdPt :=
  let n := leNum l
  let y := n % 2 ^ 255
  (edX y (n / 2 ^ 255)).map fun x => ⟨x, y, 1, x * y % edP⟩

/-- The base point. -/
def edBase : Option EdPt :=
  let y := 4 * edInv 5 % edP
  (edX y 0).map fun x => ⟨x, y, 1, x * y % edP⟩

/-- A signature verifies under a public key. -/
def edVerify (key msg sig : List (BitVec 8)) : Bool :=
  let s := leNum (sig.drop 32)
  match edPoint key, edPoint (sig.take 32), edBase with
  | some a, some r, some b =>
    let k := leNum (sha512 (sig.take 32 ++ key ++ msg)) % edL
    decide (sig.length = 64) && decide (s < edL) && EdPt.same (EdPt.mul 256 s b) (r.add (EdPt.mul 256 k a))
  | _, _, _ => false

end Sys2Proof.Machine
end

