-- ==== Sys2Proof/Machine/Flash.lean ====
section
/-! DEFINITION. Flash management: mount, reads, jobs, journal, wear and bad blocks (R296 to R322). -/

namespace Sys2Proof.Machine

/-! Volume and geometry (R301, R302, R306, R323). -/

def Dev.mountSt (d : Dev) : Nat := d.get Reg.FLASH.STATUS.MOUNT
def Dev.flashStatus (d : Dev) : Nat := (d.regGet (Reg.FLASH.STATUS.MOUNT.key 0 0)).toNat

/-- The volume is mounted, and may be written (R320). -/
def Dev.flashMounted (d : Dev) : Bool := d.isOn (domFlash 0) && (d.mountSt = 2 || d.mountSt = 3)
def Dev.flashWritable (d : Dev) : Bool := d.isOn (domFlash 0) && d.mountSt = 2

def Dev.lunGroups (d : Dev) : Nat := d.get Reg.FLASH.GEOM0.GROUPS
def Dev.stripes (d : Dev) : Nat := d.get Reg.FLASH.GEOM1.STRIPES
def Dev.regionChunks (d : Dev) : Nat := 15 * d.get Reg.FLASH.GEOM0.PPB * d.cpp

/-- Blocks that each LUN reserves as spares. -/
def Dev.reserve (d : Dev) : Nat := cdiv (d.get Reg.FLASH.GEOM1.BLOCKS) 50

/-- A LUN's spares that are neither bad nor in use, in rising order. DESIGN CHOICE: log 120. -/
def Dev.freeSpares (d : Dev) (lun : Nat) : List Nat :=
  ((List.range d.reserve).map (d.stripes + ·)).filter fun b =>
    !d.flash.bad.contains (lun * 0x4000 + b) && !d.flash.subst.any fun e => e.1 / 0x4000 = lun && e.2 = b

/-- Program/erase counts of a stripe's blocks. -/
def Dev.stripeCounts (d : Dev) (g s : Nat) : List Nat :=
  (List.range 16).map fun p => tabGet 0 d.flash.pe ((16 * g + p) * 0x4000 + d.blockOf (16 * g + p) s)
def Dev.stripePE (d : Dev) (g s : Nat) : Nat := (d.stripeCounts g s).foldl Nat.max 0

/-- Stripes in use: mapped, being written, waiting for their erase, retired, and the system area. -/
def Dev.usedStripes (d : Dev) : List Nat :=
  let f := d.flash
  let m := (f.map.map (·.2)).filter (·.state ≠ 0) ++ (f.pend.map (·.2.1)).filter (·.state ≠ 0)
    ++ (f.jobs.map (·.entry)).filter (·.state ≠ 0)
  (m.map stripeKey ++ f.erasing ++ f.retired).foldl setInsert (List.range 6)

/-- The free stripes of a group. -/
def Dev.freeStripes (d : Dev) (g : Nat) : List Nat :=
  if d.lunGroups ≤ g then []
  else
    let used := d.usedStripes
    (List.range d.stripes).filter fun s => !used.contains (g * 0x4000 + s)

/-- Free stripes of all groups. -/
def Dev.freeCount (d : Dev) : Nat := ((List.range d.lunGroups).map fun g => (d.freeStripes g).length).sum

/-- The free stripe with the lowest highest count (R314). DESIGN CHOICE: log 120. -/
def Dev.bestStripe (d : Dev) (g : Nat) : Option Nat :=
  (d.freeStripes g).foldl (fun a s => match a with
    | some t => if d.stripePE g s < d.stripePE g t then some s else a
    | none => some s) none

/-! Mount (R296, R299 to R302, R306, R307, R320). -/

/-- The reason for which a mount fails on what it finds of the channels. DESIGN CHOICE: log 119. -/
def chansFail (l : List ChanReport) : Option Nat :=
  let bad (f : ChanReport → Bool) : Bool := l.any f
  let same (f : ChanReport → List Nat) : Bool := l.all fun c => (l.head?.map f) = some (f c)
  let luns (c : ChanReport) : Nat := (bitList c.ceMask.toNat 4).length * c.lunsPerTarget.toNat
  if l.length ≠ 8 || bad (fun c => luns c = 0) then some 0x01
  else if bad (fun c => !c.sdrOk) then some 0x07
  else if bad (fun c => !c.pageOk) then some 0x02
  else if bad (fun c => luns c % 2 = 1 || 16 < luns c)
      || bad (fun c => !c.alike) || !same (fun c => [c.ceMask.toNat, c.lunsPerTarget.toNat, c.planes, c.pageBytes, c.ppb, c.blocks, c.tR, c.tProg, c.tBers] ++ c.modes)
    then some 0x03
  else if bad (fun c => (c.planes ≠ 1 && c.planes ≠ 2 && c.planes ≠ 4) || decide (c.pageBytes < 4608) || decide (16383 < c.blocks)
      || decide (2 ^ 20 ≤ 15 * c.ppb * (2 * (c.pageBytes / 4608)))) then some 0x04
  else none

/-- The reason for which a mount fails on the volume. DESIGN CHOICE: log 119. -/
def volFail : VolReport → Option Nat
  | .blank => none
  | .unreadable _ => some 0x06
  | .volume v => if 1 < v.minRead.toNat then some 0x05 else if v.mapOk then none else some 0x06

/-- The FORMAT of the volume header, 0 where there is none. -/
def volFormat : VolReport → Nat
  | .blank => 0
  | .unreadable f => f.toNat
  | .volume v => v.format.toNat

/-- What the channels show. -/
def Dev.chansSeen (d : Dev) (l : List ChanReport) : List ChanReport := l.zipIdx.map fun x => d.chanSeen x.2 x.1

/-- What a mount finds of a channel. -/
def Dev.chanFound (d : Dev) (e : Nat × ChanReport) : Dev :=
  let n := (bitList e.2.ceMask.toNat 4).length * e.2.lunsPerTarget.toNat
  (d.putAt Reg.FCH.STATUS.LUNS e.1 0 n).putAt Reg.FCH.STATUS.CE_MASK e.1 0 e.2.ceMask.toNat

/-- Geometry, timing and LUN states. DESIGN CHOICE: log 121. -/
def Dev.geometry (d : Dev) (c : ChanReport) : Dev :=
  let luns := (bitList c.ceMask.toNat 4).length * c.lunsPerTarget.toNat
  let d := (d.put Reg.FLASH.GEOM0.GROUPS (luns / 2)).put Reg.FLASH.GEOM0.PLANES c.planes
  let d := (d.put Reg.FLASH.GEOM0.CW (c.pageBytes / 4608)).put Reg.FLASH.GEOM0.PPB c.ppb
  let d := (d.put Reg.FLASH.GEOM1.BLOCKS c.blocks).put Reg.FLASH.GEOM1.STRIPES (c.blocks - cdiv c.blocks 50)
  let d := ((d.put Reg.FLASH.TIMING.TPROG c.tProg).put Reg.FLASH.TIMING.TR c.tR).put Reg.FLASH.TIMING.TBERS c.tBers
  d.each (List.range 128) fun d n =>
    if lunSlot n < luns then
      let d := if d.lunBad n then d else d.putAt Reg.FLASH.LUN_STAT.STATE 0 n 1
      d.putAt Reg.FLASH.LUN_STAT.SPARES 0 n (cdiv c.blocks 50)
    else d.putAt Reg.FLASH.LUN_STAT.STATE 0 n 0

/-- STOKER.CEILING and GROUP_CEIL (R279). DESIGN CHOICE: log 104. -/
def Dev.setCeilings (d : Dev) (c : ChanReport) : Dev :=
  if !d.isOn domStoker then d
  else
    let bw := ((List.range 8).map fun i => d.getAt Reg.FCH.STATUS.MTS i 0).sum * 1000000
    let arr := 16 * d.lunGroups * c.planes * 1000000 / (c.tR * 6)
    let v := Nat.min arr (bw / (4608 * 4)) / 1000 * 1000
    let d := (d.put Reg.STOKER.CEILING.VALUE v).put Reg.STOKER.GROUP_CEIL.GROUPS d.lunGroups
    d.put Reg.STOKER.GROUP_CEIL.VALUE (3 * v / (2 * d.lunGroups) / 1000 * 1000)

/-- A map entry as a mount reads it: a newer format is read-only. -/
def mountEntry (m : MapEntry) : MapEntry := if m.state = 1 && decide (1 < m.fmt.toNat) then { m with state := 2 } else m

/-- A LUN whose spares are below a quarter of its reserve (R315). -/
def Dev.spareLow (d : Dev) (n : Nat) : Bool := decide (4 * d.getAt Reg.FLASH.LUN_STAT.SPARES 0 n < d.reserve)

/-- FLASH.LUN_STAT.SPARES of every LUN. -/
def Dev.countSpares (d : Dev) : Dev :=
  d.each (List.range (16 * d.lunGroups)) fun d n => d.putAt Reg.FLASH.LUN_STAT.SPARES 0 n (d.freeSpares n).length

/-- Streams end whose region the stoker may no longer read (R288). -/
def Dev.withdraw (d : Dev) : Dev :=
  d.setStreams (d.streams.map fun s =>
    if !s.desc.cacheFed && (d.region s.desc.region).state ≠ 1 then { s with withdrawn := true } else s)

/-- The tables of a volume (R306, R307, R313, R319). -/
def Flash.take (f : Flash) (v : Volume) : Flash :=
  let all := (v.map ++ v.journal).foldl (fun t e => tabSet t e.1 (mountEntry e.2)) ([] : Tab MapEntry)
  { f with
    map := all.filter fun e => decide (e.1 < 0xFF00) && isMapped e.2
    pe := v.pe.foldl (fun t e => tabSet t e.1 e.2) f.pe
    reads := v.reads.foldl (fun t e => tabSet t e.1 e.2) f.reads
    bad := v.bad.foldl setInsert f.bad
    subst := v.subst.foldl (fun t e => tabSet t e.1 e.2) f.subst
    retired := v.retired.foldl setInsert f.retired
    age := v.ages.foldl (fun t e => tabSet t e.1 e.2) ([] : Tab Nat)
    erasing := match v.torn with | some m => if m.state = 0 then f.erasing else setInsert f.erasing (stripeKey m) | none => f.erasing
    journal := v.journal.length, copyNext := 1 - v.copy.val, bootSeq := v.bootSeq.toNat, bootCopy := v.bootCopy.val }

/-- The volume is taken over. DESIGN CHOICE: log 116, 121. -/
def Dev.takeVolume (d : Dev) (r : VolReport) : Dev :=
  match r with
  | .volume v =>
    let d := (d.modFlash (·.take v)).countSpares.withdraw
    let low := (List.range (16 * d.lunGroups)).any d.spareLow
    let d := d.iff low fun d => d.sweepSet 16
    d.put Reg.FLASH.STATUS.MOUNT (if 1 < v.format.toNat then 3 else 2)
  | _ => ((d.modFlash fun f => { f with map := [], journal := 0 }).withdraw).put Reg.FLASH.STATUS.MOUNT 4

/-- FLASH0 to FLASH3 are ON, and their pads are released. -/
def Dev.flashOn (d : Dev) : Bool := (List.range 4).all d.pairOn

/-- A host command works on flash, other than its mount. -/
def Cmd.onFlash (c : Cmd) : Bool := decide (0x31 ≤ c.typ) && decide (c.typ ≤ 0x36)

/-- No operation on flash is in flight (R322). -/
def Dev.flashQuiet (d : Dev) : Bool :=
  d.flash.jobs.isEmpty && d.flash.busy.isEmpty && !d.cmds.any (fun c => c.onFlash && c.stage = .work)

/-- FCH.CFG as a mount takes it (R324). -/
def Dev.takeCaps (d : Dev) : Dev :=
  d.modFlash fun f =>
    { f with caps := (List.range 8).map fun c => (d.getAt Reg.FCH.CFG.MODE_MAX c 0, d.getAt Reg.FCH.CFG.MTS_MAX c 0) }

/-- The FLASH_MOUNT commands in progress. -/
def Dev.mountCmds (d : Dev) : List Cmd := d.cmds.filter (·.typ = 0x30)

/-- A mount ends with a failure. DESIGN CHOICE: log 119. -/
def Dev.mountFails (d : Dev) (reason : Nat) : Dev :=
  let d := ((d.put Reg.FLASH.STATUS.MOUNT 5).put Reg.FLASH.STATUS.FAIL_REASON reason).raise 0x058 1
  let d := d.mountCmds.foldl (fun d c => d.endCmd c .failed reason d.flashStatus) d
  d.iff (d.aon.stage = .starting) fun d => d.modAon fun a => { a with bootOutcome := 3, bootDetail := reason }

/-- A mount ends. -/
def Dev.mountDone (d : Dev) (r : MountReport) : Dev :=
  if !d.flashOn || d.mountSt ≠ 1 || !d.flashQuiet then d
  else
    let seen := d.chansSeen r.chans
    let d := (tabOf (seen.take 8)).foldl Dev.chanFound d
    let d := d.modFlash fun f => { f with autoMount := false }
    let d :=
      match chansFail seen with
      | some k => d.mountFails k
      | none =>
        let d := match r.chans with | c :: _ => d.geometry c | [] => d
        let d := ((d.modFlash fun f => { f with chans := r.chans }).takeCaps).each (List.range 4) Dev.trainPair
        let d := d.put Reg.FLASH.STATUS.VOL_FMT (volFormat r.vol)
        match volFail r.vol with
        | some k => d.mountFails k
        | none =>
          let d := d.takeVolume r.vol
          let d := match r.chans with | c :: _ => d.setCeilings c | [] => d
          let d := (d.put Reg.FLASH.STATUS.FAIL_REASON 0).raise 0x058 0
          d.mountCmds.foldl (fun d c => d.endCmd c .done 0 d.flashStatus) d
    d.healthRead (if (chansFail seen).isSome then [] else r.health)

/-! Jobs (R313, R314, R317, R318, R322). -/

def Dev.addJob (d : Dev) (j : FlashJob) : Dev := d.modFlash fun f => { f with jobs := f.jobs ++ [j] }

/-- A stripe is erased in the background. DESIGN CHOICE: log 80. -/
def Dev.eraseLater (d : Dev) (m : MapEntry) : Dev :=
  if m.state = 0 then d else d.modFlash fun f => { f with erasing := setInsert f.erasing (stripeKey m) }

/-- A committed change of a region takes the place of one that is not visible yet. -/
def Dev.pendMap (d : Dev) (r : Nat) (m : MapEntry) (ends : Bool) : Dev :=
  let old := d.flash.pend.filter fun e => e.1 = r
  let d := old.foldl (fun d e => d.eraseLater e.2.1) d
  let d := d.modFlash fun f => { f with pend := (f.pend.filter fun e => e.1 ≠ r) ++ [(r, m, ends || old.any (·.2.2))] }
  if d.clockRuns then d else d.flashVisible

/-- The RESULT of a LIB_WRITE; a REGION_ERASE has none. -/
def stripeResult (m : MapEntry) : Nat := if m.state = 0 then 0 else m.group.toNat * 2 ^ 22 + m.stripe.toNat * 2 ^ 8

/-- A journal record completes its program: the change of a job is committed. DESIGN CHOICE: log 123. -/
def Dev.journalCommit (d : Dev) (ref : JobRef) : Dev :=
  match d.flash.jobs.find? (·.job = ref) with
  | none => d
  | some j =>
    let fin (d : Dev) : Dev :=
      d.modFlash fun f => { f with jobs := f.jobs.filter (·.job ≠ ref), journal := f.journal + 1 }
    match ref with
    | .cmd hop tag =>
      (match d.cmd hop.val tag.toNat with
       | none => d
       | some c =>
         if c.stage ≠ .work then d
         else
           let lost := d.flash.jobs.filter fun x => x.region = j.region && x.job ≠ ref && x.job = .reloc (BitVec.ofNat 16 j.region)
           let d := lost.foldl (fun d x => d.dropJob x.job) (fin d)
           let d := d.pendMap j.region j.entry true
           d.endCmd { c with committed := true } .done 0 (stripeResult j.entry))
    | .reloc _ =>
      if j.moved < j.entry.chunks.toNat then d
      else
        let d := fin d
        if d.flash.pend.any (fun e => e.1 = j.region && e.2.2) then d.eraseLater j.entry
        else
          let d := d.pendMap j.region j.entry false
          let d := d.modFlash fun f => { f with due := setErase f.due j.region }
          if j.refresh then (d.countS Reg.FLASH.REFRESH_CNT.COUNT Reg.FLASH.REFRESH_CNT.OVF 0 0).raise 0x058 7
          else (d.countS Reg.FLASH.RELOC_CNT.COUNT Reg.FLASH.RELOC_CNT.OVF 0 0).raise 0x058 6

/-- The next chunk of a relocation or refresh is read through the ladder and written, with its tag, to the new stripe
(R313); a chunk that is lost is lost there too. -/
def Dev.moveChunk (d : Dev) (r : Nat) (x : FlashRead) : Dev :=
  match d.flash.jobs.find? (fun j => j.job = .reloc (BitVec.ofNat 16 r)) with
  | none => d
  | some j =>
    if j.entry.chunks.toNat ≤ j.moved then d
    else
      let b := gotBytes (d.climb r j.moved x)
      let d := (d.ladder r j.moved x).programChunk j.entry j.moved b
      d.modFlash fun f => { f with jobs := f.jobs.map fun y => if y.job = j.job then { y with moved := y.moved + 1 } else y }

/-- The next map copy is rewritten. DESIGN CHOICE: log 124. -/
def Dev.mapRewrite (d : Dev) : Dev :=
  if d.flashWritable && decide (4096 ≤ d.flash.journal) then
    d.modFlash fun f => { f with journal := 0, copyNext := 1 - f.copyNext }
  else d

/-- A region moves to a stripe; a volume that cannot be written, or one without a free stripe, holds the move. -/
def Dev.moveRegion (d : Dev) (r g : Nat) (s : Option Nat) (refresh : Bool) : Dev :=
  if !d.flashWritable then d.raise 0x058 8
  else
    match s with
    | none => d.raise 0x058 8
    | some s =>
      d.addJob ⟨.reloc (BitVec.ofNat 16 r), r, { d.region r with group := BitVec.ofNat 3 g, stripe := BitVec.ofNat 14 s }, refresh, 0⟩

/-- A region can be moved: it is mapped and no work on it is in progress. -/
def Dev.movable (d : Dev) (r : Nat) : Bool :=
  d.flashMounted && isMapped (d.region r) && !d.flash.jobs.any (·.region = r) && !d.flash.pend.any (·.1 = r)

/-- The groups that a region may move to (R310, R313). -/
def Dev.moveGroups (d : Dev) (r : Nat) : List Nat :=
  let g := (d.region r).group.toNat
  if d.groupBad g then (List.range d.lunGroups).filter fun x => x ≠ g && !d.groupBad x else [g]

/-- The stripe of a move as the command names it: free, in a group that fits, and with the lowest highest count of
its group; `some none` where no stripe is free. DESIGN CHOICE: log 120. -/
def Dev.moveTarget (d : Dev) (r g s : Nat) : Option (Option Nat) :=
  if (d.moveGroups r).all (fun x => (d.freeStripes x).isEmpty) then some none
  else if !(d.moveGroups r).contains g || !(d.freeStripes g).contains s then none
  else
    match d.bestStripe g with
    | some b => if d.stripePE g s = d.stripePE g b then some (some s) else none
    | none => none

/-- A block of the region has reached its share of the read limit, or the group holds an unreadable LUN. -/
def Dev.readsDue (d : Dev) (r : Nat) : Bool :=
  let m := d.region r
  d.groupBad m.group.toNat ||
    (List.range 16).any fun p =>
      let lun := 16 * m.group.toNat + p
      decide (d.get Reg.FLASH.RD_LIMIT.LIMIT * 1000 * d.get Reg.FLASH.CFG.RD_FRAC
        ≤ 256 * tabGet 0 d.flash.reads (lun * 0x4000 + d.blockOf lun m.stripe.toNat))

/-- RELOCATE and REFRESH. DESIGN CHOICE: log 123. -/
def Dev.relocate (d : Dev) (r g s : Nat) (refresh : Bool) : Dev :=
  if d.movable r && (if refresh then d.flash.due.contains r else d.readsDue r) then
    match d.moveTarget r g s with
    | some t => d.moveRegion r g t refresh
    | none => d
  else d

/-- The mapped stripes of a group with the lowest count: the region, and that count. -/
def Dev.leastWorn (d : Dev) (g : Nat) : Option (Nat × Nat) :=
  (d.flash.map.filter fun e => isMapped e.2 && e.2.group.toNat = g).foldl (fun a e =>
    let n := (d.stripeCounts g e.2.stripe.toNat).foldl Nat.min 0x4000
    match a with
    | some (_, m) => if n < m then some (e.1, n) else a
    | none => some (e.1, n)) none

/-- The highest count of a block of a group. -/
def Dev.groupMaxPE (d : Dev) (g : Nat) : Nat :=
  ((d.flash.pe.filter fun e => e.1 / 0x4000 / 16 = g).map (·.2)).foldl Nat.max 0

/-- WEAR_LEVEL. -/
def Dev.wearLevel (d : Dev) (g : Nat) : Dev :=
  match d.leastWorn g with
  | some (r, n) => if n + 200 < d.groupMaxPE g && d.movable r && !d.groupBad g then d.moveRegion r g (d.bestStripe g) false else d
  | none => d

/-- The region that a patrol takes first: the one that was patrolled longest ago (R313). DESIGN CHOICE: log 182. -/
def Dev.patrolNext (d : Dev) (r : Nat) : Bool :=
  (d.flash.map.filter fun e => isMapped e.2).all fun e => decide (tabGet 0 d.flash.age e.1 ≤ tabGet 0 d.flash.age r)

/-- Patrol reads a chunk (R313): of the system area; one that the stoker passed on (R283); or the next one of a region,
oldest region first, whose age starts again once its last chunk is read. DESIGN CHOICE: log 182. -/
def Dev.patrolled (d : Dev) (r k : Nat) (x : FlashRead) : Dev :=
  if !d.flashMounted || d.stopping (domFlash 0) then d
  else if isSystem r then (if k < d.regionChunks then d.ladder r k x else d)
  else if !isMapped (d.region r) || (d.region r).chunks.toNat ≤ k then d
  else
    let at_ := tabGet 0 d.flash.patrols r
    let d' := (d.ladder r k x).modFlash fun f => { f with owed := setErase f.owed (lostKey r k) }
    if k = at_ && (at_ ≠ 0 || d.patrolNext r) then
      if k + 1 = (d.region r).chunks.toNat then
        d'.modFlash fun f => { f with age := tabSet f.age r 0, patrols := tabDel f.patrols r }
      else d'.modFlash fun f => { f with patrols := tabSet f.patrols r (k + 1) }
    else if d.flash.owed.contains (lostKey r k) then d'
    else d

/-! LUNs and blocks (R306, R310, R315). -/

/-- A bad block leaves use: the lowest free spare takes its place, or its stripe is retired.
DESIGN CHOICE: log 120. -/
def Dev.replaceBlock (d : Dev) (lun b : Nat) : Dev :=
  let s := d.stripeOf lun b
  let spare := (d.freeSpares lun).filter (· ≠ b)
  let d := d.modFlash fun f => { f with bad := setInsert f.bad (lun * 0x4000 + b) }
  let d :=
    if d.stripes ≤ s then d
    else
      match spare with
      | n :: _ => d.modFlash fun f => { f with subst := tabSet f.subst (lun * 0x4000 + s) n }
      | [] => d.modFlash fun f => { f with retired := setInsert f.retired (lun / 16 * 0x4000 + s) }
  d.putAt Reg.FLASH.LUN_STAT.SPARES 0 lun (d.freeSpares lun).length

/-- A block becomes grown bad. DESIGN CHOICE: log 120. -/
def Dev.growBad (d : Dev) (lun b : Nat) : Dev :=
  if d.flash.bad.contains (lun * 0x4000 + b) then d
  else
    let was := d.spareLow lun
    let d := (d.countS Reg.FLASH.BAD_CNT.COUNT Reg.FLASH.BAD_CNT.OVF 0 0).raise 0x058 4
    let d := (d.bumpP Reg.FLASH.LUN_STAT.GROWN 0 lun 1).replaceBlock lun b
    if d.spareLow lun && !was then (d.raise 0x058 5).sweepSet 16 else d

/-- A block is erased; its stripe is free again once all sixteen of its blocks are. -/
def Dev.blockErased (d : Dev) (lun b : Nat) : Dev :=
  let key := lun / 16 * 0x4000 + d.stripeOf lun b
  let m := tabGet 0 d.flash.erased key
  let m' := withBits m (lun % 16) (lun % 16) 1
  (d.eraseCells lun (d.stripeOf lun b)).modFlash fun f =>
    { f with
      pe := tabMap 0 f.pe (lun * 0x4000 + b) (· + 1), reads := tabDel f.reads (lun * 0x4000 + b)
      erased := if !f.erasing.contains key || m' = 0xFFFF then tabDel f.erased key else tabSet f.erased key m'
      erasing := if m' = 0xFFFF then setErase f.erasing key else f.erasing }

/-- An operation on a LUN completed in time. -/
def Dev.lunAnswers (d : Dev) (lun : Nat) : Dev := d.modFlash fun f => { f with timeouts := tabDel f.timeouts lun }

/-- A FLASH_FORMAT has read the factory defect markers, and may erase (R315). -/
def Dev.formatting (d : Dev) : Bool := d.cmds.any fun c => c.typ = 0x31 && c.stage = .work && c.aux = [1]

/-- What an operation may act on: an erase on a stripe that waits for it, on the system area, or on any block once a
format has read the markers; a program on the stripe of a job, on a substitute, or on the system area; no bad block.
DESIGN CHOICE: log 123. -/
def Dev.opTarget (d : Dev) (lun b : Nat) (erase : Bool) : Bool :=
  let s := d.stripeOf lun b
  let key := lunGroup lun * 0x4000 + s
  let system := lunGroup lun = 0 && decide (s < 6)
  !d.flash.bad.contains (lun * 0x4000 + b)
    && (system || d.formatting
      || (if erase then d.flash.erasing.contains key
          else d.flash.jobs.any (fun j => j.entry.state ≠ 0 && stripeKey j.entry = key) || b ≠ s))

/-- A program or an erase starts on a LUN (R311, R320, R321): one in a group, and none in a group with an unreadable LUN;
none as the pair leaves ON. DESIGN CHOICE: log 118, 178. -/
def Dev.opStart (d : Dev) (lun b : Nat) (erase : Bool) : Dev :=
  let p := domFlash (lunChan lun / 2)
  let g := lunGroup lun
  if (d.flashWritable || d.formatting) && d.lunOn lun && !d.stopping p && !d.stopping (domFlash 0)
      && d.getAt Reg.FLASH.LUN_STAT.STATE 0 lun = 1 && !d.groupBusy g && !d.groupBad g && d.opTarget lun b erase then
    (d.modFlash fun f => { f with busy := tabSet f.busy lun (b, erase) }).putAt Reg.FLASH.LUN_STAT.STATE 0 lun 2
  else d

/-- A LUN is no longer busy; an unreadable one stays so. DESIGN CHOICE: log 118. -/
def Dev.opEnd (d : Dev) (lun : Nat) : Dev :=
  let d := d.modFlash fun f => { f with busy := tabDel f.busy lun }
  if d.getAt Reg.FLASH.LUN_STAT.STATE 0 lun = 2 then d.putAt Reg.FLASH.LUN_STAT.STATE 0 lun 1 else d

/-- An operation exceeds four times its declared time; Reset LUN ends it. -/
def Dev.lunTimeout (d : Dev) (lun : Nat) : Dev :=
  let c := lunChan lun
  if !d.isOn (domFlash (c / 2)) then d
  else
    let d := (d.opEnd lun).modFlash fun f => { f with timeouts := tabMap 0 f.timeouts lun (· + 1) }
    (d.countS Reg.FCH.TIMEOUT_CNT.COUNT Reg.FCH.TIMEOUT_CNT.OVF c 0).raise (0x060 + c) 0

/-- The operations in progress on a channel end, each as one timeout of its LUN (R471). DESIGN CHOICE: log 57. -/
def Dev.chanReset (d : Dev) (c : Nat) : Dev :=
  ((d.flash.busy.map (·.1)).filter (lunChan · = c)).foldl Dev.lunTimeout d

/-- Two timeouts in a row, or 64 reads in a row at step 4, make a LUN unreadable. -/
def Dev.lunUnreadable (d : Dev) (lun : Nat) : Dev :=
  if d.flashMounted && decide (lun < 16 * d.lunGroups) && !d.lunBad lun
      && (decide (2 ≤ tabGet 0 d.flash.timeouts lun) || decide (64 ≤ tabGet 0 d.flash.streak lun)) then
    (d.putAt Reg.FLASH.LUN_STAT.STATE 0 lun 3).raise 0x058 3
  else d

/-! Reads for the host (R308, R318, R371). -/

/-- Bytes as containers. -/
def contsOf : List Byte → List Cont
  | a :: b :: c :: e :: t => (e ++ c ++ b ++ a) :: contsOf t
  | _ => []

/-- A MEMWR of a command is sent, or waits for the link to be active (R371). DESIGN CHOICE: log 107. -/
def Dev.memwr (d : Dev) (c : Cmd) (p : Packet) : Dev :=
  if d.linkActive then d.send p else d.modLink fun l => { l with out := l.out ++ [.write c.hop c.tag p] }

/-- MEMWR packets of at most 256 bytes at ascending addresses. DESIGN CHOICE: log 34, 107. -/
def Dev.memwrs (c : Cmd) : Nat → Dev → Nat → List Cont → Dev
  | 0, d, _, _ => d
  | _, d, _, [] => d
  | k + 1, d, a, cs =>
    Dev.memwrs c k (d.memwr c (mkPacket a (cs.take 64).length 0 0 4 (cs.take 64))) (a + 256) (cs.drop 64)

/-- Where containers go, from an offset of the byte string that the buffers form: addresses and containers. -/
def bufferPieces : List (Nat × Nat) → Nat → List Cont → List (Nat × List Cont)
  | [], _, _ => []
  | (a, n) :: t, off, cs =>
    if cs.isEmpty then []
    else if n ≤ off then bufferPieces t (off - n) cs
    else
      let k := (n - off) / 4
      (a + off, cs.take k) :: bufferPieces t 0 (cs.drop k)

/-- The lowest address of the byte string from an offset on, for a number of bytes. -/
def lowestLeft : List (Nat × Nat) → Nat → Nat → Option Nat
  | [], _, _ => none
  | (a, n) :: t, off, len =>
    if len = 0 then none
    else if n ≤ off then lowestLeft t (off - n) len
    else match lowestLeft t 0 (len - (n - off)) with
      | some b => some (Nat.min (a + off) b)
      | none => some (a + off)

/-- Insert by address. -/
def insertPiece (p : Nat × List Cont) : List (Nat × List Cont) → List (Nat × List Cont)
  | [] => [p]
  | q :: t => if p.1 < q.1 then p :: q :: t else q :: insertPiece p t

/-- The MEMWRs of one command are issued in ascending address order (R371): pieces below every address that is still to
come. -/
def Dev.issuePieces (d : Dev) (c : Cmd) (from_ : Nat) (ps : List (Nat × List Cont)) : Dev × List (Nat × List Cont) :=
  let low := lowestLeft c.descs from_ (c.need - from_)
  let now := ps.filter fun p => match low with | some a => decide (p.1 < a) | none => true
  let wait := ps.filter fun p => match low with | some a => decide (a ≤ p.1) | none => false
  ((now.foldr insertPiece []).foldl (fun d p => Dev.memwrs c p.2.length d p.1 p.2) d, wait)

/-- Containers go to the buffers of a command that delivers all of them at once. -/
def Dev.writeBuffers (d : Dev) (c : Cmd) (off : Nat) (cs : List Cont) : Dev :=
  (d.issuePieces { c with need := 0 } 0 (bufferPieces c.descs off cs)).1

/-- The next chunk of a FLASH_READ is delivered. -/
def Dev.chunkRead (d : Dev) (hop tag : Nat) (x : FlashRead) : Dev :=
  match d.cmd hop tag with
  | none => d
  | some c =>
    if c.typ ≠ 0x34 || c.stage ≠ .work then d
    else
      let r := (c.aux[0]?).getD 0
      let k := (c.aux[1]?).getD 0 + c.moved
      let got := d.climb r k x
      let ps := c.later ++ bufferPieces c.descs (2048 * c.moved) (contsOf (gotBytes got))
      let (d, later) := (d.ladder r k x).issuePieces c (2048 * (c.moved + 1)) ps
      let issued := c.committed || later.length < ps.length
      let c := { c with moved := c.moved + 1, committed := issued, poison := c.poison || got.isNone, later := later }
      let d := d.modCmd hop tag fun _ => c
      if (c.aux[2]?).getD 0 ≤ c.moved then d.endCmd c (if c.poison then .poison else .done) 0 c.moved else d

/-! Volume header and boot copy (R318, R319). -/

/-- The factory defect markers are read: the blocks that they mark are bad from now on (R315). -/
def Dev.markersRead (d : Dev) (hop tag : Nat) (bad : List (Nat × Nat)) : Dev :=
  match d.cmd hop tag with
  | none => d
  | some c =>
    if c.typ ≠ 0x31 || c.stage ≠ .work || c.aux ≠ [] then d
    else
      let d := bad.foldl (fun d x =>
        if d.flash.bad.contains (x.1 * 0x4000 + x.2) then d else d.replaceBlock x.1 x.2) d
      d.modCmd hop tag fun c => { c with aux := [1] }

/-- The volume header of a FLASH_FORMAT is programmed: an empty volume; the current health state is written. -/
def Dev.formatted (d : Dev) (hop tag : Nat) (ok : Bool) : Dev :=
  match d.cmd hop tag with
  | none => d
  | some c =>
    if c.typ ≠ 0x31 || c.stage ≠ .work || c.aux ≠ [1] || !ok then d
    else
      let d := d.modFlash fun f =>
        { f with journal := 0, copyNext := 0, age := [], patrols := [], bootSeq := 0, bootCopy := 0 }
      let d := { d with nand := Nand.reset }
      let d := (d.put Reg.FLASH.STATUS.MOUNT 2).put Reg.FLASH.STATUS.VOL_FMT 1
      let d := (d.put Reg.FLASH.STATUS.FAIL_REASON 0).recordWritten true
      d.endCmd { c with committed := true } .done 0 d.flashStatus

/-- The boot copy that a BOOT_WRITE programs: the image, the INIT block and the patch set of its data (R319). -/
def bootCopyOf (c : Cmd) (seq : Nat) : BootCopy :=
  let n (i : Nat) : Nat := ((c.args[i]?).getD 0#28).toNat
  { magic := 0x544F4F42, version := 1, seq := BitVec.ofNat 28 seq, crcOk := true
    image := c.data.take (n 3)
    table := (contsOf ((c.data.drop (n 3)).take (n 4))).map (·.setWidth 28)
    patch := (c.data.drop (n 3 + n 4)).take (n 5) }

/-- The header page of a boot copy is programmed. -/
def Dev.bootWritten (d : Dev) (hop tag : Nat) (ok : Bool) : Dev :=
  match d.cmd hop tag with
  | none => d
  | some c =>
    if c.typ ≠ 0x36 || c.stage ≠ .work || !ok then d
    else
      let seq := (d.flash.bootSeq + 1) % 2 ^ 28
      let place := 1 - d.flash.bootCopy
      let d := d.modFlash fun f => { f with bootSeq := seq, bootCopy := place }
      let d := { d with nand := { d.nand with boot := tabSet d.nand.boot place (bootCopyOf c seq) } }
      d.endCmd { c with committed := true } .done 0 seq

/-- A program or an erase that was in progress completes. -/
def Dev.opDone (d : Dev) (lun b : Nat) (erase ok : Bool) : Dev :=
  if tabFind d.flash.busy lun ≠ some (b, erase) || !d.lunOn lun then d
  else
    let d := (d.opEnd lun).lunAnswers lun
    if !ok then d.growBad lun b else if erase then d.blockErased lun b else d

/-- What happens at the LUNs. -/
def Dev.flashOp (d : Dev) (w : FlashDone) : Dev :=
  match w with
  | .start lun b erase => d.opStart lun.toNat b.toNat erase
  | .program lun b ok => d.opDone lun.toNat b.toNat false ok
  | .erase lun b ok => d.opDone lun.toNat b.toNat true ok
  | .source r x => d.moveChunk r.toNat x
  | .markers hop tag bad => d.markersRead hop.val tag.toNat (bad.map fun x => (x.1.toNat, x.2.toNat))
  | .bootHeader hop tag ok => d.bootWritten hop.val tag.toNat ok
  | .volumeHeader hop tag ok => d.formatted hop.val tag.toNat ok
  | .chunk hop tag x => d.chunkRead hop.val tag.toNat x

/-! The commands. -/

def execJournalCommit (job : JobRef) (s : State) : Host.Outcome State Fault Refusal :=
  .next (s.onDev fun d => (d.journalCommit job).settle)

def execMapCopyRewrite (s : State) : Host.Outcome State Fault Refusal := .next (s.onDev fun d => d.mapRewrite.settle)

def execLunUnreadable (lun : BitVec 7) (s : State) : Host.Outcome State Fault Refusal :=
  .next (s.onDev fun d => (d.lunUnreadable lun.toNat).settle)

def execFlashTimeout (lun : BitVec 7) (s : State) : Host.Outcome State Fault Refusal :=
  .next (s.onDev fun d => (d.lunTimeout lun.toNat).settle)

def execFlashOpDone (what : FlashDone) (s : State) : Host.Outcome State Fault Refusal :=
  .next (s.onDev fun d => (d.flashOp what).settle)

def execRelocate (region : BitVec 16) (group : BitVec 3) (stripe : BitVec 14) (s : State) :
    Host.Outcome State Fault Refusal :=
  .next (s.onDev fun d => (d.relocate region.toNat group.toNat stripe.toNat false).settle)

def execPatrol (region : BitVec 16) (res : PatrolRead) (s : State) : Host.Outcome State Fault Refusal :=
  .next (s.onDev fun d => (d.patrolled region.toNat res.chunk.toNat res.read).settle)

def execRefresh (region : BitVec 16) (group : BitVec 3) (stripe : BitVec 14) (s : State) :
    Host.Outcome State Fault Refusal :=
  .next (s.onDev fun d => (d.relocate region.toNat group.toNat stripe.toNat true).settle)

def execWearLevel (group : BitVec 3) (s : State) : Host.Outcome State Fault Refusal :=
  .next (s.onDev fun d => (d.wearLevel group.toNat).settle)

end Sys2Proof.Machine
end

