-- ==== Sys2Proof/Machine/Commands.lean ====
section
/-! DEFINITION. Host commands: how they are taken, how they fetch their buffers, and what each does (R51, R191, R316 to
R319, R370 to R376, R446 to R449). -/

namespace Sys2Proof.Machine

/-! Fields of a command. -/

def Cmd.arg (c : Cmd) (i : Nat) : Nat := ((c.args[i]?).getD 0#28).toNat

/-- The commands of R376. -/
def cmdTypes : List Nat := [0x001, 0x002, 0x010, 0x020, 0x021, 0x030, 0x031, 0x032, 0x033, 0x034, 0x035, 0x036, 0x040]

/-- The LENGTH that a TYPE may have. DEDUCED: log 105. -/
def cmdLen (typ len : Nat) : Bool :=
  match typ with
  | 0x001 => len ≤ 1
  | 0x002 => len = 1
  | 0x010 => len = 3
  | 0x020 => len = 5
  | 0x021 => len = 5
  | 0x030 => len = 0
  | 0x031 => len = 1
  | 0x032 => len = 5
  | 0x033 => len = 1
  | 0x034 => len = 6
  | 0x035 => len = 5
  | 0x036 => len = 6
  | 0x040 => len = 3
  | _ => false

/-- Where the LIST of a TYPE begins among its payload words. -/
def listAt (typ : Nat) : Option Nat :=
  match typ with
  | 0x010 => some 0
  | 0x020 => some 2
  | 0x021 => some 2
  | 0x032 => some 2
  | 0x034 => some 3
  | 0x035 => some 2
  | 0x036 => some 0
  | 0x040 => some 0
  | _ => none

/-- The reserved bits of a command's payload words are 0. DEDUCED: log 105. -/
def Cmd.reservedOk (c : Cmd) : Bool :=
  let z (i lo : Nat) : Bool := c.arg i / 2 ^ lo = 0
  let list := match listAt c.typ with | some i => z (i + 1) 12 && z (i + 2) 16 | none => true
  list &&
    (match c.typ with
     | 0x002 => z 0 10
     | 0x020 => z 1 12
     | 0x021 => z 1 12
     | 0x032 => z 1 20
     | 0x033 => z 0 16
     | 0x034 => z 0 16 && z 1 20 && z 2 20
     | 0x035 => z 0 16 && z 1 17
     | _ => true)

/-- A command with the address and COUNT of its LIST. -/
def Cmd.withList (c : Cmd) : Cmd :=
  match listAt c.typ with
  | some i => { c with stage := .list, listAddr := c.arg i + c.arg (i + 1) * 2 ^ 28, count := c.arg (i + 2) }
  | none => c

/-! Device memory as host addresses name it (R361, R376). -/

/-- The W address of a host memory address, none outside the windows that commands reach. -/
def hostW (a : Nat) : Option Nat :=
  let off := a % 2 ^ 32
  match a / 2 ^ 32 with
  | 1 => if off < 0x1000000 then some (0x1000000 + off / 2) else none
  | 2 => if off < 0x4000000 then some (0x2000000 + off / 2) else none
  | 3 => if off < 0x1000000 then some (off / 2) else none
  | 4 => if off < 0x800000 then some (0xD000000 + off / 2) else none
  | _ => none

/-- The W addresses of n containers from a host address, none where they are not a run within one window. -/
def hostRun (a n : Nat) : Option (List Nat) :=
  if n = 0 then some []
  else
    match hostW a, hostW (a + 4 * (n - 1)) with
    | some lo, some hi => if a % 4 = 0 && hi = lo + 2 * (n - 1) then some ((List.range n).map fun i => lo + 2 * i) else none
    | _, _ => none

/-- The domain of a W. -/
def memDom (w : Nat) : Nat := match memBank w with | some (n, _) => n | none => 0

/-- A W lies in an inactive image slot: in the half that RUN_AB does not name (R50, R76, R362). -/
def Dev.inInactive (d : Dev) (w : Nat) : Bool :=
  decide (0xD000000 ≤ w) && decide (w < 0xD400000) && decide ((w - 0xD000000) / 0x8000 % 2 ≠ d.runAB)

/-- A DW is written by the host; false where it is not (R76, R405). The low 28 bits of a container count.
DESIGN CHOICE: log 109, 111. -/
def Dev.hostStore (d : Dev) (w : Nat) (v : Cont) : Bool × Dev :=
  if d.isCold w then (false, d.coldLog .host true true (memDom w) w)
  else if d.inInactive w then
    match d.inactiveWrite with
    | (true, d) => (false, d)
    | (false, d) => (true, d.storeDW w (v.setWidth 28))
  else (true, d.storeDW w (v.setWidth 28))

/-- A DW is read by the host (R363): a cold and a poisoned one read as their marks. -/
def Dev.hostLoad (d : Dev) (w : Nat) : Cont × Dev :=
  if d.isCold w then (BitVec.ofNat 32 (0xF0000000 + memDom w), d.coldLog .host false true (memDom w) w)
  else if d.poisonAt w then (0xE0000000#32, (d.readCode w).askReset w)
  else (contOf (d.dwAt w), d.readCode w)

/-- Read containers one after another. -/
def Dev.hostLoads : List Nat → Dev → List Cont × Dev
  | [], d => ([], d)
  | w :: t, d =>
    let (v, d) := d.hostLoad w
    let (vs, d) := Dev.hostLoads t d
    (v :: vs, d)

/-! Patch sets (R446, R447). -/

/-- The fields of a patch set, where MAGIC, FORMAT, sizes and reserved bits are right: body, PUBKEY, the bytes that are
signed and the SIGNATURE ride along. -/
def patchParse (b : List Byte) : Option (PatchSet × List Byte × List Byte × List Byte × Nat) :=
  let size := leNat ((b.drop 0x40).take 4)
  let body := contsOf ((b.drop 0x40).take size)
  let level := leNat ((b.drop 0xC).take 1)
  let flags := leNat ((b.drop 0xD).take 1)
  let seq := leNat ((b.drop 8).take 4)
  if leNat (b.take 4) = 0x48504B53 && leNat ((b.drop 4).take 2) = 1 && seq < 2 ^ 28 && level ≤ 32 && flags < 2
      && (b.drop 0xE).take 18 = List.replicate 18 0#8 && size % 4 = 0 && 4 ≤ size && size ≤ 0x80000
      && 0x40 + size + 64 ≤ b.length && body.all (fun c => c.toNat < 2 ^ 28) then
    some (⟨seq, level, flags = 1, body.map (·.setWidth 28)⟩, (b.drop 0x20).take 32, b.take (0x40 + size),
      (b.drop (0x40 + size)).take 64, leNat ((b.drop 6).take 2))
  else none

/-- FUSE.KEY_HASH. -/
def Dev.keyHash (d : Dev) : Nat := ((List.range 10).map fun k => d.getAt Reg.FUSE.KEY_HASH.HASH 0 k * 2 ^ (28 * k)).sum

/-- The checks of R447, in their order; 0x06 is for PATCH_LOAD only. -/
def Dev.patchCheck (d : Dev) (b : List Byte) (boot : Bool) : Nat ⊕ PatchSet :=
  match patchParse b with
  | none => .inl 0x01
  | some (p, key, msg, sig, rom) =>
    if rom ≠ d.get Reg.FUSE.ROM_ID.ROM_ID then .inl 0x02
    else if leNat (sha256 key) ≠ d.keyHash then .inl 0x03
    else if !edVerify key msg sig then .inl 0x04
    else if p.level < d.get Reg.FUSE.FLOOR.FLOOR then .inl 0x05
    else if !boot && d.standby = 3 then .inl 0x06
    else .inr p

/-! What a command does once its data or its list is there. -/

def Dev.putCmd (d : Dev) (c : Cmd) : Dev := d.modCmd c.hop c.tag fun _ => c

/-- A command is refused. DESIGN CHOICE: log 108, 112. -/
def Dev.refuse (d : Dev) (c : Cmd) (reason : Nat) : Dev := (d.undoCmd c).endCmd c .refused reason 0

/-- The bytes of the buffers. -/
def Cmd.listBytes (c : Cmd) : Nat := (c.descs.map (·.2)).sum

/-- The device address of a bulk command. -/
def Cmd.bulkAddr (c : Cmd) : Nat := c.arg 0 + c.arg 1 * 2 ^ 28

/-- BULK_READ. DESIGN CHOICE: log 110. -/
def Dev.bulkRead (d : Dev) (c : Cmd) (ws : List Nat) : Dev :=
  let (vs, d) := Dev.hostLoads ws d
  let d := d.writeBuffers c 0 vs
  d.endCmd { c with committed := true } (if vs.contains 0xE0000000#32 then .poison else .done) 0 vs.length

/-- An entry of the region map as containers. -/
def mapConts (m : MapEntry) : List Cont :=
  [BitVec.ofNat 32 (m.state.toNat * 2 ^ 25 + m.group.toNat * 2 ^ 22 + m.stripe.toNat * 2 ^ 8 + m.fmt.toNat),
   BitVec.ofNat 32 m.chunks.toNat]

/-- MAP_READ. -/
def Dev.mapRead (d : Dev) (c : Cmd) : Dev :=
  let n := c.arg 1
  let vs := (List.range n).flatMap fun i => mapConts (d.region (c.arg 0 + i))
  (d.writeBuffers c 0 vs).endCmd { c with committed := true } .done 0 n

/-- PATCH_LOAD: the patch set has arrived, and STANDBY restarts with it where it is accepted. -/
def Dev.patchArrived (d : Dev) (c : Cmd) : Dev :=
  match d.patchCheck c.data false with
  | .inl r => d.refuse c r
  | .inr p =>
    let d := d.putCmd { c with stage := .work, data := [] }
    let d := { d with ctrl := { d.ctrl with patch := some (p, c.hop, c.tag), ready := false } }
    d.wipeCore (64 + d.standby) { Core.reset with ps := 0xC00, run := .running }

/-- The data of a command has arrived in full. DESIGN CHOICE: log 109. -/
def Dev.dataDone (d : Dev) (c : Cmd) : Dev :=
  match c.typ with
  | 0x010 =>
    (d.putCmd { c with stage := .work, data := [] }).modLoader fun l => { l with load := some ⟨some (c.hop, c.tag), c.data⟩ }
  | 0x020 => d.endCmd c .done 0 ((c.aux[0]?).getD 0)
  | 0x040 => d.patchArrived c
  | 0x036 => d.putCmd { c with stage := .work }
  | _ => d.putCmd { c with stage := .work, data := [] }

/-- Whole chunks of a LIB_WRITE are programmed with their tags and their parity; `aux` counts them (R316). -/
def Dev.libChunks (d : Dev) (j : FlashJob) : Nat → Nat → List Byte → Dev × Nat × List Byte
  | 0, n, bs => (d, n, bs)
  | f + 1, n, bs =>
    if bs.length < 2048 then (d, n, bs)
    else Dev.libChunks (d.programChunk j.entry n (tagged j.region n (bs.take 2048))) j f (n + 1) (bs.drop 2048)

/-- Bytes of a LIB_WRITE have arrived. -/
def Dev.takeLibrary (d : Dev) (c : Cmd) : Dev × Cmd :=
  match d.flash.jobs.find? (·.job = c.job) with
  | none => (d, c)
  | some j =>
    let (d, n, rest) := d.libChunks j (c.data.length / 2048) ((c.aux[0]?).getD 0) c.data
    (d, { c with data := rest, aux := [n] })

/-- Bytes of the data string that arrived in order: containers of a BULK_WRITE are written, the bytes of images, boot
copies and patch sets are kept, library data goes to the flash. -/
def Dev.takeBytes (d : Dev) (c : Cmd) (bs : List Byte) : Dev × Cmd :=
  if c.typ = 0x020 then
    let base := (hostW c.bulkAddr).getD 0 + c.moved / 2
    let (d, n, _) := (contsOf bs).foldl (fun (x : Dev × Nat × Nat) v =>
      let (ok, d) := x.1.hostStore x.2.2 v
      (d, x.2.1 + b2n ok, x.2.2 + 2)) (d, (c.aux[0]?).getD 0, base)
    (d, { c with moved := c.moved + bs.length, aux := [n], committed := c.committed || !bs.isEmpty })
  else if c.typ = 0x010 || c.typ = 0x036 || c.typ = 0x040 then
    (d, { c with moved := c.moved + bs.length, data := c.data ++ bs })
  else if c.typ = 0x032 then d.takeLibrary { c with moved := c.moved + bs.length, data := c.data ++ bs }
  else (d, { c with moved := c.moved + bs.length })

/-- The bytes that a command needs, known once its list is read. -/
def Cmd.needOf (c : Cmd) : Nat :=
  match c.typ with
  | 0x010 => Nat.min 64 c.listBytes
  | 0x020 => c.listBytes
  | 0x021 => c.listBytes
  | 0x032 => 2048 * c.arg 1
  | 0x034 => 2048 * c.arg 2
  | 0x035 => 8 * c.arg 1
  | 0x036 => c.arg 3 + c.arg 4 + c.arg 5
  | 0x040 => c.listBytes
  | _ => 0

/-- A descriptor. DESIGN CHOICE: log 108. -/
def parseDesc (b : List Byte) : Option (Nat × Nat) :=
  let a := leNat (b.take 8)
  let n := leNat ((b.drop 8).take 4)
  if a % 4 = 0 && a < 2 ^ 40 && n % 4 = 0 && 4 ≤ n && n ≤ 0x10000000 && leNat ((b.drop 12).take 4) = 0 then some (a, n) else none

/-- A descriptor list, none where an entry is wrong. -/
def parseDescs (n : Nat) (b : List Byte) : Option (List (Nat × Nat)) :=
  (List.range n).foldr (fun i acc => match parseDesc ((b.drop (16 * i)).take 16), acc with
    | some x, some l => some (x :: l)
    | _, _ => none) (some [])

/-- A bulk command reaches its range. DESIGN CHOICE: log 109. -/
def Dev.bulkGo (d : Dev) (c : Cmd) : Dev :=
  match hostRun c.bulkAddr (c.listBytes / 4) with
  | none => d.refuse c 0x82
  | some ws =>
    if c.typ = 0x020 then
      if ws.any d.inRunning then d.refuse c 0x82
      else if ws.isEmpty then d.endCmd c .done 0 0
      else d.putCmd { c with stage := .data, aux := [0] }
    else d.bulkRead c ws

/-- A command's descriptor list has arrived. DESIGN CHOICE: log 108. -/
def Dev.listDone (d : Dev) (c : Cmd) (descs : List (Nat × Nat)) : Dev :=
  let c := { c with descs := descs, data := [], ahead := [], asked := 0, moved := 0 }
  let c := { c with need := c.needOf }
  if c.typ ≠ 0x010 && decide (c.listBytes < c.need) then d.refuse c 0x82
  else if c.typ = 0x020 || c.typ = 0x021 then d.bulkGo c
  else if c.typ = 0x035 then d.mapRead c
  else if c.typ = 0x034 then (if c.arg 2 = 0 then d.endCmd c .done 0 0 else d.putCmd { c with stage := .work })
  else if c.need = 0 then d.dataDone c
  else d.putCmd { c with stage := .data }

/-- The first 64 bytes of an image give its size. -/
def imageNeed (c : Cmd) : Nat :=
  let b := c.data
  let size := leNat ((b.drop 0x10).take 4)
  if leNat (b.take 4) = 0x49464B53 && leNat ((b.drop 6).take 2) = 0x40 && size % 4 = 0 && 64 ≤ size && size ≤ 0x8000000 then
    Nat.min size c.listBytes
  else 64

/-- What a command does once more of its bytes have arrived in order. -/
def Dev.cmdArrived (d : Dev) (c : Cmd) : Dev :=
  match c.stage with
  | .list =>
    if c.data.length < 16 * c.count then d.putCmd c
    else
      match parseDescs c.count c.data with
      | some l => d.listDone c l
      | none => d.refuse c 0x80
  | .data =>
    if c.moved < c.need then d.putCmd c
    else if c.typ = 0x010 && c.need = 64 && decide (64 < imageNeed c) then d.putCmd { c with need := imageNeed c }
    else d.dataDone c
  | .work => d.putCmd c

/-- Bytes in order are taken. -/
def Dev.inOrder (d : Dev) (c : Cmd) (bs : List Byte) : Dev × Cmd :=
  match c.stage with
  | .list => (d, { c with data := c.data ++ bs, moved := c.moved + bs.length })
  | _ => d.takeBytes c bs

/-- Pieces that waited for an earlier one follow it. -/
def Dev.aheadIn : Nat → Dev → Cmd → Dev × Cmd
  | 0, d, c => (d, c)
  | k + 1, d, c =>
    match c.ahead.find? (·.1 = c.moved) with
    | some p =>
      let (d, c) := d.inOrder { c with ahead := c.ahead.filter (·.1 ≠ p.1) } p.2
      Dev.aheadIn k d c
    | none => (d, c)

/-- A piece of a command's list or data has arrived. DESIGN CHOICE: log 111. -/
def Dev.pieceIn (d : Dev) (c : Cmd) (off : Nat) (bs : List Byte) : Dev :=
  if off ≠ c.moved then d.putCmd { c with ahead := c.ahead ++ [(off, bs)] }
  else
    let (d, c) := d.inOrder c bs
    let (d, c) := Dev.aheadIn c.ahead.length d c
    (d.putCmd c).cmdArrived c

/-! Reads from host memory (R370, R371). -/

/-- The address and the length of the next read of a command, at most 256 bytes within a buffer. -/
def nextPiece : List (Nat × Nat) → Nat → Option (Nat × Nat)
  | [], _ => none
  | (a, n) :: t, off => if n ≤ off then nextPiece t (off - n) else some (a + off, Nat.min 256 (n - off))

def Cmd.wants (c : Cmd) : Option (Nat × Nat) :=
  match c.stage with
  | .list => if c.asked < 16 * c.count then some (c.listAddr + c.asked, Nat.min 256 (16 * c.count - c.asked)) else none
  | .data =>
    if c.asked < c.need then (nextPiece c.descs c.asked).map fun p => (p.1, Nat.min p.2 (cdiv (c.need - c.asked) 4 * 4)) else none
  | .work => none

/-- The lowest free tag of the device. -/
def Link.freeTag (l : Link) : Option Nat := (List.range 1024).find? fun t => !l.reads.any (·.tag = t)

/-- Send the next read of the first command that wants one. DESIGN CHOICE: log 107. -/
def Dev.readOnce (d : Dev) : Option Dev :=
  if !d.linkActive || 256 ≤ d.link.reads.length then none
  else
    match d.cmds.find? (fun c => c.wants.isSome), d.link.freeTag with
    | some c, some t =>
      (match c.wants with
       | some (a, n) =>
         let d := d.putCmd { c with asked := c.asked + n }
         let d := d.modLink fun l => { l with reads := l.reads ++ [⟨t, a, n, c.hop, c.tag, c.stage = .list, c.asked, false⟩] }
         some (d.send (mkPacket a (n / 4) t 0 3 []))
       | none => none)
    | _, _ => none

def Dev.readMany : Nat → Dev → Dev
  | 0, d => d
  | k + 1, d => match d.readOnce with | some d' => Dev.readMany k d' | none => d

/-- Reads are sent while the link is active. DESIGN CHOICE: log 107. -/
def Dev.pump (d : Dev) : Dev := Dev.readMany 257 d

/-! Taking commands (R373, R374). -/

/-- The words of the item that a hopper delivers next, where nothing of it was delivered. -/
def Hopper.front (h : Hopper) : Option (List HWord) :=
  match h.next with
  | none => none
  | some w =>
    if w.head then
      some ((h.log.drop h.pos ++ h.rest ++ (match h.ready with | i :: _ => i.unpack | [] => [])).filter (·.item = w.item))
    else none

/-- The ACTIVE control core serves the command hoppers (R403, R425). DEDUCED: log 114. -/
def Dev.takesCommands (d : Dev) : Bool := d.served && d.aon.stage = .ready && d.isOn domHoppers

/-- The completion of an item that is no command, or whose item is poisoned; TYPE 0x4FF for an unknown TYPE.
DEDUCED: log 105. DESIGN CHOICE: log 106. -/
def badItem (hop : Nat) (w : HWord) (typ reason : Nat) : List DW :=
  let known := cmdTypes.contains typ
  [itemHeader w.prio 2 (if known then 0x400 + typ else 0x4FF) (bitsOf w.val.toNat 7 0),
   BitVec.ofNat 28 (3 * 2 ^ 24 + reason * 2 ^ 16 + hop * 2 ^ 11 + typ), 0#28]

/-- The front item of a hopper is popped; the work is done on its command where it is accepted: known, of the TYPE
that the work is for, not poisoned, with a free TAG and its words in order.
DEDUCED: log 105. DESIGN CHOICE: log 106. -/
def Dev.takeCommand (d : Dev) (hop typ : Nat) (work : Dev → Cmd → Dev) : Dev :=
  if !d.takesCommands || (decide (0x30 ≤ typ) && decide (typ ≤ 0x36) && d.stopping (domFlash 0)) then d
  else
    match (d.hop hop).front with
    | some (w :: ws) =>
      let t := bitsOf w.val.toNat 18 8
      let bad := w.tag.bad || ws.any (·.tag.bad)
      if t ≠ typ && cmdTypes.contains t && !bad then d
      else
        let (_, d) := d.hopPopN hop (ws.length + 1)
        let d := (d.hopMark hop false).hopRelease hop false
        let tag := bitsOf w.val.toNat 7 0
        let c : Cmd := ⟨hop, tag, w.prio, t, ws.map (·.val), .work, 0, 0, [], 0, 0, [], [], false, false, 0, [], false, []⟩
        let no (reason : Nat) : Dev := d.pushDone (doneHop hop) (badItem hop w t reason)
        if bad then no 0x80
        else if !cmdTypes.contains t then no 0x87
        else if (d.cmd hop tag).isSome || d.link.out.any (·.writes hop tag) then no 0x81
        else if !cmdLen t ws.length || !c.reservedOk then no 0x80
        else work { d with cmds := d.cmds ++ [c] } c
    | _ => d

/-- A command that reads a LIST begins; an empty one has arrived. DESIGN CHOICE: log 115. -/
def Dev.beginList (d : Dev) (c : Cmd) : Dev :=
  let c := c.withList
  (if c.count = 0 then (d.putCmd c).cmdArrived c else d.putCmd c).pump

/-! The commands of R376. -/

/-- NOP. -/
def Dev.cmdNop (d : Dev) (c : Cmd) : Dev := d.endCmd c .done 0 (c.arg 0)

/-- ABORT. DEDUCED: log 156. -/
def Dev.cmdAbort (d : Dev) (c : Cmd) : Dev :=
  let hop := bitsOf (c.arg 0) 9 8
  let tag := bitsOf (c.arg 0) 7 0
  match d.cmd hop tag with
  | some x =>
    if hop = c.hop && tag = c.tag then d.endCmd c .done 0 0
    else if x.committed then (d.putCmd { x with aborted := true }).endCmd c .done 0 1
    else ((d.undoCmd x).endCmd x .aborted 0 0).endCmd c .done 0 1
  | none => d.endCmd c .done 0 0

/-- IMAGE_LOAD (R77). -/
def Dev.cmdImageLoad (d : Dev) (c : Cmd) : Dev :=
  if d.pend = 1 || d.pend = 3 then d.refuse { c with committed := true } 0x83
  else
    let d := (((d.setPend 1).put Reg.IMAGE.REJECT.SECTION 0xFFF).put Reg.IMAGE.REJECT.SLOT 0xFF).put Reg.IMAGE.REJECT.REASON 0
    (d.modLoader fun l => { l with loaded := none, load := some ⟨some (c.hop, c.tag), []⟩ }).beginList c

/-- FLASH_MOUNT (R299). DESIGN CHOICE: log 113. -/
def Dev.cmdMount (d : Dev) (c : Cmd) : Dev :=
  if !d.isOn (domFlash 0) then d.endCmd c .failed 0x01 0
  else if d.mountSt = 1 then d.refuse c 0x83
  else d.put Reg.FLASH.STATUS.MOUNT 1

/-- FLASH_FORMAT. DESIGN CHOICE: log 113. -/
def Dev.cmdFormat (d : Dev) (c : Cmd) : Dev :=
  if c.arg 0 ≠ d.getAt Reg.FUSE.CHIP_ID.ID 0 0 then d.refuse c 0x01
  else if !d.isOn (domFlash 0) || d.lunGroups = 0 || !(d.mountSt = 2 || d.mountSt = 4 || d.mountSt = 5) then d.refuse c 0x01
  else if d.cmds.any (fun x => x.typ = 0x31 && !(x.hop = c.hop && x.tag = c.tag)) then d.refuse c 0x83
  else
    let gone := d.flash.map.map fun e => (e.1, MapEntry.none, true)
    let d := d.modFlash fun f => { f with pend := gone, jobs := [], due := [], owed := [] }
    let d := if d.clockRuns then d else d.flashVisible
    d.put Reg.FLASH.STATUS.MOUNT 4

/-- The group of a LIB_WRITE: the one that is named, or the one with the lowest load among those with a free stripe. -/
def Dev.libGroup (d : Dev) (g : Nat) : Nat ⊕ Nat :=
  if g ≠ 0xF then (if (d.freeStripes g).isEmpty then .inl 0x05 else if d.groupBad g then .inl 0x06 else .inr g)
  else
    let l := (List.range d.lunGroups).filter fun x => !(d.freeStripes x).isEmpty && !d.groupBad x
    match l.foldl (fun (a : Option Nat) x => match a with
      | some b => if d.groupLoad x < d.groupLoad b then some x else a
      | none => some x) none with
    | some x => .inr x
    | none => .inl 0x05

/-- LIB_WRITE (R316). -/
def Dev.cmdLibWrite (d : Dev) (c : Cmd) : Dev :=
  let fmt := bitsOf (c.arg 0) 27 20
  let r := bitsOf (c.arg 0) 15 0
  let n := c.arg 1
  if !d.flashWritable then d.refuse c 0x01
  else if 0xFF00 ≤ r then d.refuse c 0x02
  else if 1 < fmt then d.refuse c 0x03
  else if n = 0 || d.regionChunks < n then d.refuse c 0x04
  else
    match d.libGroup (bitsOf (c.arg 0) 19 16) with
    | .inl k => d.refuse c k
    | .inr g =>
      match d.bestStripe g with
      | none => d.refuse c 0x05
      | some s =>
        let m : MapEntry := ⟨1, BitVec.ofNat 3 g, BitVec.ofNat 14 s, BitVec.ofNat 8 fmt, BitVec.ofNat 20 n⟩
        (d.addJob ⟨c.job, r, m, false, 0⟩).beginList c

/-- REGION_ERASE (R317). DESIGN CHOICE: log 113. -/
def Dev.cmdErase (d : Dev) (c : Cmd) : Dev :=
  let r := c.arg 0
  if !d.flashWritable || !isMapped (d.region r) then d.refuse c 0x01
  else d.addJob ⟨c.job, r, MapEntry.none, false, 0⟩

/-- FLASH_READ. DESIGN CHOICE: log 112. -/
def Dev.cmdFlashRead (d : Dev) (c : Cmd) : Dev :=
  let m := d.region (c.arg 0)
  if !d.flashMounted || !isMapped m || m.chunks.toNat < c.arg 1 + c.arg 2 then d.refuse c 0x82
  else d.beginList { c with aux := [c.arg 0, c.arg 1, c.arg 2] }

/-- MAP_READ. DESIGN CHOICE: log 112. -/
def Dev.cmdMapRead (d : Dev) (c : Cmd) : Dev :=
  if c.arg 1 = 0 || 65536 < c.arg 0 + c.arg 1 then d.refuse c 0x82 else d.beginList c

/-- BOOT_WRITE (R319). DESIGN CHOICE: log 113. -/
def Dev.cmdBootWrite (d : Dev) (c : Cmd) : Dev :=
  if !d.flashWritable then d.refuse c 0x01
  else if d.cmds.any (fun x => x.typ = 0x36 && !(x.hop = c.hop && x.tag = c.tag)) then d.refuse c 0x83
  else d.beginList c

/-- PATCH_LOAD (R447). -/
def Dev.cmdPatch (d : Dev) (c : Cmd) : Dev :=
  if d.cmds.any (fun x => x.typ = 0x40 && !(x.hop = c.hop && x.tag = c.tag)) then d.refuse { c with committed := true } 0x83
  else d.beginList c

/-! What ends commands later. -/

/-- The value of IMAGE.REJECT. -/
def Dev.rejectValue (d : Dev) : Nat := (d.regGet (Reg.IMAGE.REJECT.REASON.key 0 0)).toNat

/-- The loader has checked the image that was delivered (R51, R63, R77). DEDUCED: log 97. DESIGN CHOICE: log 115. -/
def Dev.imageChecked (d : Dev) : Dev :=
  match d.loader.load with
  | none => d
  | some job =>
    let cmd := match job.cmd with | some (h, t) => d.cmd h t | none => none
    let ready := match job.cmd, cmd with
      | some _, some c => c.stage = .work
      | some _, none => false
      | none, _ => true
    if d.pend ≠ 1 || !ready || !d.anyCtrl then d
    else
      let d := d.modLoader fun l => { l with load := none }
      match d.checkImage job.bytes with
      | .passed i secs =>
        let d := ((d.placeImage i secs).reportFit i).setPend 2
        let d := (d.modLoader fun l => { l with loaded := some i }).raise 0x0A0 0
        (match cmd with | some c => d.endCmd { c with committed := true } .done 0 d.rejectValue | none => d)
      | .failed r =>
        let d := ((d.put Reg.IMAGE.REJECT.REASON r.reason).put Reg.IMAGE.REJECT.SECTION r.section_).put Reg.IMAGE.REJECT.SLOT r.slot
        let d := (d.setPend 4).raise 0x0A0 1
        match cmd with
        | some c => d.endCmd { c with committed := true } .failed r.reason d.rejectValue
        | none => d.modAon fun a => { a with bootLoad := false, bootOutcome := 4, bootDetail := r.reason }

/-- STANDBY, restarted with the patch, is ready: the handover is armed, or takes place where the frame clock is
stopped (R448). -/
def Dev.patchReady (d : Dev) : Dev :=
  if d.ctrl.patch.isNone || d.ctrl.handover || 3 ≤ d.standby then d
  else
    let d := { d with ctrl := { d.ctrl with ready := true, handover := true } }
    if d.clockRuns then d
    else if d.active = 3 then d.takeover else d.handOver

/-! The commands. -/

def execFlashMount (hop : Fin 4) (s : State) : Host.Outcome State Fault Refusal :=
  .next (s.onDev fun d => (d.takeCommand hop 0x30 Dev.cmdMount).settle)

def execFlashFormat (hop : Fin 4) (s : State) : Host.Outcome State Fault Refusal :=
  .next (s.onDev fun d => (d.takeCommand hop 0x31 Dev.cmdFormat).settle)

def execLibWrite (hop : Fin 4) (s : State) : Host.Outcome State Fault Refusal :=
  .next (s.onDev fun d => (d.takeCommand hop 0x32 Dev.cmdLibWrite).settle)

def execRegionErase (hop : Fin 4) (s : State) : Host.Outcome State Fault Refusal :=
  .next (s.onDev fun d => (d.takeCommand hop 0x33 Dev.cmdErase).settle)

def execFlashRead (hop : Fin 4) (s : State) : Host.Outcome State Fault Refusal :=
  .next (s.onDev fun d => (d.takeCommand hop 0x34 Dev.cmdFlashRead).settle)

def execMapRead (hop : Fin 4) (s : State) : Host.Outcome State Fault Refusal :=
  .next (s.onDev fun d => (d.takeCommand hop 0x35 Dev.cmdMapRead).settle)

def execBootWrite (hop : Fin 4) (s : State) : Host.Outcome State Fault Refusal :=
  .next (s.onDev fun d => (d.takeCommand hop 0x36 Dev.cmdBootWrite).settle)

def execImageLoad (hop : Fin 4) (s : State) : Host.Outcome State Fault Refusal :=
  .next (s.onDev fun d => (d.takeCommand hop 0x10 Dev.cmdImageLoad).settle)

def execBulkWrite (hop : Fin 4) (s : State) : Host.Outcome State Fault Refusal :=
  .next (s.onDev fun d => (d.takeCommand hop 0x20 Dev.beginList).settle)

def execBulkRead (hop : Fin 4) (s : State) : Host.Outcome State Fault Refusal :=
  .next (s.onDev fun d => (d.takeCommand hop 0x21 Dev.beginList).settle)

def execNopCommand (hop : Fin 4) (s : State) : Host.Outcome State Fault Refusal :=
  .next (s.onDev fun d => (d.takeCommand hop 0x01 Dev.cmdNop).settle)

def execAbort (hop : Fin 4) (s : State) : Host.Outcome State Fault Refusal :=
  .next (s.onDev fun d => (d.takeCommand hop 0x02 Dev.cmdAbort).settle)

def execPatchLoad (hop : Fin 4) (s : State) : Host.Outcome State Fault Refusal :=
  .next (s.onDev fun d => (d.takeCommand hop 0x40 Dev.cmdPatch).settle)

def execPatchStandbyReady (s : State) : Host.Outcome State Fault Refusal := .next (s.onDev fun d => d.patchReady.settle)

end Sys2Proof.Machine
end

