-- ==== Sys2Proof/Machine/LinkState.lean ====
section
/-! DEFINITION. The state of the host link: training, active, L1 and L2, down (R356, R369, R372, R381, R383). -/

namespace Sys2Proof.Machine

def Dev.linkSt (d : Dev) : Nat := d.get Reg.HOSTLINK.STATUS.STATE
def Dev.setLinkSt (d : Dev) (v : Nat) : Dev := d.put Reg.HOSTLINK.STATUS.STATE v

/-- The highest rate that both dies offer and that RATE_MAX allows. -/
def Dev.linkRate (d : Dev) (hostRates : Nat) : Option Nat :=
  ((bitList hostRates 6).filter (fun r => decide (r ≤ d.get Reg.HOSTLINK.CFG.RATE_MAX))).getLast?

/-- A training ends at a rate, with x16 or with a half of the lanes; it cannot start while the link is not down or
ready, or while its pads are held (R404). Where both halves pass, the manual does not say which one is used. -/
def Dev.train (d : Dev) (hostRates : Nat) (x16 lo hi : Bool) : Dev :=
  if !d.isOn domLink || d.power.held.contains 12 || !(d.linkSt = 1 || d.linkSt = 2 || d.linkSt = 6) || !(x16 || lo || hi) then d
  else
    match d.linkRate hostRates with
    | none => d
    | some r =>
      let d := (d.setLinkSt 2).put Reg.HOSTLINK.STATUS.RATE r
      if x16 then (d.put Reg.HOSTLINK.STATUS.WIDTH 0).put Reg.HOSTLINK.STATUS.HALF 0
      else
        let (h, d) := if lo && hi then d.freeBelow 4 2 else (b2n hi, d)
        ((d.put Reg.HOSTLINK.STATUS.WIDTH 1).put Reg.HOSTLINK.STATUS.HALF h).raise 0x080 2

/-- The link becomes active: CREDIT packets are sent, and an ATTN packet where HRB_N is high. -/
def Dev.linkUp (d : Dev) : Dev :=
  if d.isOn domLink && (d.linkSt = 2 || d.linkSt = 4 || d.linkSt = 5) then
    let d := (d.setLinkSt 3).raise 0x080 0
    let d := if d.isOn domHoppers then d.each hopAll fun d n => (d.sendCredit n).modHop n fun h => { h with creditDue := false } else d
    let d := if d.attn.hrb = some true then d.sendAttn else d
    d.sendOut.pump
  else d

/-- The link goes down: commands with a read outstanding fail, and the CPLs of host reads that wait are discarded. -/
def Dev.linkDown (d : Dev) : Dev :=
  if d.isOn domLink && decide (3 ≤ d.linkSt) && decide (d.linkSt ≤ 5) then
    let d := if d.linkSt = 3 then d.raise 0x080 1 else d
    let d := (d.setLinkSt 6).failReading
    d.modLink fun l =>
      { l with regQ := l.regQ.map fun r => { r with drop := true }, memQ := l.memQ.map fun r => { r with drop := true }
               reads := [], stalled := [] }
  else if d.isOn domLink && d.linkSt = 2 then d.setLinkSt 6
  else d

/-- A host read waits for its completion. -/
def Link.readWaits (l : Link) : Bool := (l.regQ ++ l.memQ).any fun r => !r.drop && (pktType r.pkt = 1 || pktType r.pkt = 3)

/-- The host asks for L1, or for L2. -/
def Dev.linkPower (d : Dev) (l2 : Bool) : Dev :=
  if d.linkActive && d.flag (if l2 then Reg.HOSTLINK.CFG.L2_EN else Reg.HOSTLINK.CFG.L1_EN) && !d.link.readWaits
      && d.link.reads.isEmpty then
    d.setLinkSt (if l2 then 5 else 4)
  else d

/-! The commands. -/

def execLinkTraining (hostRates : BitVec 6) (x16 lo hi : Bool) (s : State) : Host.Outcome State Fault Refusal :=
  .next (s.onDev fun d => (d.train hostRates.toNat x16 lo hi).settle)

def execLinkUp (s : State) : Host.Outcome State Fault Refusal := .next (s.onDev fun d => d.linkUp.settle)

/-- DESIGN CHOICE: log 40. -/
def execLinkPowerRequest (l2 : Bool) (s : State) : Host.Outcome State Fault Refusal :=
  .next (s.onDev fun d => (d.linkPower l2).settle)

end Sys2Proof.Machine
end

