-- ==== Sys2Proof/Machine/Pages.lean ====
section
/-! DEFINITION. Reads and writes of register pages: headers, live registers, mirrors, cold pages (R10 to R24, R459 to
R472, and the register maps of the chapters). -/

namespace Sys2Proof.Machine

/-! Page headers (R459). -/

/-- The number of event bits of a page; the bits above them are reserved. -/
def eventBits (page : Nat) : Nat :=
  if page = 0x001 then 3
  else if page = 0x003 then 4
  else if 0x010 ≤ page && page ≤ 0x01F then 11
  else if 0x020 ≤ page && page ≤ 0x022 then 5
  else if page = 0x030 then 2
  else if 0x040 ≤ page && page ≤ 0x04F then 5
  else if page = 0x050 then 7
  else if page = 0x058 then 10
  else if 0x060 ≤ page && page ≤ 0x067 then 3
  else if 0x070 ≤ page && page ≤ 0x077 then 7
  else if page = 0x078 then 4
  else if page = 0x079 then 5
  else if page = 0x080 then 7
  else if page = 0x081 then 1
  else if page = 0x090 then 4
  else if page = 0x091 then 9
  else if page = 0x0A0 then 7
  else 0

/-- PAGE_ERRCNT. -/
def PageHdr.errcnt (h : PageHdr) : Nat := b2n h.uncOvf * 2 ^ 25 + b2n h.corrOvf * 2 ^ 24 + h.unc * 2 ^ 16 + h.corr

/-- A read of a header register. -/
def Dev.headRead (d : Dev) (page off : Nat) : DW × Dev :=
  let h := d.page page
  if off = 0x000 then (BitVec.ofNat 28 (pageId page), d)
  else if off = 0x004 then (BitVec.ofNat 28 (b2n h.armed * 4 + b2n h.inReset * 2 + b2n h.en), d)
  else if off = 0x008 then
    ((if 0x040 ≤ page && page ≤ 0x04F then BitVec.ofNat 28 (b2n (d.hopClipped (page - 0x040))) else 0), d)
  else if off = 0x00C then (h.event, d)
  else if off = 0x010 then (h.eventEn, d)
  else if off = 0x014 then
    (BitVec.ofNat 28 h.errcnt, d.modPage page fun h => { h with corr := 0, corrOvf := false, unc := 0, uncOvf := false })
  else if off = 0x018 then
    ((if stageable page then BitVec.ofNat 28 (b2n h.armed * 2 ^ 16 + b2n h.atFrame * 2 ^ 12 + h.frame.toNat) else 0), d)
  else (0, d)

/-- A soft reset that begins; with it the link of HOSTLINK goes down, and the operations of a flash channel end (R420,
R471). -/
def Dev.startSrst (d : Dev) (page : Nat) : Dev :=
  if !takesSrst page || (d.page page).inReset then d
  else if page = 0x080 then d.linkDown.softReset page
  else if 0x060 ≤ page && page ≤ 0x067 then (d.chanReset (page - 0x060)).softReset page
  else d.softReset page

/-- A write of PAGE_CTRL: EN, then DISCARD, ARM_STAGE and SRST. DESIGN CHOICE: log 20, 25. -/
def Dev.ctrlWrite (d : Dev) (page : Nat) (v : DW) : Dev :=
  let d := d.changePage page fun h => { h with en := v.getLsbD 0 }
  ((d.iff (v.getLsbD 3) (·.discardStage page)).iff (v.getLsbD 2) (·.arm page)).iff (v.getLsbD 1) (·.startSrst page)

/-- A write of a header register. DESIGN CHOICE: log 20. -/
def Dev.headWrite (d : Dev) (page off : Nat) (v : DW) : Dev :=
  if off = 0x004 then d.ctrlWrite page v
  else if off = 0x00C then d.changePage page fun h => { h with event := h.event &&& ~~~v }
  else if off = 0x010 then d.changePage page fun h => { h with eventEn := v &&& BitVec.ofNat 28 (2 ^ eventBits page - 1) }
  else if off = 0x018 then
    if stageable page then d.modPage page fun h => { h with atFrame := v.getLsbD 12, frame := v.extractLsb' 0 12 } else d
  else d

/-! Live registers that show other state. -/

/-- A 48-bit counter by the offset of its low register on the AON page (R23, R408, R431). DESIGN CHOICE: log 15. -/
def Dev.count48 (d : Dev) (off : Nat) : Option Count48 :=
  if off = 0x020 then some d.aon.frame
  else if off = 0x028 then some d.aon.ticks
  else if off = 0x110 then some d.aon.wakeStamp
  else none

/-- The high part that a requester latched; each control core has its own (R23). DESIGN CHOICE: log 15. -/
def Dev.latchGet (d : Dev) (req : Req) (key : Nat) : DW :=
  match req with
  | .host => tabGet 0#28 d.latchHost key
  | .ctrl k => tabGet 0#28 d.latchCtrl (4 * key + k.val)

/-- DESIGN CHOICE: log 15. -/
def Dev.latchSet (d : Dev) (req : Req) (key : Nat) (v : DW) : Dev :=
  match req with
  | .host => { d with latchHost := tabSet d.latchHost key v }
  | .ctrl k => { d with latchCtrl := tabSet d.latchCtrl (4 * key + k.val) v }

/-- ROUTER.SH_PEND (R240). -/
def Dev.shPend (d : Dev) (k : Nat) : Nat :=
  ((d.router.pendS.filter (fun n => (n - 32) / 16 = k)).map (fun n => 2 ^ ((n - 32) % 16))).sum

/-- ROUTER.TGT_STAT (R233, R234, R240). DESIGN CHOICE: log 23. -/
def Dev.tgtStat (d : Dev) (t : Nat) : Nat :=
  let st := d.stack t
  b2n (d.asleep t) * 2 ^ 27 + b2n (decide (t < 64) && (d.core t).idle) * 2 ^ 26 + st.length * 2 ^ 22
    + st.headD 0xFF * 2 ^ 8

/-- The live registers of a hopper that show its queue (R262). DESIGN CHOICE: log 98. -/
def Dev.hopView (d : Dev) (n off : Nat) : Option Nat :=
  let h := d.hop n
  if off = 0x020 then some (b2n h.discarding * 2 ^ 27 + b2n h.flushArmed * 2 ^ 26 + h.used * 2 ^ 13 + h.fill)
  else if 0x038 ≤ off && off ≤ 0x044 then
    let k := (off - 0x038) / 4
    some (h.charge k * 2 ^ 13 + d.hopAvail n k)
  else if off = 0x048 then some (b2n (h.flushArmed || h.discarding) * 2)
  else none

/-- STOKER (R292). -/
def Dev.stokerView (d : Dev) (off : Nat) : Option Nat :=
  let e := d.get Reg.STOKER.INSPECT_SEL.ENTRY
  if off = 0x020 then some d.activeCount
  else if off = 0x024 then some d.residentCount
  else if off = 0x040 then some d.charged
  else if off = 0x068 then some (b2n d.stoker.pin.isSome)
  else if off = 0x078 then
    let pinned := b2n (tabFind d.stoker.headValid e).isSome * 2 ^ 25
    match d.stream e with
    | some s => some ((if s.stopped then 3 else if s.started then 1 else 2) * 2 ^ 26 + pinned + s.owner * 2 ^ 19 + s.charge)
    | none => some pinned
  else if off = 0x07C then some (match d.stream e with | some s => s.qNeed | none => 0)
  else if 0x080 ≤ off && off ≤ 0x09C then some (d.groupLoad ((off - 0x080) / 4))
  else none

/-- The LUN with the lowest share of its spares left, with that share in per cent (R323). DESIGN CHOICE: log 22. -/
def Dev.spareMin (d : Dev) : Nat :=
  let l := (List.range 128).filter fun n => d.getAt Reg.FLASH.LUN_STAT.STATE 0 n ≠ 0
  let pct (n : Nat) : Nat := Nat.min 0xFF (100 * d.getAt Reg.FLASH.LUN_STAT.SPARES 0 n / Nat.max 1 d.reserve)
  match l.foldl (fun (a : Option (Nat × Nat)) n =>
    match a with
    | some (p, m) => if pct n < p then some (pct n, n) else some (p, m)
    | none => some (pct n, n)) none with
  | some (p, n) => p * 2 ^ 20 + n
  | none => 0

/-- The region map's mapped regions. -/
def Dev.mapped (d : Dev) : List (Nat × MapEntry) := d.flash.map.filter fun e => isMapped e.2

/-- FLASH.WEAR: the highest count of any block, and the mean count of the blocks of mapped stripes.
DESIGN CHOICE: log 22. -/
def Dev.wear (d : Dev) : Nat :=
  let top := (d.flash.pe.map (·.2)).foldl Nat.max 0
  let l := d.mapped.flatMap fun e => d.stripeCounts e.2.group.toNat e.2.stripe.toNat
  Nat.min top 0x3FFF * 2 ^ 14 + Nat.min (l.sum / Nat.max 1 l.length) 0x3FFF

/-- FLASH (R323). DESIGN CHOICE: log 118. -/
def Dev.flashView (d : Dev) (off : Nat) : Option Nat :=
  if off = 0x03C then some d.mapped.length
  else if off = 0x040 then some d.freeCount
  else if off = 0x044 then some d.spareMin
  else if off = 0x048 then some d.wear
  else if off = 0x04C then some (Nat.min 0xFFFF ((d.mapped.map (fun e => tabGet 0 d.flash.age e.1)).foldl Nat.max 0))
  else none

/-- PORT_TABLE (R353). DESIGN CHOICE: log 23. -/
def Dev.ptView (d : Dev) (off : Nat) : Option Nat :=
  if off = 0x02C then
    let p := d.get Reg.PORT_TABLE.PT_SEL.PORT
    some (d.ptEntry p / 16 * 16 + b2n (d.ports.active.contains p) * 8)
  else if off = 0x030 then some d.ports.queue.length
  else none

/-- ATTN (R386). -/
def Dev.attnView (d : Dev) (off : Nat) : Option Nat :=
  if off = 0x024 then
    some (b2n d.attnUrgent * 2 ^ 17 + Nat.min d.attnW 127 * 2 ^ 10 + Nat.min d.attn.hold 255 * 2 ^ 2 + b2n d.attnBypass * 2
      + b2n (d.attn.hrb = some true))
  else if 0x034 ≤ off && off ≤ 0x03C then
    let k := (off - 0x034) / 4
    some (((List.range (if k = 2 then 8 else 28)).map fun i => b2n (d.blkPending (32 + 28 * k + i)) * 2 ^ i).sum)
  else none

/-- The code of a domain in POWER.STATE (R407). -/
def Dev.stateCode (d : Dev) (n : Nat) : Nat :=
  let p := d.power
  let moves := (match p.entry with | some e => e.doms.any (·.1 = n) || e.lower.contains n | none => false)
    || (match p.exit with | some e => e.todo.contains n | none => false)
  if moves then 3 else match d.domSt n with
    | .on => 0
    | .retain => 1
    | .off => 2

/-- A request runs (R393). -/
def Dev.requestRuns (d : Dev) : Bool :=
  d.power.entry.isSome || (match d.power.exit with | some e => e.request | none => false)

/-- Bits from a predicate. -/
def maskOf (n : Nat) (p : Nat → Bool) : Nat := ((List.range n).map fun i => b2n (p i) * 2 ^ i).sum

/-- POWER (R407). DESIGN CHOICE: log 23. -/
def Dev.powerView (d : Dev) (off : Nat) : Option Nat :=
  let sel := d.get Reg.POWER.KEEP_SEL.DOMAIN
  if off = 0x020 then some (b2n d.requestRuns)
  else if 0x030 ≤ off && off ≤ 0x040 then
    let k := (off - 0x030) / 4
    some (((List.range (if k = 4 then 12 else 14)).map fun i => d.stateCode (14 * k + i) * 4 ^ i).sum)
  else if off = 0x064 then some (tabGet 0 d.power.keep sel)
  else if off = 0x068 then
    some (maskOf (keepBits sel) fun b => (bankRange sel b).isSome && !d.warm.contains (bankKey sel b))
  else if off = 0x06C then
    some ((d.regGet (regKey 0x090 0x06C)).toNat % 2 ^ 27 + b2n d.power.bankInit.isSome * 2 ^ 27)
  else if off = 0x070 then some (maskOf 13 d.power.held.contains)
  else if off = 0x074 then some (maskOf 13 d.power.release.contains)
  else none

/-- CLOCKS.ISLANDS (R409, R410, R430): the clocks of the domains that are ON; a lane group's is stopped while nothing
uses it, and comes from outside while MASTER is 0. DESIGN CHOICE: log 16. -/
def Dev.islands (d : Dev) : Nat :=
  let lane (g : Nat) : Bool :=
    d.isOn (domPorts g)
      && (d.getAt Reg.PORTS.GCFG.GFMT g 0 ≠ 0 || (List.range 8).any fun l => d.getAt Reg.PORTS.LANE_CFG.FMT g l ≠ 0)
      && (d.getAt Reg.PORTS.GCFG.MASTER g 0 = 1 || d.getAt Reg.PORTS.GSTAT.GLOCK g 0 = 1)
  b2n (d.isOn (domPorts 0)) * (2 ^ 14 + 2 ^ 5) + maskOf 8 lane * 2 ^ 6 + maskOf 4 (fun p => d.isOn (domFlash p)) * 2
    + b2n (d.isOn domLink)

/-- The role of a control core as CTRL.STATUS shows it (R472). DESIGN CHOICE: log 18. -/
def Dev.roleCode (d : Dev) (k : Nat) : Nat :=
  if d.active = k then 0 else if d.standby = k then 1 else if d.spareCtrl = k then 2 else 3

/-- What a live register shows, where it shows other state than its own. DEDUCED: log 17. DESIGN CHOICE: log 8. -/
def Dev.view (d : Dev) (page off : Nat) : Option Nat :=
  if page = 0x003 && off = 0x024 then
    some (withBits (d.regGet (regKey page off)).toNat 24 24
      (b2n (d.flag Reg.HEALTH.STATUS.SWEEP_DRIVEN && d.get Reg.HEALTH.SWEEP_REASON.REASON = 0)))
  else if 0x020 ≤ page && page ≤ 0x022 && off = 0x020 then
    let k := page - 0x020
    some (0x32 * 16 + b2n (d.runnable (64 + k)) * 4 + d.roleCode k)
  else if page = 0x030 then
    if 0x100 ≤ off && off < 0x180 then some (d.shPend ((off - 0x100) / 4))
    else if 0x20C ≤ off && off ≤ 0x61C && off % 16 = 12 then some (d.tgtStat ((off - 0x20C) / 16))
    else none
  else if 0x040 ≤ page && page ≤ 0x04F then d.hopView (page - 0x040) off
  else if page = 0x050 then d.stokerView off
  else if page = 0x058 then d.flashView off
  else if page = 0x078 then d.ptView off
  else if page = 0x079 && (off = 0x028 || off = 0x02C) then
    some (withBits (d.regGet (regKey page off)).toNat 12 4 (d.uart ((off - 0x028) / 4)).fifo.length)
  else if page = 0x081 then d.attnView off
  else if page = 0x090 then d.powerView off
  else if page = 0x091 && off = 0x028 then some d.islands
  else if page = 0x0A0 && off = 0x034 then some (withBits (d.regGet (regKey page off)).toNat 0 0 (b2n (d.pend = 3)))
  else none

/-! Reads (R10, R20, R23). -/

/-- The mask of the fields of a register whose access code has a property. -/
def RegRow.mask (r : RegRow) (p : AccCode → Bool) : DW :=
  BitVec.ofNat 28 ((r.flds.filter (fun f => p f.acc)).map (fun f => (2 ^ (f.hi + 1 - f.lo) - 1) * 2 ^ f.lo)).sum

/-- A read of a live register. RC fields are cleared; WO fields and reserved bits read 0. The offset of the reference
from its nominal rate is measured, and its value is free. -/
def Dev.liveRead (d : Dev) (req : Req) (page off : Nat) : DW × Dev :=
  if page = 0x0F0 then d.dbgRead off
  else if page = 0x001 && (d.count48 off).isSome then
    match d.count48 off with
    | some c => (c.extractLsb' 0 28, d.latchSet req (regKey page (off + 4)) ((c.extractLsb' 28 20).setWidth 28))
    | none => (0, d)
  else if page = 0x001 && (off = 0x024 || off = 0x02C || off = 0x114) then (d.latchGet req (regKey page off), d)
  else if page = 0x091 && off = 0x024 && d.flag Reg.CLOCKS.STATUS.REF_PRESENT then
    let (v, d) := d.freeBelow 3 0x10000
    (BitVec.ofNat 28 (withBits (d.regGet (regKey page off)).toNat 15 0 v), d)
  else
    match regRow page off with
    | none => (0, d)
    | some r =>
      let raw := d.regGet (regKey page off)
      let v := match d.view page off with | some n => BitVec.ofNat 28 n | none => raw
      let rc := r.mask (fun a => decide (a = .rc))
      (v &&& r.mask (fun a => decide (a ≠ .wo)), if rc = 0 then d else d.regSet (regKey page off) (raw &&& ~~~rc))

/-- A read at any offset of a page that is reached. -/
def Dev.pageRead (d : Dev) (req : Req) (page off : Nat) : DW × Dev :=
  if off < 0x020 then d.headRead page off
  else if off < 0x800 then d.liveRead req page off
  else if 0x820 ≤ off && stageable page then (d.mirrorGet page (off - 0x800), d)
  else (0, d)

/-! Writes (R10 to R14). -/

/-- What a plain register holds after a write: RW fields take the value, W1C bits are cleared.
DESIGN CHOICE: log 8. -/
def RegRow.write (r : RegRow) (old v : DW) : DW :=
  maskPut old (r.mask (fun a => decide (a = .rw))) v &&& ~~~(v &&& r.mask (fun a => decide (a = .w1c)))

/-- A write of HOP.CTRL: DROP acts for a HOST consumer (R251, R255). DESIGN CHOICE: log 25. -/
def Dev.hopCtrl (d : Dev) (n : Nat) (v : DW) : Dev :=
  (d.iff (v.getLsbD 0 && d.hopConsumer n = 0x7E) (·.hopDrop n)).iff
    (v.getLsbD 1 && !((d.hop n).flushArmed || (d.hop n).discarding)) (·.hopFlush n)

/-- The last-wake record is cleared as a whole (R408). DESIGN CHOICE: log 24. -/
def Dev.clearWake (d : Dev) : Dev :=
  let d := { d with regs := tabDelRange d.regs (regKey 0x001 0x100) (regKey 0x001 0x110) }
  d.modAon fun a => { a with wakeStamp := 0 }

/-- A write of a live register. DESIGN CHOICE: log 21. -/
def Dev.liveWrite (d : Dev) (page off : Nat) (v : DW) : Dev :=
  let key := regKey page off
  let d := if page = 0x002 && off ≠ 0x06C then d.modAon fun a => { a with sealStep := false } else d
  if page = 0x0F0 then d.dbgWrite off v
  else if key = 0x001100 then d.iff (v.getLsbD 27) Dev.clearWake
  else if key = 0x00206C then
    let (late, d) := d.freeBelow 5 2
    d.sealWrite v (late = 0)
  else if key = 0x030040 then d.doSetPend v
  else if key = 0x030044 then d.doClrPend v
  else if 0x040 ≤ page && page ≤ 0x04F && off = 0x048 then d.hopCtrl (page - 0x040) v
  else if key = 0x050068 then (d.iff (v.getLsbD 0) Dev.doPin).iff (v.getLsbD 1) Dev.doUnpin
  else if key = 0x050070 then d.doKill v
  else if key = 0x079030 then d.midiTxData 0 v
  else if key = 0x079034 then d.midiTxData 1 v
  else if key = 0x090020 then (d.iff (v.getLsbD 1) Dev.powerAbort).iff (v.getLsbD 0) Dev.powerGo
  else if key = 0x090064 then
    let sel := d.get Reg.POWER.KEEP_SEL.DOMAIN
    d.modPower fun p => { p with keep := tabSet p.keep sel (v.toNat % 2 ^ keepBits sel) }
  else if key = 0x09006C then d.bankInitWrite v
  else if key = 0x090074 then d.padWrite v
  else if key = 0x090100 then d.tickArm v
  else if key = 0x091020 then d.clocksCfg v
  else if key = 0x0A0034 then d.imageCtrl v
  else
    match regRow page off with
    | some r => d.regSet key (r.write (d.regGet key) v)
    | none => d

/-- A write at any offset of a page that is reached. One to the header or the mirror of the FUSE page discards the first
write of the seal sequence too (R451). -/
def Dev.pageWrite (d : Dev) (page off : Nat) (v : DW) : Dev :=
  let d := if page = 0x002 && (off < 0x020 || 0x800 ≤ off) then d.modAon fun a => { a with sealStep := false } else d
  if off < 0x020 then d.headWrite page off v
  else if off < 0x800 then d.liveWrite page off v
  else if 0x820 ≤ off && stageable page then d.mirrorSet page (off - 0x800) v
  else d

/-! Register accesses (R16, R18, R452, R468, R469). -/

/-- A register read: the container that a host sees. A control core sees its low 28 bits. -/
def Dev.busRead (d : Dev) (req : Req) (page off : Nat) : Cont × Dev :=
  match pageInfo page with
  | none => (0, d)
  | some _ =>
    if page = 0x0F0 && d.isSealed then (0xF0000000#32, d)
    else if !d.pageOn page then (BitVec.ofNat 32 (0xF0000000 + coldDom page), d.coldReg req false page off)
    else
      let (v, d) := d.pageRead req page (off / 4 * 4)
      (contOf v, d)

/-- A register write. -/
def Dev.busWrite (d : Dev) (req : Req) (page off : Nat) (v : DW) : Dev :=
  match pageInfo page with
  | none => d
  | some _ =>
    if page = 0x0F0 && d.isSealed then d
    else if !d.pageOn page then d.coldReg req true page off
    else d.pageWrite page (off / 4 * 4) v

/-- A register read as a command: its requester keeps what it returned. DESIGN CHOICE: log 10. -/
def Dev.readReg (d : Dev) (req : Req) (page off : Nat) : Dev :=
  let (v, d) := d.busRead req page off
  match req with
  | .host => { d with busHost := v }
  | .ctrl _ => { d with busCtrl := v.setWidth 28 }

/-! The commands. -/

/-- DESIGN CHOICE: log 27. -/
def execRcRead (req : Req) (page off : BitVec 12) (s : State) : Host.Outcome State Fault Refusal :=
  .next (s.onDev fun d => (d.readReg req page.toNat off.toNat).settle)

/-- DESIGN CHOICE: log 27. -/
def execCounterLowRead (req : Req) (page off : BitVec 12) (s : State) : Host.Outcome State Fault Refusal :=
  .next (s.onDev fun d => (d.readReg req page.toNat off.toNat).settle)

/-- DESIGN CHOICE: log 27. -/
def execRegisterWrite (req : Req) (page off : BitVec 12) (v : DW) (s : State) : Host.Outcome State Fault Refusal :=
  .next (s.onDev fun d => (d.busWrite req page.toNat off.toNat v).settle)

def execDbgData (v : DW) (s : State) : Host.Outcome State Fault Refusal :=
  .next (s.onDev fun d =>
    (d.tapDebug (·.tapData v (fun d o => d.pageRead .host 0x0F0 (o / 4 * 4)) (fun d o v => d.pageWrite 0x0F0 (o / 4 * 4) v))).settle)

end Sys2Proof.Machine
end

