-- ==== Sys2Proof/Machine/HostLink.lean ====
section
/-! DEFINITION. Packets of the host: checks, queues, register, memory and hopper accesses, CPL and NAK, timeouts, the
hold of HRB_N, soft resets and their end (R17, R191, R356 to R372, R378, R383, R405, R420). -/

namespace Sys2Proof.Machine

/-! What the device answers (R363, R366). -/

/-- A refused packet is answered with NAK. DESIGN CHOICE: log 32. -/
def Dev.nak (d : Dev) (p : Packet) (code : Nat) : Dev :=
  let d := d.countS Reg.HOSTLINK.NAK_TX_CNT.COUNT Reg.HOSTLINK.NAK_TX_CNT.OVF 0 0
  let d := (d.put Reg.HOSTLINK.NAK_LAST.TAG (pktTag p)).put Reg.HOSTLINK.NAK_LAST.CODE code
  let d := (d.put Reg.HOSTLINK.NAK_LAST.TYPE (pktType p)).raise 0x080 3
  d.send (mkPacket 0 2 (pktTag p) code 0xB [p.hdr.extractLsb' 0 32, p.hdr.extractLsb' 32 32])

/-- A read is answered with a CPL; one that arrived before the link went down is discarded (R383). DEDUCED: log 29. -/
def Dev.answer (d : Dev) (r : HostReq) (status : Nat) (data : List Cont) : Dev :=
  if r.drop then d.countS Reg.HOSTLINK.DROP_CNT.COUNT Reg.HOSTLINK.DROP_CNT.OVF 0 0
  else d.send (mkPacket (pktAddr r.pkt) data.length (pktTag r.pkt) status 8 data)

/-! The address map (R361, R362, R364). -/

/-- What a run of containers addresses. -/
inductive Span where
  /-- registers of one page, from an offset -/
  | regs (page off : Nat)
  /-- memory, by W address -/
  | mem (ws : List Nat)
  /-- the window of a hopper, from an offset -/
  | hop (n off : Nat)
  deriving DecidableEq, Repr

/-- The offsets of a hopper window that only HOP4 and HOP5 serve. -/
def hopReadsOk (n off len : Nat) : Bool := n = 4 || n = 5 || decide (0x00C ≤ off) || len = 0

/-- A run of n containers from a host address, none where the run leaves its row of the map or has no contents. A run
of none is judged as a run of one. DEDUCED: log 30. -/
def spanOf (a n : Nat) (write : Bool) : Option Span :=
  let n := Nat.max n 1
  let last := a + 4 * n - 1
  if a < 0x1000000 then
    let page := a / 0x1000
    if last / 0x1000 = page && (pageInfo page).isSome then some (.regs page (a % 0x1000)) else none
  else if 0x0500000000 ≤ a && a < 0x0500010000 then
    let h := (a - 0x0500000000) / 0x1000
    let off := a % 0x1000
    if last / 0x1000 ≠ a / 0x1000 then none
    else if write then (if off = 0x024 && n = 1 then some (.hop h off) else none)
    else if hopReadsOk h off n then some (.hop h off)
    else none
  else
    match hostW a, hostW last with
    | some lo, some _ => if last / 2 ^ 32 = a / 2 ^ 32 then some (.mem ((List.range n).map fun i => lo + 2 * i)) else none
    | _, _ => none

/-- The W address of a hopper's port register, as an access to it is logged. DESIGN CHOICE: log 35. -/
def hopLogAddr (n off : Nat) : Nat := 0xF000000 + 0x40 * n + off / 2

/-! Reads (R363, R364). -/

/-- Registers are read in ascending order (R466). DEDUCED: log 29, 30. -/
def Dev.regReads : Nat → Dev → Nat → Nat → List Cont × Dev
  | 0, d, _, _ => ([], d)
  | k + 1, d, page, off =>
    let (v, d) := d.busRead .host page off
    let (vs, d) := Dev.regReads k d page (off + 4)
    (v :: vs, d)

/-- A register of a hopper window beside POP, with the mark of a word of a poisoned item. -/
def Dev.hopWindow (d : Dev) (n off : Nat) : Cont × Bool × Dev :=
  if off = 0x004 then
    let d' := d.hopPeek n
    (contOf (d.hopNext n), (match (d.hop n).next with | some w => (d'.hop n).poisoned.contains w.item | none => false), d')
  else if off = 0x008 then (contOf (d.hop n).item, false, d)
  else if off = 0x00C then (BitVec.ofNat 32 (d.hop n).fill, false, d)
  else if off = 0x014 then
    (BitVec.ofNat 32 (match d.hopAcct n 65 with | some k => d.hopAvail n k | none => 0), false, d)
  else if off = 0x028 then
    (BitVec.ofNat 32 (16 * d.getAt Reg.HOP.DROP_RES.ABORT_LATE n 0 + d.getAt Reg.HOP.DROP_RES.STATUS n 0), false, d)
  else (0, false, d)

def Dev.hopReads : Nat → Dev → Nat → Nat → List Cont × Bool × Dev
  | 0, d, _, _ => ([], false, d)
  | k + 1, d, n, off =>
    let (v, bad, d) := d.hopWindow n off
    let (vs, bads, d) := Dev.hopReads k d n (off + 4)
    (v :: vs, bad || bads, d)

/-- The words of the item that is due, from the next undelivered one. -/
def Hopper.openWords (h : Hopper) : Nat := match h.next with | some w => w.left + 1 | none => 0

/-- A read at POP pops one item, or as much of it as was asked for. -/
def Dev.hostPop (d : Dev) (n len : Nat) : List Cont × Bool × Dev :=
  match (d.hop n).next with
  | none => ([0], false, d)
  | some w =>
    let (vs, d) := d.hopPopN n (Nat.min len (d.hop n).openWords)
    (vs.map contOf, (d.hop n).poisoned.contains w.item, d)

/-- A host read: status and data. RANGE comes before FORMAT, and POISON before COLD. DEDUCED: log 29. -/
def Dev.readSpan (d : Dev) (addr len : Nat) : Nat × List Cont × Dev :=
  match spanOf addr len false with
  | none => (3, [], d)
  | some sp =>
    if addr % 4 ≠ 0 || len = 0 || 64 < len then (4, [], d)
    else
      match sp with
      | .regs page off =>
        let (vs, d) := Dev.regReads len d page off
        (0, vs, d)
      | .mem ws =>
        let cold := ws.any d.isCold
        let (vs, d) := Dev.hostLoads ws d
        (if vs.contains 0xE0000000#32 then 2 else b2n cold, vs, d)
      | .hop n off =>
        if !d.isOn domHoppers then
          (1, List.replicate len 0xF0000042#32, d.coldLog .host false true domHoppers (hopLogAddr n off))
        else
          let (vs, bad, d) := if off = 0 then d.hostPop n len else Dev.hopReads len d n off
          (if bad then 2 else 0, vs, d)

/-! Writes (R362, R364, R366). -/

/-- Registers are written in ascending order. DEDUCED: log 30. DESIGN CHOICE: log 34, 35. -/
def Dev.regWrites : List Cont → Dev → Nat → Nat → Dev
  | [], d, _, _ => d
  | v :: t, d, page, off => Dev.regWrites t (d.busWrite .host page off (v.setWidth 28)) page (off + 4)

/-- A write takes effect, or is refused without any. DESIGN CHOICE: log 34, 35. -/
def Dev.writeSpan (d : Dev) (p : Packet) : Dev :=
  match spanOf (pktAddr p) p.payload.length true with
  | none => d.nak p 4
  | some (.regs page off) =>
    let cold := !d.pageOn page
    let d := Dev.regWrites p.payload d page off
    if cold && !p.payload.isEmpty then d.nak p 6 else d
  | some (.hop n off) =>
    if !d.isOn domHoppers then (d.coldLog .host true true domHoppers (hopLogAddr n off)).nak p 6
    else if p.payload.isEmpty then d
    else d.hopCtrl n 1
  | some (.mem ws) =>
    if p.payload.isEmpty then d
    else if ws.any d.inRunning then d.nak p 4
    else
      match ws.find? d.isCold with
      | some w => (d.coldLog .host true true (memDom w) w).nak p 6
      | none => (ws.zip p.payload).foldl (fun d x => (d.hostStore x.1 x.2).2) d

/-- A PUSH (R245, R364, R366). -/
def Dev.pushSpan (d : Dev) (p : Packet) : Dev :=
  let n := pktAddr p
  if 16 ≤ n then d.nak p 4
  else if !d.isOn domHoppers then (d.coldLog .host true true domHoppers (hopLogAddr n 0x010)).nak p 6
  else d.hopPushAll n 65 (p.payload.map fun v => v.setWidth 28)

/-! The two queues (R367). -/

/-- A port of a bank is taken: the slot that a BANKS record names for it is in a phase of the record, before WAIT
(R57, R58). DESIGN CHOICE: log 41. -/
def Dev.portTaken (d : Dev) (phases slot acc : Nat) : Bool :=
  acc ≠ 0 && decide (slot < 64) && (d.core slot).run ≠ .waiting && (d.core slot).run ≠ .dormant
    && bitOf phases (d.core slot).phase

/-- Both ports of the bank that holds a W are taken. DESIGN CHOICE: log 41. -/
def Dev.bankTaken (d : Dev) (w : Nat) : Bool :=
  match d.loader.run with
  | some i => i.banks.any fun r => r.covers w && d.portTaken r.phases r.slot0 r.acc0 && d.portTaken r.phases r.slot1 r.acc1
  | none => false

/-- An access waits: to a page in soft reset, beside its PAGE_CTRL, for STANDBY to take ACTIVE, for a free port of a
bank (R58), and while its memory's domain leaves ON (R394). DEDUCED: log 38. DESIGN CHOICE: log 41, 178. -/
def Dev.reqWaits (d : Dev) (p : Packet) : Bool :=
  match spanOf (pktAddr p) (if pktType p = 1 || pktType p = 3 then pktLen p else p.payload.length) (pktType p = 2 || pktType p = 4) with
  | some (.regs page off) =>
    pktType p ≠ 5 &&
      (((d.page page).inReset && !(off = 4 && (if pktType p = 1 || pktType p = 3 then pktLen p else p.payload.length) ≤ 1))
        || (page = 0x0A0 && d.takeoverDue))
  | some (.mem ws) =>
    pktType p ≠ 5 && ws.any fun w => d.bankTaken w || (36 ≤ memDom w && memDom w ≤ 51 && d.stopping (memDom w))
  | _ => false

/-- A request takes effect. -/
def Dev.takeReq (d : Dev) (r : HostReq) : Dev :=
  let p := r.pkt
  if pktType p = 1 || pktType p = 3 then
    let (st, vs, d) := d.readSpan (pktAddr p) (pktLen p)
    d.answer r st vs
  else if pktType p = 5 then d.pushSpan p
  else d.writeSpan p

/-- The front request of a queue may take effect: every earlier posted one of the other queue has.
DESIGN CHOICE: log 37. -/
def Dev.reqReady (d : Dev) (other : List HostReq) (r : HostReq) : Bool :=
  !d.reqWaits r.pkt && !other.any fun o => o.posted && decide (o.seq < r.seq)

/-- Take the ready request that arrived first. DESIGN CHOICE: log 41. -/
def Dev.reqOnce (d : Dev) : Option Dev :=
  let l := d.link
  let fr := l.regQ.head?.filter (d.reqReady l.memQ)
  let fm := l.memQ.head?.filter (d.reqReady l.regQ)
  let reg (r : HostReq) : Dev := (d.modLink fun l => { l with regQ := l.regQ.tail }).takeReq r
  let mem (r : HostReq) : Dev := (d.modLink fun l => { l with memQ := l.memQ.tail }).takeReq r
  match fr, fm with
  | some a, some b => if a.seq < b.seq then some (reg a) else some (mem b)
  | some a, none => some (reg a)
  | none, some b => some (mem b)
  | none, none => none

def Dev.reqMany : Nat → Dev → Dev
  | 0, d => d
  | k + 1, d => match d.reqOnce with | some d' => Dev.reqMany k d' | none => d

/-- Every request that can takes effect. DESIGN CHOICE: log 41. -/
def Dev.serveHost (d : Dev) : Dev := Dev.reqMany (d.link.regQ.length + d.link.memQ.length) d

/-- The register pages as a control core reaches them, and the host's accesses that waited for a bank port. -/
def PageOps.real : PageOps :=
  ⟨fun d c p o => let (v, d) := d.busRead (.ctrl (Fin.ofNat 3 (c - 64))) p o; (v.setWidth 28, d),
   fun d c p o v => d.busWrite (.ctrl (Fin.ofNat 3 (c - 64))) p o v, Dev.serveHost⟩

/-! Packets received (R359, R360, R366, R368, R372). -/

/-- The host's TAG is outstanding. -/
def Dev.tagBusy (d : Dev) (tag : Nat) : Bool :=
  (d.link.regQ ++ d.link.memQ).any fun r => !r.drop && !r.posted && pktTag r.pkt = tag

/-- A request goes into its queue. DEDUCED: log 31. -/
def Dev.enqueue (d : Dev) (p : Packet) : Dev :=
  let d := d.modLink fun l =>
    let r : HostReq := ⟨l.seq, p, false⟩
    if pktType p ≤ 2 then { l with regQ := l.regQ ++ [r], seq := l.seq + 1 } else { l with memQ := l.memQ ++ [r], seq := l.seq + 1 }
  d.serveHost

/-- A NAK of the host: a kept packet it names is sent again, a CREDIT or ATTN with current values.
DESIGN CHOICE: log 32, 33. -/
def Dev.nakIn (d : Dev) (p : Packet) (late : Bool) : Dev :=
  let d := (d.countS Reg.HOSTLINK.NAK_RX_CNT.COUNT Reg.HOSTLINK.NAK_RX_CNT.OVF 0 0).raise 0x080 4
  let h : BitVec 64 := ((p.payload[1]?).getD 0#32) ++ ((p.payload[0]?).getD 0#32)
  match (d.link.sent.reverse.find? fun s => s.pkt.hdr = h) with
  | some s =>
    if late then d
    else if pktType s.pkt = 9 then d.sendCredit (pktAddr s.pkt)
    else if pktType s.pkt = 0xA then d.sendAttn
    else if pktType s.pkt = 0xB then d
    else d.send s.pkt
  | none => d

/-- A CPL of the host answers a read of the device. DESIGN CHOICE: log 36, 186. -/
def Dev.cplIn (d : Dev) (p : Packet) : Dev :=
  match d.link.reads.find? (·.tag = pktTag p) with
  | none => d.nak p 3
  | some r =>
    let d := d.modLink fun l => { l with reads := l.reads.filter (·.tag ≠ r.tag) }
    match (if r.closed then none else d.cmd r.hop r.cmdTag) with
    | none => d.pump
    | some c =>
      (if pktCode p ≠ 0 || p.payload.length ≠ r.len / 4 then d.failCmd 0x85 c
       else d.pieceIn c r.off (p.payload.flatMap fun w => leBytes 4 w.toNat)).pump

/-- What a packet that got through does: end-to-end check, form, containers, TAG, then its effect. -/
def Dev.recvPacket (d : Dev) (p : Packet) (late : Bool) : Dev :=
  let t := pktType p
  let read := t = 1 || t = 3
  let write := t = 2 || t = 4
  let n := p.payload.length
  if p.crc ≠ crc16 p.hdr p.payload then
    (d.countS Reg.HOSTLINK.E2E_CNT.COUNT Reg.HOSTLINK.E2E_CNT.OVF 0 0).nak p 1
  else if !([1, 2, 3, 4, 5, 8, 0xB].contains t) || (if read then n ≠ 0 else n ≠ pktLen p || 64 < n) || (t = 0xB && n ≠ 2)
      || (write && pktAddr p % 4 ≠ 0) then
    d.nak p 3
  else if t = 0xB then d.nakIn p late
  else if t = 8 then d.cplIn p
  else if !read && p.payload.any (fun v => v.extractLsb' 28 4 ≠ 0#4) then d.nak p 2
  else if read && d.tagBusy (pktTag p) then d.nak p 5
  else d.enqueue p

/-- A packet arrives over the active link, after the retries of the Adapter (R368, R384); a request waits outside while
HOSTLINK leaves ON (R394). DEDUCED: log 31. DESIGN CHOICE: log 32, 39, 178. -/
def Dev.recv (d : Dev) (p : Packet) (late : Bool) : Dev :=
  let t := pktType p
  let d' := d.countSN Reg.HOSTLINK.RETRY_CNT.COUNT Reg.HOSTLINK.RETRY_CNT.OVF 0 0 p.retries
  if !d.linkActive || t = 0 then d
  else if d.stopping domLink && 1 ≤ t && t ≤ 5 then d'.modLink fun l => { l with stalled := l.stalled ++ [p] }
  else d'.recvPacket p late

/-- Requests that stage 1 of an entry held off are accepted, once the entry is abandoned (R394, R396). -/
def Dev.takeStalled (d : Dev) : Dev :=
  if d.stopping domLink || d.link.stalled.isEmpty then d
  else d.link.stalled.foldl (fun d p => d.recvPacket p false) (d.modLink fun l => { l with stalled := [] })

/-- No CPL has arrived in time for a read of the device; its tag stays outstanding (R368). DESIGN CHOICE: log 186. -/
def Dev.cplTimeout (d : Dev) (tag : Nat) : Dev :=
  match d.link.reads.find? (fun r => r.tag = tag && !r.closed) with
  | none => d
  | some r =>
    let d := d.modLink fun l => { l with reads := l.reads.map fun x => if x.tag = tag then { x with closed := true } else x }
    let d := (d.countS Reg.HOSTLINK.TMO_CNT.COUNT Reg.HOSTLINK.TMO_CNT.OVF 0 0).raise 0x080 5
    (match d.cmd r.hop r.cmdTag with | some c => d.failCmd 0x86 c | none => d).pump

/-- The hold count reaches ATTN.CFG.HOLD (R378). -/
def Dev.holdEnds (d : Dev) : Dev :=
  if d.isOn domLink && d.attnW ≠ 0 then
    { d with attn := { d.attn with hold := Nat.max d.attn.hold (d.get Reg.ATTN.CFG.HOLD) } }
  else d

/-- The link went down: host reads that can take effect do so, and their CPLs are discarded (R383).
DESIGN CHOICE: log 37, 186. -/
def Dev.linkFails (d : Dev) : Dev := d.linkDown.serveHost

/-! Soft resets (R420). -/

/-- A write of SRST. DESIGN CHOICE: log 39, 40. -/
def Dev.srst (d : Dev) (page : Nat) : Dev :=
  match pageInfo page with
  | none => d
  | some _ => if d.pageOn page then d.startSrst page else d.coldReg .host true page 4

/-- A soft reset ends, and accesses that waited are served; the sideband of the host link is ready again (R356).
DESIGN CHOICE: log 40. -/
def Dev.srstDone (d : Dev) (page : Nat) : Dev :=
  if (d.page page).inReset then
    let d := d.modPage page fun h => { h with inReset := false }
    let d := if page = 0x080 then d.setLinkSt 1 else d
    d.serveHost
  else d

/-! The commands. -/

def execRegrd (p : Packet) (s : State) : Host.Outcome State Fault Refusal := .next (s.onDev fun d => (d.recv p false).settle)
def execRegwr (p : Packet) (s : State) : Host.Outcome State Fault Refusal := .next (s.onDev fun d => (d.recv p false).settle)
def execMemrd (p : Packet) (s : State) : Host.Outcome State Fault Refusal := .next (s.onDev fun d => (d.recv p false).settle)
def execMemwr (p : Packet) (s : State) : Host.Outcome State Fault Refusal := .next (s.onDev fun d => (d.recv p false).settle)
def execPushPacket (p : Packet) (s : State) : Host.Outcome State Fault Refusal := .next (s.onDev fun d => (d.recv p false).settle)
def execCpl (p : Packet) (s : State) : Host.Outcome State Fault Refusal := .next (s.onDev fun d => (d.recv p false).settle)
/-- DESIGN CHOICE: log 33. -/
def execNak (p : Packet) (late : Bool) (s : State) : Host.Outcome State Fault Refusal :=
  .next (s.onDev fun d => (d.recv p late).settle)

def execCplTimeout (tag : BitVec 10) (s : State) : Host.Outcome State Fault Refusal :=
  .next (s.onDev fun d => (d.cplTimeout tag.toNat).settle)

def execLinkDown (s : State) : Host.Outcome State Fault Refusal := .next (s.onDev fun d => d.linkFails.settle)

/-- DESIGN CHOICE: log 3. -/
def execAttnHoldExpiry (s : State) : Host.Outcome State Fault Refusal := .next (s.onDev fun d => d.holdEnds.settle)

/-- DESIGN CHOICE: log 40. -/
def execSrst (page : BitVec 12) (s : State) : Host.Outcome State Fault Refusal :=
  .next (s.onDev fun d => (d.srst page.toNat).settle)

def execSrstDone (page : BitVec 12) (s : State) : Host.Outcome State Fault Refusal :=
  .next (s.onDev fun d => (d.srstDone page.toNat).settle)

def execStep (s : State) : Host.Outcome State Fault Refusal :=
  .next (s.onDev fun d => (d.dbgOpen Dev.dbgStep).serveHost.settle)

/-- Bank ports may become free as a barrier completes, and at the boundary (R58). -/
def execBarrierComplete (b : BitVec 3) (s : State) : Host.Outcome State Fault Refusal :=
  .next (s.onDev fun d => (d.barrierDone b.toNat).serveHost.settle)

def execFrameBoundary (s : State) : Host.Outcome State Fault Refusal :=
  .next (s.onDev fun d => (d.iff d.clockRuns Dev.boundary).serveHost.settle)

/-- A stage of an entry ends; where the entry does, what it held off is accepted. DESIGN CHOICE: log 3. -/
def execEntryStageEnd (s : State) : Host.Outcome State Fault Refusal :=
  .next (s.onDev fun d => d.entryStageEnd.takeStalled.serveHost.settle)

def execDrainTimeout (s : State) : Host.Outcome State Fault Refusal :=
  .next (s.onDev fun d => d.drainTimeout.takeStalled.serveHost.settle)

/-- STANDBY takes ACTIVE; host accesses that waited for it are served (R191). -/
def execCtrlTakeover (s : State) : Host.Outcome State Fault Refusal := .next (s.onDev fun d => d.takeover.serveHost.settle)

end Sys2Proof.Machine
end

