-- ==== Sys2Proof/Machine/Mismatch.lean ====
section
/-! DEFINITION. A failed compare: the discard of a bundle and of every younger one, and its re-issue (R163, R164, R173 to
R176, R179, R190, R238). -/

namespace Sys2Proof.Machine

/-- The core as it was before a bundle that is discarded, `back` steps before its re-issue: what only a release writes,
and what other agents own, stays as it is now; the added steps are penalty steps (R163). -/
def Core.restored (now before : Core) (first cost : Nat) : Core :=
  let gone := first + cost + 8 - before.steps
  { before with
    steps := before.steps + gone
    pen := before.pen + gone
    phaseSteps := before.phaseSteps + gone
    retry := true, loadBits := []
    halted := now.halted, parked := now.parked, timer := now.timer, timerFired := now.timerFired, doors := now.doors
    clrs := now.clrs, written := now.written, overwrote := now.overwrote, report := now.report, reports := now.reports
    fetchPoison := now.fetchPoison, bad := now.bad, weak := now.weak }

/-- The arrival at a barrier that is not complete is an output that was not released. -/
def Dev.undoArrival (d : Dev) (core : Nat) (h : Held) : Dev :=
  (h.prim.flatMap (·.acts)).foldl (fun d a =>
    match a with
    | .barrier b =>
      if d.loader.complete.contains b.toNat then d
      else d.modLoader fun l => { l with arrived := tabMap [] l.arrived b.toNat (setErase · core) }
    | _ => d) d

/-- A slot that gave its core away as it stopped takes it again. -/
def Dev.takeBack (d : Dev) (core : Nat) : Dev :=
  if (d.core core).parked then
    (match d.mate core with | some m => d.giveCore core m | none => d)
  else d

/-- A bundle and everything younger is discarded, and the bundle issues again (R163); a halted core issues it again by
itself. -/
def Dev.reissue (d : Dev) (core : Nat) (l : List Held) (h : Held) : Dev :=
  let d := l.foldl (fun d x => d.undoArrival core x) (d.dropHeld core)
  let d := (d.modCore core fun c => c.restored h.before h.first h.cost).takeBack core
  let d := d.budget core
  if (d.core core).halted && core < 64 && d.hasProgram core then d.stepBundle core else d

/-- The compare of held bundle number `nth` of a core, with the bits of a mask inverted in word `word` of its primary
outputs. Older bundles agreed and are released. Where the passes differ the bundle is discarded; where it is the retry of
one that was, the fault is persistent. DESIGN CHOICE: log 162. -/
def Dev.mismatch (d : Dev) (P : PageOps) (core nth word mask : Nat) : Dev :=
  match (d.heldOf core)[nth]? with
  | none => d
  | some h =>
    if !h.differs word mask then d
    else
      let d := Dev.emitWhile P core (fun _ => true) nth d
      if h.retried then (if core < 64 then d.persistent core else d.ctrlPersistent (core - 64))
      else d.reissue core (d.heldOf core) h

/-! Upset words (R192 to R197, R257). -/

/-- Register n, or from 0x40 on accumulator part n. -/
def Core.putPart (c : Core) (n : Nat) (v : DW) : Core :=
  if n < 0x40 then c.putGr (n, fullMask, v)
  else
    let a := (n - 0x40) / 3
    { c with acc := tabSet c.acc a (accPutPart (c.a (BitVec.ofNat 2 a)) ((n - 0x40) % 3) v) }

/-- A register or accumulator part of a core has an upset word; of a control core, whose run has no frame entry to
restart from, an uncorrectable one is counted and its value is not stated. DESIGN CHOICE: log 167. -/
def Dev.upsetReg (d : Dev) (core n : Nat) (found : WordFind) : Dev :=
  match found with
  | .clean => d
  | .corrected => d.modCore core fun c => { c with weak := setInsert c.weak n }
  | .uncorrectable =>
    if core < 64 then d.modCore core fun c => { c with bad := setInsert c.bad n, weak := setErase c.weak n }
    else
      let (v, d) := d.freeBelow 7 (2 ^ 28)
      (d.modCore core (·.putPart n (BitVec.ofNat 28 v))).countUnc (corePage core)

/-- The page of a table store. -/
def tablePage : TableStore → Nat
  | .streams => 0x050
  | .map => 0x058
  | .ports => 0x078
  | .replay => 0x080

/-- A stored word is read, or is found upset at its next read (R192 to R196, R257). What a table store holds after an
uncorrectable word is not stated: the block keeps its contents. DESIGN CHOICE: log 162, 167. -/
def Dev.upset (d : Dev) (place : Storage) (found : WordFind) : Dev :=
  match place, found with
  | .word a, f => d.scrubWord a.toNat f
  | .register core n, f => d.upsetReg core.val n.toNat f
  | _, .clean => d
  | .hopper n k, .corrected => d.iff (d.isOn domHoppers) (·.modHop n.val (·.markWord k.toNat .correctable))
  | .hopper n k, .uncorrectable => d.iff (d.isOn domHoppers) (·.modHop n.val (·.markWord k.toNat .uncorrectable))
  | .descriptor n _, .corrected => d.iff (d.isOn domHoppers) (·.hopCorrected n.val)
  | .descriptor n k, .uncorrectable => d.iff (d.isOn domHoppers) (·.hopLost n.val k.toNat)
  | .table t, .corrected => d.iff (d.pageOn (tablePage t)) (·.countCorr (tablePage t))
  | .table t, .uncorrectable => d.iff (d.pageOn (tablePage t)) (·.countUnc (tablePage t))

/-- DESIGN CHOICE: log 162. -/
def execScrub (place : Storage) (found : WordFind) (s : State) : Host.Outcome State Fault Refusal :=
  .next (s.onDev fun d => (d.upset place found).settle)

end Sys2Proof.Machine
end

