-- ==== Sys2Proof/Machine/Accesses.lean ====
section
/-! DEFINITION. The commands that are one access of a core to its hopper ports or its slot-local block (R228 to R230,
R245 to R252, R272 to R274, R282), and those of the router and the stoker. -/

namespace Sys2Proof.Machine

/-- A bundle of one syllable, of which only the access is known. -/
def Issue.lone (x : Issue) : Issue := { x with len := 1 }

/-- A bundle of one access: the core issues it at its fetch address, with the checks of the address and of R94.
DESIGN CHOICE: log 13. -/
def Dev.lone (d : Dev) (core tick : Nat) (f : Dev → Place → Eff) : Dev :=
  if d.canIssue core then
    let d := d.poised PageOps.real core []
    let c := d.core core
    let a := c.fetch.toNat
    if !fetchOk core c.priv a then d.fetchFault PageOps.real core 1 a ⟨0x07, some (BitVec.ofNat 28 a), 2⟩
    else
      let d := d.modCore core Core.countBundle
      let e := f d ⟨core, a, 1, c.steps⟩
      match e.met, e.exc with
      | none, none => d.complete PageOps.real (Issue.of c core [] tick).lone [e]
      | _, some ex => d.takeException PageOps.real core a 1 0 0 ex 0
      | some _, none => d
  else d

/-- A load of a DW into Dn, as LD does it. DESIGN CHOICE: log 13. -/
def Dev.loneLoad (d : Dev) (core : Nat) (n : BitVec 5) (a : DW) : Dev :=
  d.lone core 0 fun d x =>
    match d.accCheck core (d.core core).priv false a 2 with
    | some e => { Eff.none with exc := some e }
    | none =>
      { Eff.none with
        grs := [(n.toNat, fullMask, d.loadedDW PageOps.real x a 2 0)]
        loads := [(n.toNat, fullMask)]
        acts := [.load a 2] }

/-- A store of a DW, as ST does it. DESIGN CHOICE: log 13. -/
def Dev.loneStore (d : Dev) (core tick : Nat) (a v : DW) : Dev :=
  d.lone core tick fun d _ =>
    match d.accCheck core (d.core core).priv true a 2 with
    | some e => { Eff.none with exc := some e }
    | none => { Eff.none with acts := [.storeD a v] }

/-- A store of two DW, as STP does it. -/
def Dev.lonePair (d : Dev) (core : Nat) (a v w : DW) : Dev :=
  d.lone core 0 fun d _ =>
    match d.accCheck core (d.core core).priv true a 4 with
    | some e => { Eff.none with exc := some e }
    | none => { Eff.none with acts := [.storeP a v w] }

/-- The W address of a register of a hopper's port block (R248). -/
def hopPort (hop r : Nat) : DW := BitVec.ofNat 28 (0xF000000 + 0x40 * hop + r)

/-- The W address of a register of the slot-local block (R96). -/
def localPort (r : Nat) : DW := BitVec.ofNat 28 (0xF100000 + r)

/-! The executor's events. -/

def execInterruptEntry (next : NextBundle) (s : State) : Host.Outcome State Fault Refusal :=
  .next (s.onDev fun d => (d.interrupt PageOps.real next.core.val next.words next.poisoned).settle)

/-- DESIGN CHOICE: log 162. -/
def execMismatchReissue (core : CoreId) (nth : Nat) (fault : BusFault) (s : State) : Host.Outcome State Fault Refusal :=
  .next (s.onDev fun d => (d.mismatch PageOps.real core.val nth fault.word fault.mask).settle)

/-- DESIGN CHOICE: log 148. -/
def execReservedInstruction (core : CoreId) (words : List DW) (poisoned : Bool) (s : State) :
    Host.Outcome State Fault Refusal :=
  .next (s.onDev fun d => (d.rawBundle PageOps.real core.val words poisoned).settle)

/-! The router. -/

def execModerationExpiry (target : BitVec 7) (s : State) : Host.Outcome State Fault Refusal :=
  .next (s.onDev fun d => (d.windowEnd target.toNat).settle)

def execTimerFire (slot : Fin 64) (tick : BitVec 10) (s : State) : Host.Outcome State Fault Refusal :=
  .next (s.onDev fun d => (d.timerCheck slot.val tick.toNat).settle)

def execEoi (slot : Fin 64) (s : State) : Host.Outcome State Fault Refusal :=
  .next (s.onDev fun d => (d.loneStore slot.val 0 (localPort 0x106) 0).settle)

def execClr (slot : Fin 64) (n : BitVec 10) (s : State) : Host.Outcome State Fault Refusal :=
  .next (s.onDev fun d => (d.loneStore slot.val 0 (localPort 0x108) (n.setWidth 28)).settle)

def execTimerWrite (slot : Fin 64) (v : BitVec 7) (tick : BitVec 10) (s : State) : Host.Outcome State Fault Refusal :=
  .next (s.onDev fun d => (d.loneStore slot.val tick.toNat (localPort 0x10A) (v.setWidth 28)).settle)

def execDoorbell (slot : Fin 64) (t : BitVec 7) (s : State) : Host.Outcome State Fault Refusal :=
  .next (s.onDev fun d => (d.loneStore slot.val 0 (localPort 0x10C) (t.setWidth 28)).settle)

/-- DESIGN CHOICE: log 28. -/
def execSetPend (v : DW) (s : State) : Host.Outcome State Fault Refusal :=
  .next (s.onDev fun d => (d.busWrite .host 0x030 0x040 v).settle)

/-- DESIGN CHOICE: log 28. -/
def execClrPend (v : DW) (s : State) : Host.Outcome State Fault Refusal :=
  .next (s.onDev fun d => (d.busWrite .host 0x030 0x044 v).settle)

/-! Hoppers. -/

def execPop (core : CoreId) (hop : Fin 16) (n : BitVec 5) (s : State) : Host.Outcome State Fault Refusal :=
  .next (s.onDev fun d => (d.loneLoad core.val n (hopPort hop.val 0x00)).settle)

def execPeek (core : CoreId) (hop : Fin 16) (n : BitVec 5) (s : State) : Host.Outcome State Fault Refusal :=
  .next (s.onDev fun d => (d.loneLoad core.val n (hopPort hop.val 0x02)).settle)

def execPush (core : CoreId) (hop : Fin 16) (v : DW) (s : State) : Host.Outcome State Fault Refusal :=
  .next (s.onDev fun d => (d.loneStore core.val 0 (hopPort hop.val 0x08) v).settle)

def execMark (core : CoreId) (hop : Fin 16) (s : State) : Host.Outcome State Fault Refusal :=
  .next (s.onDev fun d => (d.loneStore core.val 0 (hopPort hop.val 0x0C) 0).settle)

def execRewind (core : CoreId) (hop : Fin 16) (s : State) : Host.Outcome State Fault Refusal :=
  .next (s.onDev fun d => (d.loneStore core.val 0 (hopPort hop.val 0x0E) 0).settle)

def execRelease (core : CoreId) (hop : Fin 16) (s : State) : Host.Outcome State Fault Refusal :=
  .next (s.onDev fun d => (d.loneStore core.val 0 (hopPort hop.val 0x10) 0).settle)

def execDrop (core : CoreId) (hop : Fin 16) (s : State) : Host.Outcome State Fault Refusal :=
  .next (s.onDev fun d => (d.loneStore core.val 0 (hopPort hop.val 0x12) 0).settle)

/-- DESIGN CHOICE: log 28. -/
def execFlush (hop : Fin 16) (s : State) : Host.Outcome State Fault Refusal :=
  .next (s.onDev fun d => (d.busWrite .host (0x040 + hop.val) 0x048 0x0000002).settle)

/-! Streams. -/

def execStreamStart (slot : Fin 64) (n : BitVec 5) (s : State) : Host.Outcome State Fault Refusal :=
  .next (s.onDev fun d => (d.loneLoad slot.val n (localPort 0x082)).settle)

def execStreamStop (slot : Fin 64) (entry : BitVec 14) (s : State) : Host.Outcome State Fault Refusal :=
  .next (s.onDev fun d => (d.lonePair slot.val (localPort 0x084) (0x1000000#28 ||| entry.setWidth 28) 0).settle)

def execStreamNeed (slot : Fin 64) (entry : BitVec 14) (q : DW) (s : State) : Host.Outcome State Fault Refusal :=
  .next (s.onDev fun d => (d.lonePair slot.val (localPort 0x084) (0x2000000#28 ||| entry.setWidth 28) q).settle)

def execNotice (slot : Fin 64) (n : BitVec 5) (s : State) : Host.Outcome State Fault Refusal :=
  .next (s.onDev fun d => (d.loneLoad slot.val n (localPort 0x088)).settle)

def execChunkWrite (entry : BitVec 14) (q : DW) (res : ChunkRead) (us : Nat) (s : State) :
    Host.Outcome State Fault Refusal :=
  .next (s.onDev fun d =>
    (if res.head then d.headLand entry.toNat q.toNat res.read
     else d.chunkLand entry.toNat q.toNat res.read us).settle)

def execChunkLate (entry : BitVec 14) (q : DW) (s : State) : Host.Outcome State Fault Refusal :=
  .next (s.onDev fun d => (d.chunkIsLate entry.toNat q.toNat).settle)

/-- DESIGN CHOICE: log 28. -/
def execPin (s : State) : Host.Outcome State Fault Refusal :=
  .next (s.onDev fun d => (d.busWrite .host 0x050 0x068 0x0000001).settle)

/-- DESIGN CHOICE: log 28. -/
def execUnpin (s : State) : Host.Outcome State Fault Refusal :=
  .next (s.onDev fun d => (d.busWrite .host 0x050 0x068 0x0000002).settle)

/-- DESIGN CHOICE: log 28. -/
def execKill (v : DW) (s : State) : Host.Outcome State Fault Refusal :=
  .next (s.onDev fun d => (d.busWrite .host 0x050 0x070 v).settle)

end Sys2Proof.Machine
end

