-- ==== Sys2Proof/Machine/AluUnit.lean ====
section
/-! DEFINITION. The syllables of the ALU unit as commands (R136 to R142): each is fetched at the core's fetch address, and its
bundle issues with its last syllable (R103 to R107). -/

namespace Sys2Proof.Machine

def execAdd (x : Ctx) (d a b : BitVec 5) (s : State) : Host.Outcome State Fault Refusal :=
  .next (s.onDev fun dev => (dev.syllable PageOps.real x (.add x d a b)).settle)

def execAdc (x : Ctx) (d a b : BitVec 5) (s : State) : Host.Outcome State Fault Refusal :=
  .next (s.onDev fun dev => (dev.syllable PageOps.real x (.adc x d a b)).settle)

def execSub (x : Ctx) (d a b : BitVec 5) (s : State) : Host.Outcome State Fault Refusal :=
  .next (s.onDev fun dev => (dev.syllable PageOps.real x (.sub x d a b)).settle)

def execSbc (x : Ctx) (d a b : BitVec 5) (s : State) : Host.Outcome State Fault Refusal :=
  .next (s.onDev fun dev => (dev.syllable PageOps.real x (.sbc x d a b)).settle)

def execAdds (x : Ctx) (d a b : BitVec 5) (s : State) : Host.Outcome State Fault Refusal :=
  .next (s.onDev fun dev => (dev.syllable PageOps.real x (.adds x d a b)).settle)

def execSubs (x : Ctx) (d a b : BitVec 5) (s : State) : Host.Outcome State Fault Refusal :=
  .next (s.onDev fun dev => (dev.syllable PageOps.real x (.subs x d a b)).settle)

def execAnd (x : Ctx) (d a b : BitVec 5) (s : State) : Host.Outcome State Fault Refusal :=
  .next (s.onDev fun dev => (dev.syllable PageOps.real x (.and x d a b)).settle)

def execOr (x : Ctx) (d a b : BitVec 5) (s : State) : Host.Outcome State Fault Refusal :=
  .next (s.onDev fun dev => (dev.syllable PageOps.real x (.or x d a b)).settle)

def execXor (x : Ctx) (d a b : BitVec 5) (s : State) : Host.Outcome State Fault Refusal :=
  .next (s.onDev fun dev => (dev.syllable PageOps.real x (.xor x d a b)).settle)

def execAndn (x : Ctx) (d a b : BitVec 5) (s : State) : Host.Outcome State Fault Refusal :=
  .next (s.onDev fun dev => (dev.syllable PageOps.real x (.andn x d a b)).settle)

def execCmp (x : Ctx) (a b : BitVec 5) (s : State) : Host.Outcome State Fault Refusal :=
  .next (s.onDev fun dev => (dev.syllable PageOps.real x (.cmp x a b)).settle)

def execTst (x : Ctx) (a b : BitVec 5) (s : State) : Host.Outcome State Fault Refusal :=
  .next (s.onDev fun dev => (dev.syllable PageOps.real x (.tst x a b)).settle)

def execMin (x : Ctx) (d a b : BitVec 5) (s : State) : Host.Outcome State Fault Refusal :=
  .next (s.onDev fun dev => (dev.syllable PageOps.real x (.min x d a b)).settle)

def execMax (x : Ctx) (d a b : BitVec 5) (s : State) : Host.Outcome State Fault Refusal :=
  .next (s.onDev fun dev => (dev.syllable PageOps.real x (.max x d a b)).settle)

def execNeg (x : Ctx) (d a : BitVec 5) (s : State) : Host.Outcome State Fault Refusal :=
  .next (s.onDev fun dev => (dev.syllable PageOps.real x (.neg x d a)).settle)

def execNegs (x : Ctx) (d a : BitVec 5) (s : State) : Host.Outcome State Fault Refusal :=
  .next (s.onDev fun dev => (dev.syllable PageOps.real x (.negs x d a)).settle)

def execAbs (x : Ctx) (d a : BitVec 5) (s : State) : Host.Outcome State Fault Refusal :=
  .next (s.onDev fun dev => (dev.syllable PageOps.real x (.abs x d a)).settle)

def execAbss (x : Ctx) (d a : BitVec 5) (s : State) : Host.Outcome State Fault Refusal :=
  .next (s.onDev fun dev => (dev.syllable PageOps.real x (.abss x d a)).settle)

def execNot (x : Ctx) (d a : BitVec 5) (s : State) : Host.Outcome State Fault Refusal :=
  .next (s.onDev fun dev => (dev.syllable PageOps.real x (.not x d a)).settle)

def execNorm (x : Ctx) (d a : BitVec 5) (s : State) : Host.Outcome State Fault Refusal :=
  .next (s.onDev fun dev => (dev.syllable PageOps.real x (.norm x d a)).settle)

def execSxw (x : Ctx) (d a : BitVec 5) (s : State) : Host.Outcome State Fault Refusal :=
  .next (s.onDev fun dev => (dev.syllable PageOps.real x (.sxw x d a)).settle)

def execPack (x : Ctx) (d a b : BitVec 5) (s : State) : Host.Outcome State Fault Refusal :=
  .next (s.onDev fun dev => (dev.syllable PageOps.real x (.pack x d a b)).settle)

def execLsl (x : Ctx) (d a b : BitVec 5) (s : State) : Host.Outcome State Fault Refusal :=
  .next (s.onDev fun dev => (dev.syllable PageOps.real x (.lsl x d a b)).settle)

def execLsr (x : Ctx) (d a b : BitVec 5) (s : State) : Host.Outcome State Fault Refusal :=
  .next (s.onDev fun dev => (dev.syllable PageOps.real x (.lsr x d a b)).settle)

def execAsr (x : Ctx) (d a b : BitVec 5) (s : State) : Host.Outcome State Fault Refusal :=
  .next (s.onDev fun dev => (dev.syllable PageOps.real x (.asr x d a b)).settle)

def execRor (x : Ctx) (d a b : BitVec 5) (s : State) : Host.Outcome State Fault Refusal :=
  .next (s.onDev fun dev => (dev.syllable PageOps.real x (.ror x d a b)).settle)

def execRol (x : Ctx) (d a b : BitVec 5) (s : State) : Host.Outcome State Fault Refusal :=
  .next (s.onDev fun dev => (dev.syllable PageOps.real x (.rol x d a b)).settle)

def execDiv (x : Ctx) (d a b : BitVec 5) (s : State) : Host.Outcome State Fault Refusal :=
  .next (s.onDev fun dev => (dev.syllable PageOps.real x (.div x d a b)).settle)

def execAddi (x : Ctx) (d a : BitVec 5) (imm : BitVec 6) (s : State) : Host.Outcome State Fault Refusal :=
  .next (s.onDev fun dev => (dev.syllable PageOps.real x (.addi x d a imm)).settle)

def execCmpi (x : Ctx) (a : BitVec 5) (imm : BitVec 6) (s : State) : Host.Outcome State Fault Refusal :=
  .next (s.onDev fun dev => (dev.syllable PageOps.real x (.cmpi x a imm)).settle)

def execLsli (x : Ctx) (d a : BitVec 5) (imm : BitVec 6) (s : State) : Host.Outcome State Fault Refusal :=
  .next (s.onDev fun dev => (dev.syllable PageOps.real x (.lsli x d a imm)).settle)

def execLsri (x : Ctx) (d a : BitVec 5) (imm : BitVec 6) (s : State) : Host.Outcome State Fault Refusal :=
  .next (s.onDev fun dev => (dev.syllable PageOps.real x (.lsri x d a imm)).settle)

def execAsri (x : Ctx) (d a : BitVec 5) (imm : BitVec 6) (s : State) : Host.Outcome State Fault Refusal :=
  .next (s.onDev fun dev => (dev.syllable PageOps.real x (.asri x d a imm)).settle)

def execRori (x : Ctx) (d a : BitVec 5) (imm : BitVec 6) (s : State) : Host.Outcome State Fault Refusal :=
  .next (s.onDev fun dev => (dev.syllable PageOps.real x (.rori x d a imm)).settle)

def execRoli (x : Ctx) (d a : BitVec 5) (imm : BitVec 6) (s : State) : Host.Outcome State Fault Refusal :=
  .next (s.onDev fun dev => (dev.syllable PageOps.real x (.roli x d a imm)).settle)

def execMovi (x : Ctx) (d : BitVec 5) (imm : BitVec 11) (s : State) : Host.Outcome State Fault Refusal :=
  .next (s.onDev fun dev => (dev.syllable PageOps.real x (.movi x d imm)).settle)

def execMovh (x : Ctx) (d : BitVec 5) (imm : BitVec 11) (s : State) : Host.Outcome State Fault Refusal :=
  .next (s.onDev fun dev => (dev.syllable PageOps.real x (.movh x d imm)).settle)

def execMovm (x : Ctx) (d : BitVec 5) (imm : BitVec 11) (s : State) : Host.Outcome State Fault Refusal :=
  .next (s.onDev fun dev => (dev.syllable PageOps.real x (.movm x d imm)).settle)

def execMovl (x : Ctx) (d : BitVec 5) (imm : BitVec 6) (s : State) : Host.Outcome State Fault Refusal :=
  .next (s.onDev fun dev => (dev.syllable PageOps.real x (.movl x d imm)).settle)

def execAddw (x : Ctx) (d a b : Half) (s : State) : Host.Outcome State Fault Refusal :=
  .next (s.onDev fun dev => (dev.syllable PageOps.real x (.addw x d a b)).settle)

def execSubw (x : Ctx) (d a b : Half) (s : State) : Host.Outcome State Fault Refusal :=
  .next (s.onDev fun dev => (dev.syllable PageOps.real x (.subw x d a b)).settle)

def execAddsw (x : Ctx) (d a b : Half) (s : State) : Host.Outcome State Fault Refusal :=
  .next (s.onDev fun dev => (dev.syllable PageOps.real x (.addsw x d a b)).settle)

def execSubsw (x : Ctx) (d a b : Half) (s : State) : Host.Outcome State Fault Refusal :=
  .next (s.onDev fun dev => (dev.syllable PageOps.real x (.subsw x d a b)).settle)

def execCmpw (x : Ctx) (a b : Half) (s : State) : Host.Outcome State Fault Refusal :=
  .next (s.onDev fun dev => (dev.syllable PageOps.real x (.cmpw x a b)).settle)

def execNegw (x : Ctx) (d a : Half) (s : State) : Host.Outcome State Fault Refusal :=
  .next (s.onDev fun dev => (dev.syllable PageOps.real x (.negw x d a)).settle)

def execNegsw (x : Ctx) (d a : Half) (s : State) : Host.Outcome State Fault Refusal :=
  .next (s.onDev fun dev => (dev.syllable PageOps.real x (.negsw x d a)).settle)

def execAbsw (x : Ctx) (d a : Half) (s : State) : Host.Outcome State Fault Refusal :=
  .next (s.onDev fun dev => (dev.syllable PageOps.real x (.absw x d a)).settle)

def execAbssw (x : Ctx) (d a : Half) (s : State) : Host.Outcome State Fault Refusal :=
  .next (s.onDev fun dev => (dev.syllable PageOps.real x (.abssw x d a)).settle)

def execMinw (x : Ctx) (d a b : Half) (s : State) : Host.Outcome State Fault Refusal :=
  .next (s.onDev fun dev => (dev.syllable PageOps.real x (.minw x d a b)).settle)

def execMaxw (x : Ctx) (d a b : Half) (s : State) : Host.Outcome State Fault Refusal :=
  .next (s.onDev fun dev => (dev.syllable PageOps.real x (.maxw x d a b)).settle)

def execLslw (x : Ctx) (d a b : Half) (s : State) : Host.Outcome State Fault Refusal :=
  .next (s.onDev fun dev => (dev.syllable PageOps.real x (.lslw x d a b)).settle)

def execLsrw (x : Ctx) (d a b : Half) (s : State) : Host.Outcome State Fault Refusal :=
  .next (s.onDev fun dev => (dev.syllable PageOps.real x (.lsrw x d a b)).settle)

def execAsrw (x : Ctx) (d a b : Half) (s : State) : Host.Outcome State Fault Refusal :=
  .next (s.onDev fun dev => (dev.syllable PageOps.real x (.asrw x d a b)).settle)

def execRorw (x : Ctx) (d a b : Half) (s : State) : Host.Outcome State Fault Refusal :=
  .next (s.onDev fun dev => (dev.syllable PageOps.real x (.rorw x d a b)).settle)

def execMovw (x : Ctx) (d a : Half) (s : State) : Host.Outcome State Fault Refusal :=
  .next (s.onDev fun dev => (dev.syllable PageOps.real x (.movw x d a)).settle)

end Sys2Proof.Machine
end

