-- ==== Sys2Proof/Machine/CtlUnit.lean ====
section
/-! DEFINITION. The syllables of the CTL unit as commands (R131 to R135): each is fetched at the core's fetch address, and its
bundle issues with its last syllable (R103 to R107). -/

namespace Sys2Proof.Machine

/-- DESIGN CHOICE: log 6. -/
def execNop (x : Ctx) (s : State) : Host.Outcome State Fault Refusal :=
  .next (s.onDev fun dev => (dev.syllable PageOps.real x (.nop x)).settle)

def execBr (x : Ctx) (cond : BitVec 4) (disp : BitVec 12) (s : State) : Host.Outcome State Fault Refusal :=
  .next (s.onDev fun dev => (dev.syllable PageOps.real x (.br x cond disp)).settle)

def execJr (x : Ctx) (cond : BitVec 4) (p : BitVec 3) (s : State) : Host.Outcome State Fault Refusal :=
  .next (s.onDev fun dev => (dev.syllable PageOps.real x (.jr x cond p)).settle)

def execCall (x : Ctx) (disp : BitVec 12) (s : State) : Host.Outcome State Fault Refusal :=
  .next (s.onDev fun dev => (dev.syllable PageOps.real x (.call x disp)).settle)

def execCallr (x : Ctx) (p : BitVec 3) (s : State) : Host.Outcome State Fault Refusal :=
  .next (s.onDev fun dev => (dev.syllable PageOps.real x (.callr x p)).settle)

def execRet (x : Ctx) (s : State) : Host.Outcome State Fault Refusal :=
  .next (s.onDev fun dev => (dev.syllable PageOps.real x (.ret x)).settle)

def execRetx (x : Ctx) (s : State) : Host.Outcome State Fault Refusal :=
  .next (s.onDev fun dev => (dev.syllable PageOps.real x (.retx x)).settle)

def execLoop (x : Ctx) (count : LoopCount) (endd : BitVec 7) (s : State) : Host.Outcome State Fault Refusal :=
  .next (s.onDev fun dev => (dev.syllable PageOps.real x (.loop x count endd)).settle)

def execWait (x : Ctx) (s : State) : Host.Outcome State Fault Refusal :=
  .next (s.onDev fun dev => (dev.syllable PageOps.real x (.wait x)).settle)

def execBarrier (x : Ctx) (b : BitVec 11) (s : State) : Host.Outcome State Fault Refusal :=
  .next (s.onDev fun dev => (dev.syllable PageOps.real x (.barrier x b)).settle)

def execSvc (x : Ctx) (n : BitVec 11) (s : State) : Host.Outcome State Fault Refusal :=
  .next (s.onDev fun dev => (dev.syllable PageOps.real x (.svc x n)).settle)

def execBrk (x : Ctx) (n : BitVec 11) (s : State) : Host.Outcome State Fault Refusal :=
  .next (s.onDev fun dev => (dev.syllable PageOps.real x (.brk x n)).settle)

def execIflush (x : Ctx) (s : State) : Host.Outcome State Fault Refusal :=
  .next (s.onDev fun dev => (dev.syllable PageOps.real x (.iflush x)).settle)

def execMov (x : Ctx) (dst src : BitVec 6) (s : State) : Host.Outcome State Fault Refusal :=
  .next (s.onDev fun dev => (dev.syllable PageOps.real x (.mov x dst src)).settle)

def execSys (x : Ctx) (d : BitVec 5) (num : BitVec 6) (dir : Bool) (s : State) : Host.Outcome State Fault Refusal :=
  .next (s.onDev fun dev => (dev.syllable PageOps.real x (.sys x d num dir)).settle)

end Sys2Proof.Machine
end

