-- ==== Sys2Proof/Machine/LsUnit.lean ====
section
/-! DEFINITION. The syllables of the LS unit as commands (R146, R147): each is fetched at the core's fetch address, and its
bundle issues with its last syllable (R103 to R107). -/

namespace Sys2Proof.Machine

def execLdw (x : Ctx) (o : LsOps) (s : State) : Host.Outcome State Fault Refusal :=
  .next (s.onDev fun dev => (dev.syllable PageOps.real x (.ldw x o)).settle)

def execLdwl (x : Ctx) (o : LsOps) (s : State) : Host.Outcome State Fault Refusal :=
  .next (s.onDev fun dev => (dev.syllable PageOps.real x (.ldwl x o)).settle)

def execLd (x : Ctx) (o : LsOps) (s : State) : Host.Outcome State Fault Refusal :=
  .next (s.onDev fun dev => (dev.syllable PageOps.real x (.ld x o)).settle)

def execLdp (x : Ctx) (o : LsOps) (s : State) : Host.Outcome State Fault Refusal :=
  .next (s.onDev fun dev => (dev.syllable PageOps.real x (.ldp x o)).settle)

def execLdwh (x : Ctx) (o : LsOps) (s : State) : Host.Outcome State Fault Refusal :=
  .next (s.onDev fun dev => (dev.syllable PageOps.real x (.ldwh x o)).settle)

def execStw (x : Ctx) (o : LsOps) (s : State) : Host.Outcome State Fault Refusal :=
  .next (s.onDev fun dev => (dev.syllable PageOps.real x (.stw x o)).settle)

def execStwh (x : Ctx) (o : LsOps) (s : State) : Host.Outcome State Fault Refusal :=
  .next (s.onDev fun dev => (dev.syllable PageOps.real x (.stwh x o)).settle)

def execSt (x : Ctx) (o : LsOps) (s : State) : Host.Outcome State Fault Refusal :=
  .next (s.onDev fun dev => (dev.syllable PageOps.real x (.st x o)).settle)

def execStp (x : Ctx) (o : LsOps) (s : State) : Host.Outcome State Fault Refusal :=
  .next (s.onDev fun dev => (dev.syllable PageOps.real x (.stp x o)).settle)

def execPmod (x : Ctx) (p : BitVec 3) (am : BitVec 2) (m : BitVec 3) (s : State) : Host.Outcome State Fault Refusal :=
  .next (s.onDev fun dev => (dev.syllable PageOps.real x (.pmod x p am m)).settle)

end Sys2Proof.Machine
end

