-- ==== Sys2Proof/Machine/MacUnit.lean ====
section
/-! DEFINITION. The syllables of the MAC unit as commands (R143 to R145): each is fetched at the core's fetch address, and its
bundle issues with its last syllable (R103 to R107). -/

namespace Sys2Proof.Machine

def execMac (x : Ctx) (o : MacOps) (s : State) : Host.Outcome State Fault Refusal :=
  .next (s.onDev fun dev => (dev.syllable PageOps.real x (.mac x o)).settle)

def execMpy (x : Ctx) (o : MacOps) (s : State) : Host.Outcome State Fault Refusal :=
  .next (s.onDev fun dev => (dev.syllable PageOps.real x (.mpy x o)).settle)

def execMacw (x : Ctx) (o : MacOps) (s : State) : Host.Outcome State Fault Refusal :=
  .next (s.onDev fun dev => (dev.syllable PageOps.real x (.macw x o)).settle)

def execMpyw (x : Ctx) (o : MacOps) (s : State) : Host.Outcome State Fault Refusal :=
  .next (s.onDev fun dev => (dev.syllable PageOps.real x (.mpyw x o)).settle)

def execExt (x : Ctx) (unit1 : Bool) (d : BitVec 5) (acc : BitVec 2) (shift : BitVec 6) (sat rnd : Bool) (s : State) :
    Host.Outcome State Fault Refusal :=
  .next (s.onDev fun dev => (dev.syllable PageOps.real x (.ext x unit1 d acc shift sat rnd)).settle)

def execExtw (x : Ctx) (unit1 : Bool) (d : BitVec 5) (acc : BitVec 2) (shift : BitVec 6) (sat rnd : Bool) (s : State) :
    Host.Outcome State Fault Refusal :=
  .next (s.onDev fun dev => (dev.syllable PageOps.real x (.extw x unit1 d acc shift sat rnd)).settle)

def execClra (x : Ctx) (unit1 : Bool) (acc : BitVec 2) (s : State) : Host.Outcome State Fault Refusal :=
  .next (s.onDev fun dev => (dev.syllable PageOps.real x (.clra x unit1 acc)).settle)

def execLda (x : Ctx) (unit1 : Bool) (d : BitVec 5) (acc : BitVec 2) (shift : BitVec 6) (s : State) :
    Host.Outcome State Fault Refusal :=
  .next (s.onDev fun dev => (dev.syllable PageOps.real x (.lda x unit1 d acc shift)).settle)

end Sys2Proof.Machine
end

