-- ==== Sys2Proof/Machine/PfxUnit.lean ====
section
/-! DEFINITION. The syllables of the PFX unit as commands (R148, R149): each is fetched at the core's fetch address, and its
bundle issues with its last syllable (R103 to R107). -/

namespace Sys2Proof.Machine

def execRep (x : Ctx) (count : RepCount) (cut : Option Nat) (s : State) : Host.Outcome State Fault Refusal :=
  .next (s.onDev fun dev => (dev.syllable PageOps.real x (.rep x count cut)).settle)

def execBlkmac (x : Ctx) (n : BitVec 5) (fa fb : BitVec 3) (acc : BitVec 2) (frac circ width : Bool) (cut : Option Nat) (s : State) :
    Host.Outcome State Fault Refusal :=
  .next (s.onDev fun dev => (dev.syllable PageOps.real x (.blkmac x n fa fb acc frac circ width cut)).settle)

def execBlkmov (x : Ctx) (n : BitVec 5) (fa fb : BitVec 3) (circ width : Bool) (cut : Option Nat) (s : State) :
    Host.Outcome State Fault Refusal :=
  .next (s.onDev fun dev => (dev.syllable PageOps.real x (.blkmov x n fa fb circ width cut)).settle)

def execBlkfill (x : Ctx) (n : BitVec 5) (fa fb : BitVec 3) (circ width : Bool) (cut : Option Nat) (s : State) :
    Host.Outcome State Fault Refusal :=
  .next (s.onDev fun dev => (dev.syllable PageOps.real x (.blkfill x n fa fb circ width cut)).settle)

def execBlkmax (x : Ctx) (n : BitVec 5) (fa fb : BitVec 3) (abs circ width : Bool) (cut : Option Nat) (s : State) :
    Host.Outcome State Fault Refusal :=
  .next (s.onDev fun dev => (dev.syllable PageOps.real x (.blkmax x n fa fb abs circ width cut)).settle)

end Sys2Proof.Machine
end

