-- ==== Sys2Proof/Machine/Startup.lean ====
section
/-! DEFINITION. Resets, start-up, the boot from flash, BOOT_READY, and the AON tick (R319, R403, R421 to R431, R453). -/

namespace Sys2Proof.Machine

/-! Row 3 of R425. -/

/-- The roles go to the control cores that are not retired, in rising order (R425, R426). DEDUCED: log 44, 149. -/
def Dev.takeRoles (d : Dev) : Dev :=
  let l := (List.range 3).filter fun k => !bitOf (d.get Reg.HEALTH.CTRL.RETIRED) k
  ((d.setActive ((l[0]?).getD 3)).setStandby ((l[1]?).getD 3)).put Reg.HEALTH.CTRL.SPARE ((l[2]?).getD 3)

/-- The domains that start-up brings ON: all but AON, the SPAREs, retired control cores, and HOSTLINK where BOOTSEL
leaves it OFF. DESIGN CHOICE: log 43. -/
def Dev.startSet (d : Dev) : List Nat :=
  (List.range 68).filter fun n =>
    n ≠ 0 && !(17 ≤ n && n ≤ 32) && !(33 ≤ n && n ≤ 35 && bitOf (d.get Reg.HEALTH.CTRL.RETIRED) (n - 33))
      && !(n = 65 && d.aon.bootsel = 1)

/-- Start-up begins at row 3. DEDUCED: log 149. DESIGN CHOICE: log 43. -/
def Dev.startUp (d : Dev) : Dev :=
  let d := d.modAon fun a =>
    { a with stage := .starting, bootLoad := false, bootPin := false, bootSeq := 0, bootTable := [], bootOutcome := 0, bootDetail := 0 }
  let d := (d.put Reg.AON.BOOT.BOOTSEL d.aon.bootsel).takeRoles
  d.startExit d.startSet false false

/-! PORST_N (R421, R425). -/

/-- PORST_N falls, or rises: nothing is kept. The number of the next free value is no state of the device.
DESIGN CHOICE: log 6, 9, 180. -/
def Dev.porst (d : Dev) (rise : Bool) : Dev :=
  if !rise then { Dev.reset with free := d.free, nand := d.nand }
  else if d.aon.stage = .held then d.pilotStart.modAon fun a => { a with stage := .sensing, afterPor := true, sinceReset := 0 }
  else d

/-- Two or three of three fuses are blown (R450). DEDUCED: log 50. -/
def majority (b : BitVec 3) : Bool := decide (2 ≤ (bitList b.toNat 3).length)

/-- The fuses are sensed and BOOTSEL is sampled. DEDUCED: log 50. -/
def Dev.fusesSensed (d : Dev) (f : FuseSense) : Dev :=
  if d.aon.stage ≠ .sensing then d
  else
    let d := d.each (List.range 3) fun d k => d.putAt Reg.FUSE.CHIP_ID.ID 0 k (f.chipId.toNat / 2 ^ (28 * k))
    let d := d.each (List.range 10) fun d k => d.putAt Reg.FUSE.KEY_HASH.HASH 0 k (f.keyHash.toNat / 2 ^ (28 * k))
    let d := d.put Reg.FUSE.FLOOR.FLOOR (bitList f.floor.toNat 32).length
    let d := d.put Reg.FUSE.STATUS.SEALED (b2n (majority f.sealed3))
    (d.modAon fun a => { a with bootsel := f.bootsel.toNat }).startUp

/-! SYSRST_N (R419, R421, R429). -/

/-- The request or exit in progress ends. DESIGN CHOICE: log 48. -/
def Dev.requestEnds (d : Dev) : Dev :=
  match d.power.entry, d.power.exit with
  | some e, _ => if 5 ≤ e.stage && !e.undoing then d.powerResult 1 0 e.done true else d.powerResult 2 0 e.done false
  | none, some x => if x.request then d.powerResult 2 0 (d.get Reg.POWER.RESULT.STAGE) false else d
  | none, none => d

/-- Every domain but AON goes OFF at once, and pad holds and the halts of debug are gone. DESIGN CHOICE: log 49. -/
def Dev.allOff (d : Dev) : Dev :=
  let d := d.modPower fun p =>
    { p with entry := none, exit := none, queued := [], bankInit := none, held := [], release := [], railLost := [] }
  let d := (d.each ((List.range 68).filter (· ≠ 0)) fun d n => d.lower n true).settleCtrlMem true
  { d.resetPages 0x0F0 0x0F0 with cores := [], hearths := [] }

/-- SYSRST_N falls, or rises. DEDUCED: log 42. DESIGN CHOICE: log 6, 48, 49. -/
def Dev.sysrst (d : Dev) (rise : Bool) : Dev :=
  if !rise then
    if d.aon.stage = .starting || d.aon.stage = .ready then
      let d := d.requestEnds.allOff
      let d := d.modAon fun a => { a with stage := .sysHeld, bootLoad := false, bootPin := false, realigning := false }
      let d := (d.crossReset 15).put Reg.AON.RESET_CAUSE.SYSRST 1
      d.raise 0x001 1
    else d
  else if d.aon.stage = .sysHeld then (d.modAon fun a => { a with afterPor := false, sinceReset := 0 }).startUp
  else d

/-! Row 7 and the return of the control cores (R403, R425). -/

/-- The SPARE role's core is OFF outside its self-check. DEDUCED: log 44, 89. -/
def Dev.parkSpare (d : Dev) : Dev :=
  if d.spareCtrl < 3 && d.domSt (domCtrl d.spareCtrl) = .on then d.lower (domCtrl d.spareCtrl) true else d

/-- ROM enables source 8 under BOOTSEL 01 (R424). DEDUCED: log 46. -/
def Dev.romWake (d : Dev) : Dev :=
  if d.aon.bootsel = 1 && d.aon.afterPor then
    (d.regSet (Reg.POWER.WAKE_CFG.EN.key 0 8) 0x35).putAt Reg.POWER.WAKE_SET2.MASK 0 3 0x200
  else d

/-- The control firmware initialises the control memory banks that are cold, before it uses them (R391, R425).
DEDUCED: log 177. -/
def Dev.warmCtrl (d : Dev) : Dev :=
  d.each ((List.range 12).filter fun b => !d.warm.contains (bankKey 33 b)) fun d b => d.initBank 33 b

/-- The control cores have taken their roles. A domain of theirs that an exit still brings holds this up.
DEDUCED: log 44, 177. -/
def Dev.rolesTaken (d : Dev) : Dev :=
  let coming := match d.power.exit with | some x => x.todo.any (fun n => 33 ≤ n && n ≤ 35) | none => false
  if d.ctrl.serving || !(d.aon.stage = .starting || d.aon.stage = .ready) || 3 ≤ d.active || !d.isOn (domCtrl d.active) || coming then d
  else
    let d := { d with ctrl := { d.ctrl with serving := true, ready := d.standby < 3 && d.isOn (domCtrl d.standby) } }
    let d := d.parkSpare.warmCtrl
    if d.aon.stage = .starting then
      let d := d.romWake
      if d.bootsFlash && d.isOn (domFlash 0) && d.get Reg.FLASH.STATUS.MOUNT = 0 then d.beginAutoMount else d
    else d

/-! The boot from flash (R319, R425). -/

/-- A boot copy is valid. DESIGN CHOICE: log 161. -/
def bootValid (c : BootCopy) : Bool := c.magic = 0x544F4F42#32 && c.version = 1#16 && c.crcOk

/-- The valid copy with the higher sequence number, and its place. DESIGN CHOICE: log 161. -/
def bootChoice (l : List BootCopy) : Option (BootCopy × Nat) :=
  l.zipIdx.foldl (fun a x =>
    if !bootValid x.1 then a
    else match a with
      | some y => if y.1.seq.toNat < x.1.seq.toNat then some x else a
      | none => some x) none

/-- The boot ends without an image. DESIGN CHOICE: log 47. -/
def Dev.bootFails (d : Dev) (outcome : Nat) : Dev :=
  d.modAon fun a => { a with bootLoad := false, bootPin := false, bootTable := [], bootOutcome := outcome, bootDetail := 0 }

/-- A boot from flash is under way. -/
def Dev.booting (d : Dev) : Bool := d.aon.stage = .starting && d.ctrl.serving && d.bootsFlash

/-- CLOCKS.CFG takes the RATE and N_LOG2 of the boot image. DEDUCED: log 46. -/
def Dev.bootClock (d : Dev) (image : List Byte) : Dev :=
  let rate := leNat ((image.drop 0x0C).take 1)
  let n := leNat ((image.drop 0x0D).take 1)
  let old := (d.regGet (Reg.CLOCKS.CFG.FB.key 0 0)).toNat
  d.clocksCfg (BitVec.ofNat 28 (withBits (withBits (withBits old 7 7 (rate % 2)) 9 8 (rate / 2 % 4)) 12 10 n))

/-- The rest of a boot: HOSTLINK comes ON where it failed; once the image is LOADED the stream table is written and
pinned, and the commit is armed. DESIGN CHOICE: log 47. -/
def Dev.bootStep (d : Dev) : Dev :=
  if !d.booting then d
  else if 2 ≤ d.aon.bootOutcome then
    if d.notOn [domLink] = [] then d else d.startExit (d.implied [domLink]) false false
  else if !d.aon.bootLoad || d.pend ≠ 2 then d
  else
    let arm (d : Dev) : Dev := (d.put Reg.IMAGE.CTRL.WHEN 0).imageArm
    if d.aon.bootPin then
      if d.stoker.pin.isSome then d else arm (d.modAon fun a => { a with bootPin := false })
    else
      match d.loader.loaded.bind (·.streams) with
      | none => arm d
      | some s =>
        let d := (d.put Reg.STOKER.TABLE_BASE.VALUE s.base).put Reg.STOKER.ENTRIES.VALUE s.entries
        let d := d.aon.bootTable.zipIdx.foldl (fun d x => d.storeDW (s.base + 2 * x.2) x.1) d
        let d := (d.put Reg.STOKER.PIN_FIRST.ENTRY 0).put Reg.STOKER.PIN_LAST.ENTRY (s.entries - 1)
        (d.modAon fun a => { a with bootPin := true, bootTable := [] }).doPin

/-- FLASH_BOOT. DESIGN CHOICE: log 47. -/
def Dev.flashBoot (d : Dev) (copies : List BootCopy) : Dev :=
  let m := d.get Reg.FLASH.STATUS.MOUNT
  if !d.booting || d.aon.bootOutcome ≠ 0 || d.aon.bootLoad || !(2 ≤ m && m ≤ 4) then d
  else
    match (if m = 4 then none else bootChoice (copies.zipIdx.map fun x => (tabFind d.nand.boot x.2).getD x.1)) with
    | none => (d.bootFails 2).bootStep
    | some (c, i) =>
      let d := d.modFlash fun f => { f with bootSeq := c.seq.toNat, bootCopy := i }
      let d := d.modAon fun a => { a with bootSeq := c.seq.toNat }
      let load (d : Dev) : Dev :=
        let d := ((d.bootClock c.image).modLoader fun l => { l with loaded := none, load := some ⟨none, c.image⟩ }).setPend 1
        d.modAon fun a => { a with bootLoad := true, bootTable := c.table }
      if c.patch.isEmpty then load d
      else
        match d.patchCheck c.patch true with
        | .inl _ => (d.bootFails 5).bootStep
        | .inr p => load ({ d with ctrl := { d.ctrl with running := some p } }.put Reg.HEALTH.PATCH_SEQ.SEQ p.seq)

/-- BOOT_READY: the end of the boot. DESIGN CHOICE: log 47, 51. -/
def Dev.bootEnds (d : Dev) (health : List HealthRec) : Dev :=
  if d.aon.stage ≠ .starting || !d.ctrl.serving || (d.bootsFlash && d.aon.bootOutcome = 0) then d
  else
    let d := if d.bootsFlash then d else if d.aon.afterPor then d.healthRead health else d.sweepDrive
    let a := d.aon
    let d := (d.put Reg.AON.BOOT.OUTCOME a.bootOutcome).modAon fun a => { a with stage := .ready, afterPor := false }
    d.pushDone .hop4 [0xE110200, BitVec.ofNat 28 (a.bootOutcome * 2 ^ 24 + a.bootDetail * 2 ^ 16 + a.bootsel * 2 ^ 14), BitVec.ofNat 28 a.bootSeq]

/-! The AON tick (R368, R378, R411, R425, R431, R437). -/

/-- Time at flare is counted in units of 8 h, 943,718,400 ticks. -/
def Dev.flareTick (d : Dev) (h : Nat) : Dev :=
  if d.isOn (domHearth h) && d.getAt Reg.HEARTH.TEMPO.FLARE h 0 = 1 then
    let n := tabGet 0 d.health.flareTicks h + 1
    if n < 943718400 then d.modHealth fun x => { x with flareTicks := tabSet x.flareTicks h n }
    else (d.modHealth fun x => { x with flareTicks := tabSet x.flareTicks h 0 }).bumpP Reg.HEALTH.FLARE.TOTAL 0 h 1
  else d

/-- An AON tick edge. The tick counter runs from row 3 of start-up. DESIGN CHOICE: log 43, 52. -/
def Dev.aonTick (d : Dev) : Dev :=
  if d.aon.stage = .held then d
  else if d.aon.stage = .sensing then d.modAon fun a => { a with sinceReset := a.sinceReset + 1 }
  else
    let d := d.modAon fun a => { a with ticks := a.ticks + 1, sinceReset := a.sinceReset + 1 }
    let d := (d.attnTick).each (List.range 16) Dev.flareTick
    d.modLink fun l => { l with sent := l.sent.filter fun p => decide (d.aon.ticks.toNat ≤ p.tick + 4) }

/-! The commands. -/

def execPorst (rise : Bool) (s : State) : Host.Outcome State Fault Refusal := .next (s.onDev fun d => (d.porst rise).settle)

def execSysrst (rise : Bool) (s : State) : Host.Outcome State Fault Refusal := .next (s.onDev fun d => (d.sysrst rise).settle)

/-- TRST_N resets the TAP. -/
def execTrst (s : State) : Host.Outcome State Fault Refusal := .next (s.onDev fun d => { d with tap := Tap.reset })

def execFuseSenseDone (f : FuseSense) (s : State) : Host.Outcome State Fault Refusal :=
  .next (s.onDev fun d => (d.fusesSensed f).settle)

def execCtrlRoleResumed (s : State) : Host.Outcome State Fault Refusal := .next (s.onDev fun d => d.rolesTaken.settle)

def execFlashBoot (copies : List BootCopy) (s : State) : Host.Outcome State Fault Refusal :=
  .next (s.onDev fun d => (d.flashBoot copies).settle)

/-- DESIGN CHOICE: log 51. -/
def execBootReady (health : List HealthRec) (s : State) : Host.Outcome State Fault Refusal :=
  .next (s.onDev fun d => (d.bootEnds health).settle)

def execAonTick (s : State) : Host.Outcome State Fault Refusal := .next (s.onDev fun d => d.aonTick.settle)

/-- A mount ends, and a boot goes on. -/
def execMountDone (r : MountReport) (s : State) : Host.Outcome State Fault Refusal :=
  .next (s.onDev fun d => (d.mountDone r).bootStep.settle)

/-- The loader has checked an image, and a boot goes on. DESIGN CHOICE: log 115. -/
def execImageCheckDone (s : State) : Host.Outcome State Fault Refusal := .next (s.onDev fun d => d.imageChecked.bootStep.settle)

/-- A PIN finishes, and a boot goes on. -/
def execPinDone (heads : List (List FlashRead)) (s : State) : Host.Outcome State Fault Refusal :=
  .next (s.onDev fun d => (d.doPinDone heads).bootStep.settle)

end Sys2Proof.Machine
end

