-- ==== Sys2Proof/Machine/Dispatch.lean ====
section
/-! DEFINITION. One arm for each command: its meaning. -/

namespace Sys2Proof.Machine

def exec (i : Instr) (s : State) : Host.Outcome State Fault Refusal :=
  match i with
  | .nop x => Sys2Proof.Machine.execNop x s
  | .br x cond disp => Sys2Proof.Machine.execBr x cond disp s
  | .jr x cond p => Sys2Proof.Machine.execJr x cond p s
  | .call x disp => Sys2Proof.Machine.execCall x disp s
  | .callr x p => Sys2Proof.Machine.execCallr x p s
  | .ret x => Sys2Proof.Machine.execRet x s
  | .retx x => Sys2Proof.Machine.execRetx x s
  | .loop x count endd => Sys2Proof.Machine.execLoop x count endd s
  | .wait x => Sys2Proof.Machine.execWait x s
  | .barrier x b => Sys2Proof.Machine.execBarrier x b s
  | .svc x n => Sys2Proof.Machine.execSvc x n s
  | .brk x n => Sys2Proof.Machine.execBrk x n s
  | .iflush x => Sys2Proof.Machine.execIflush x s
  | .mov x dst src => Sys2Proof.Machine.execMov x dst src s
  | .sys x d num dir => Sys2Proof.Machine.execSys x d num dir s
  | .add x d a b => Sys2Proof.Machine.execAdd x d a b s
  | .adc x d a b => Sys2Proof.Machine.execAdc x d a b s
  | .sub x d a b => Sys2Proof.Machine.execSub x d a b s
  | .sbc x d a b => Sys2Proof.Machine.execSbc x d a b s
  | .adds x d a b => Sys2Proof.Machine.execAdds x d a b s
  | .subs x d a b => Sys2Proof.Machine.execSubs x d a b s
  | .and x d a b => Sys2Proof.Machine.execAnd x d a b s
  | .or x d a b => Sys2Proof.Machine.execOr x d a b s
  | .xor x d a b => Sys2Proof.Machine.execXor x d a b s
  | .andn x d a b => Sys2Proof.Machine.execAndn x d a b s
  | .cmp x a b => Sys2Proof.Machine.execCmp x a b s
  | .tst x a b => Sys2Proof.Machine.execTst x a b s
  | .min x d a b => Sys2Proof.Machine.execMin x d a b s
  | .max x d a b => Sys2Proof.Machine.execMax x d a b s
  | .neg x d a => Sys2Proof.Machine.execNeg x d a s
  | .negs x d a => Sys2Proof.Machine.execNegs x d a s
  | .abs x d a => Sys2Proof.Machine.execAbs x d a s
  | .abss x d a => Sys2Proof.Machine.execAbss x d a s
  | .not x d a => Sys2Proof.Machine.execNot x d a s
  | .norm x d a => Sys2Proof.Machine.execNorm x d a s
  | .sxw x d a => Sys2Proof.Machine.execSxw x d a s
  | .pack x d a b => Sys2Proof.Machine.execPack x d a b s
  | .lsl x d a b => Sys2Proof.Machine.execLsl x d a b s
  | .lsr x d a b => Sys2Proof.Machine.execLsr x d a b s
  | .asr x d a b => Sys2Proof.Machine.execAsr x d a b s
  | .ror x d a b => Sys2Proof.Machine.execRor x d a b s
  | .rol x d a b => Sys2Proof.Machine.execRol x d a b s
  | .div x d a b => Sys2Proof.Machine.execDiv x d a b s
  | .addi x d a imm => Sys2Proof.Machine.execAddi x d a imm s
  | .cmpi x a imm => Sys2Proof.Machine.execCmpi x a imm s
  | .lsli x d a imm => Sys2Proof.Machine.execLsli x d a imm s
  | .lsri x d a imm => Sys2Proof.Machine.execLsri x d a imm s
  | .asri x d a imm => Sys2Proof.Machine.execAsri x d a imm s
  | .rori x d a imm => Sys2Proof.Machine.execRori x d a imm s
  | .roli x d a imm => Sys2Proof.Machine.execRoli x d a imm s
  | .movi x d imm => Sys2Proof.Machine.execMovi x d imm s
  | .movh x d imm => Sys2Proof.Machine.execMovh x d imm s
  | .movm x d imm => Sys2Proof.Machine.execMovm x d imm s
  | .movl x d imm => Sys2Proof.Machine.execMovl x d imm s
  | .addw x d a b => Sys2Proof.Machine.execAddw x d a b s
  | .subw x d a b => Sys2Proof.Machine.execSubw x d a b s
  | .addsw x d a b => Sys2Proof.Machine.execAddsw x d a b s
  | .subsw x d a b => Sys2Proof.Machine.execSubsw x d a b s
  | .cmpw x a b => Sys2Proof.Machine.execCmpw x a b s
  | .negw x d a => Sys2Proof.Machine.execNegw x d a s
  | .negsw x d a => Sys2Proof.Machine.execNegsw x d a s
  | .absw x d a => Sys2Proof.Machine.execAbsw x d a s
  | .abssw x d a => Sys2Proof.Machine.execAbssw x d a s
  | .minw x d a b => Sys2Proof.Machine.execMinw x d a b s
  | .maxw x d a b => Sys2Proof.Machine.execMaxw x d a b s
  | .lslw x d a b => Sys2Proof.Machine.execLslw x d a b s
  | .lsrw x d a b => Sys2Proof.Machine.execLsrw x d a b s
  | .asrw x d a b => Sys2Proof.Machine.execAsrw x d a b s
  | .rorw x d a b => Sys2Proof.Machine.execRorw x d a b s
  | .movw x d a => Sys2Proof.Machine.execMovw x d a s
  | .mac x o => Sys2Proof.Machine.execMac x o s
  | .mpy x o => Sys2Proof.Machine.execMpy x o s
  | .macw x o => Sys2Proof.Machine.execMacw x o s
  | .mpyw x o => Sys2Proof.Machine.execMpyw x o s
  | .ext x unit1 d acc shift sat rnd => Sys2Proof.Machine.execExt x unit1 d acc shift sat rnd s
  | .extw x unit1 d acc shift sat rnd => Sys2Proof.Machine.execExtw x unit1 d acc shift sat rnd s
  | .clra x unit1 acc => Sys2Proof.Machine.execClra x unit1 acc s
  | .lda x unit1 d acc shift => Sys2Proof.Machine.execLda x unit1 d acc shift s
  | .ldw x o => Sys2Proof.Machine.execLdw x o s
  | .ldwl x o => Sys2Proof.Machine.execLdwl x o s
  | .ld x o => Sys2Proof.Machine.execLd x o s
  | .ldp x o => Sys2Proof.Machine.execLdp x o s
  | .ldwh x o => Sys2Proof.Machine.execLdwh x o s
  | .stw x o => Sys2Proof.Machine.execStw x o s
  | .stwh x o => Sys2Proof.Machine.execStwh x o s
  | .st x o => Sys2Proof.Machine.execSt x o s
  | .stp x o => Sys2Proof.Machine.execStp x o s
  | .pmod x p am m => Sys2Proof.Machine.execPmod x p am m s
  | .rep x count cut => Sys2Proof.Machine.execRep x count cut s
  | .blkmac x n fa fb acc frac circ width cut => Sys2Proof.Machine.execBlkmac x n fa fb acc frac circ width cut s
  | .blkmov x n fa fb circ width cut => Sys2Proof.Machine.execBlkmov x n fa fb circ width cut s
  | .blkfill x n fa fb circ width cut => Sys2Proof.Machine.execBlkfill x n fa fb circ width cut s
  | .blkmax x n fa fb abs circ width cut => Sys2Proof.Machine.execBlkmax x n fa fb abs circ width cut s
  | .interruptEntry next => Sys2Proof.Machine.execInterruptEntry next s
  | .mismatchReissue core nth fault => Sys2Proof.Machine.execMismatchReissue core nth fault s
  | .spareReady h => Sys2Proof.Machine.execSpareReady h s
  | .stall core => Sys2Proof.Machine.execStall core s
  | .watchPoint => Sys2Proof.Machine.execWatchPoint s
  | .finishCeiling => Sys2Proof.Machine.execFinishCeiling s
  | .barrierComplete b => Sys2Proof.Machine.execBarrierComplete b s
  | .frameBoundary => Sys2Proof.Machine.execFrameBoundary s
  | .tempoRegulation => Sys2Proof.Machine.execTempoRegulation s
  | .slotException slot => Sys2Proof.Machine.execSlotException slot s
  | .ctrlTakeover => Sys2Proof.Machine.execCtrlTakeover s
  | .spareSelfcheck => Sys2Proof.Machine.execSpareSelfcheck s
  | .scrub place found => Sys2Proof.Machine.execScrub place found s
  | .sourceFire target source more => Sys2Proof.Machine.execSourceFire target source more s
  | .moderationExpiry target => Sys2Proof.Machine.execModerationExpiry target s
  | .timerFire slot tick => Sys2Proof.Machine.execTimerFire slot tick s
  | .eoi slot => Sys2Proof.Machine.execEoi slot s
  | .clr slot n => Sys2Proof.Machine.execClr slot n s
  | .timerWrite slot v tick => Sys2Proof.Machine.execTimerWrite slot v tick s
  | .doorbell slot t => Sys2Proof.Machine.execDoorbell slot t s
  | .setPend v => Sys2Proof.Machine.execSetPend v s
  | .clrPend v => Sys2Proof.Machine.execClrPend v s
  | .pop core hop d => Sys2Proof.Machine.execPop core hop d s
  | .peek core hop d => Sys2Proof.Machine.execPeek core hop d s
  | .push core hop v => Sys2Proof.Machine.execPush core hop v s
  | .mark core hop => Sys2Proof.Machine.execMark core hop s
  | .rewind core hop => Sys2Proof.Machine.execRewind core hop s
  | .release core hop => Sys2Proof.Machine.execRelease core hop s
  | .drop core hop => Sys2Proof.Machine.execDrop core hop s
  | .flush hop => Sys2Proof.Machine.execFlush hop s
  | .streamStart slot d => Sys2Proof.Machine.execStreamStart slot d s
  | .streamStop slot entry => Sys2Proof.Machine.execStreamStop slot entry s
  | .streamNeed slot entry q => Sys2Proof.Machine.execStreamNeed slot entry q s
  | .notice slot d => Sys2Proof.Machine.execNotice slot d s
  | .chunkWrite entry q res us => Sys2Proof.Machine.execChunkWrite entry q res us s
  | .chunkLate entry q => Sys2Proof.Machine.execChunkLate entry q s
  | .pin => Sys2Proof.Machine.execPin s
  | .pinDone heads => Sys2Proof.Machine.execPinDone heads s
  | .unpin => Sys2Proof.Machine.execUnpin s
  | .kill v => Sys2Proof.Machine.execKill v s
  | .flashMount hop => Sys2Proof.Machine.execFlashMount hop s
  | .mountDone r => Sys2Proof.Machine.execMountDone r s
  | .flashFormat hop => Sys2Proof.Machine.execFlashFormat hop s
  | .libWrite hop => Sys2Proof.Machine.execLibWrite hop s
  | .regionErase hop => Sys2Proof.Machine.execRegionErase hop s
  | .flashRead hop => Sys2Proof.Machine.execFlashRead hop s
  | .mapRead hop => Sys2Proof.Machine.execMapRead hop s
  | .bootWrite hop => Sys2Proof.Machine.execBootWrite hop s
  | .journalCommit job => Sys2Proof.Machine.execJournalCommit job s
  | .mapCopyRewrite => Sys2Proof.Machine.execMapCopyRewrite s
  | .lunUnreadable lun => Sys2Proof.Machine.execLunUnreadable lun s
  | .flashTimeout lun => Sys2Proof.Machine.execFlashTimeout lun s
  | .flashOpDone what => Sys2Proof.Machine.execFlashOpDone what s
  | .relocate region group stripe => Sys2Proof.Machine.execRelocate region group stripe s
  | .patrol region res => Sys2Proof.Machine.execPatrol region res s
  | .refresh region group stripe => Sys2Proof.Machine.execRefresh region group stripe s
  | .wearLevel group => Sys2Proof.Machine.execWearLevel group s
  | .imageLoad hop => Sys2Proof.Machine.execImageLoad hop s
  | .imageCheckDone => Sys2Proof.Machine.execImageCheckDone s
  | .bulkWrite hop => Sys2Proof.Machine.execBulkWrite hop s
  | .bulkRead hop => Sys2Proof.Machine.execBulkRead hop s
  | .nopCommand hop => Sys2Proof.Machine.execNopCommand hop s
  | .abort hop => Sys2Proof.Machine.execAbort hop s
  | .patchLoad hop => Sys2Proof.Machine.execPatchLoad hop s
  | .patchStandbyReady => Sys2Proof.Machine.execPatchStandbyReady s
  | .commit v => Sys2Proof.Machine.execCommit v s
  | .imageAbort => Sys2Proof.Machine.execImageAbort s
  | .laneSampleRx lane chan pos r => Sys2Proof.Machine.execLaneSampleRx lane chan pos r s
  | .laneSampleTx lane chan pos => Sys2Proof.Machine.execLaneSampleTx lane chan pos s
  | .pllLock => Sys2Proof.Machine.execPllLock s
  | .refLost => Sys2Proof.Machine.execRefLost s
  | .realigned => Sys2Proof.Machine.execRealigned s
  | .ptWrite v => Sys2Proof.Machine.execPtWrite v s
  | .midiRxMessage u bytes sub => Sys2Proof.Machine.execMidiRxMessage u bytes sub s
  | .asTimeout u => Sys2Proof.Machine.execAsTimeout u s
  | .txData u v => Sys2Proof.Machine.execTxData u v s
  | .midiTxForward u => Sys2Proof.Machine.execMidiTxForward u s
  | .midiTxByte u => Sys2Proof.Machine.execMidiTxByte u s
  | .midiAonRx u b => Sys2Proof.Machine.execMidiAonRx u b s
  | .regrd p => Sys2Proof.Machine.execRegrd p s
  | .regwr p => Sys2Proof.Machine.execRegwr p s
  | .memrd p => Sys2Proof.Machine.execMemrd p s
  | .memwr p => Sys2Proof.Machine.execMemwr p s
  | .pushPacket p => Sys2Proof.Machine.execPushPacket p s
  | .cpl p => Sys2Proof.Machine.execCpl p s
  | .nak p late => Sys2Proof.Machine.execNak p late s
  | .cplTimeout tag => Sys2Proof.Machine.execCplTimeout tag s
  | .linkTraining hostRates x16 lo hi => Sys2Proof.Machine.execLinkTraining hostRates x16 lo hi s
  | .linkUp => Sys2Proof.Machine.execLinkUp s
  | .linkDown => Sys2Proof.Machine.execLinkDown s
  | .linkPowerRequest l2 => Sys2Proof.Machine.execLinkPowerRequest l2 s
  | .attnHoldExpiry => Sys2Proof.Machine.execAttnHoldExpiry s
  | .go v => Sys2Proof.Machine.execGo v s
  | .powerAbort => Sys2Proof.Machine.execPowerAbort s
  | .entryStageEnd => Sys2Proof.Machine.execEntryStageEnd s
  | .drainTimeout => Sys2Proof.Machine.execDrainTimeout s
  | .wake sources levels => Sys2Proof.Machine.execWake sources levels s
  | .tickCompare => Sys2Proof.Machine.execTickCompare s
  | .tickCmpLo v => Sys2Proof.Machine.execTickCmpLo v s
  | .domainOn d vio => Sys2Proof.Machine.execDomainOn d vio s
  | .bankInit v => Sys2Proof.Machine.execBankInit v s
  | .bankInitDone => Sys2Proof.Machine.execBankInitDone s
  | .padRelease v => Sys2Proof.Machine.execPadRelease v s
  | .clocksCfg v => Sys2Proof.Machine.execClocksCfg v s
  | .refSelect v rateOk => Sys2Proof.Machine.execRefSelect v rateOk s
  | .xtalOk => Sys2Proof.Machine.execXtalOk s
  | .xtalFail => Sys2Proof.Machine.execXtalFail s
  | .pilotStop => Sys2Proof.Machine.execPilotStop s
  | .pulseAck source => Sys2Proof.Machine.execPulseAck source s
  | .srst page => Sys2Proof.Machine.execSrst page s
  | .srstDone page => Sys2Proof.Machine.execSrstDone page s
  | .porst rise => Sys2Proof.Machine.execPorst rise s
  | .sysrst rise => Sys2Proof.Machine.execSysrst rise s
  | .trst => Sys2Proof.Machine.execTrst s
  | .fuseSenseDone f => Sys2Proof.Machine.execFuseSenseDone f s
  | .flashBoot copies => Sys2Proof.Machine.execFlashBoot copies s
  | .bootReady health => Sys2Proof.Machine.execBootReady health s
  | .tempSample temps => Sys2Proof.Machine.execTempSample temps s
  | .hourRollover => Sys2Proof.Machine.execHourRollover s
  | .dayRollover => Sys2Proof.Machine.execDayRollover s
  | .healthRecordWrite ok => Sys2Proof.Machine.execHealthRecordWrite ok s
  | .sealCmd v within1ms => Sys2Proof.Machine.execSealCmd v within1ms s
  | .fuseBlowDone ok => Sys2Proof.Machine.execFuseBlowDone ok s
  | .extest => Sys2Proof.Machine.execExtest s
  | .idcode => Sys2Proof.Machine.execIdcode s
  | .samplePreload => Sys2Proof.Machine.execSamplePreload s
  | .clamp => Sys2Proof.Machine.execClamp s
  | .highz => Sys2Proof.Machine.execHighz s
  | .dbgAddr v => Sys2Proof.Machine.execDbgAddr v s
  | .dbgData v => Sys2Proof.Machine.execDbgData v s
  | .dbgCtrl v => Sys2Proof.Machine.execDbgCtrl v s
  | .bypass => Sys2Proof.Machine.execBypass s
  | .halt => Sys2Proof.Machine.execHalt s
  | .step => Sys2Proof.Machine.execStep s
  | .resume => Sys2Proof.Machine.execResume s
  | .rdata write => Sys2Proof.Machine.execRdata write s
  | .mdata write => Sys2Proof.Machine.execMdata write s
  | .armStage page => Sys2Proof.Machine.execArmStage page s
  | .discard page => Sys2Proof.Machine.execDiscard page s
  | .stagedWrite req page off v => Sys2Proof.Machine.execStagedWrite req page off v s
  | .rcRead req page off => Sys2Proof.Machine.execRcRead req page off s
  | .counterLowRead req page off => Sys2Proof.Machine.execCounterLowRead req page off s
  | .registerWrite req page off v => Sys2Proof.Machine.execRegisterWrite req page off v s
  | .aonTick => Sys2Proof.Machine.execAonTick s
  | .reservedInstruction core words poisoned => Sys2Proof.Machine.execReservedInstruction core words poisoned s
  | .standbyReady => Sys2Proof.Machine.execStandbyReady s
  | .selfcheckDone persistent => Sys2Proof.Machine.execSelfcheckDone persistent s
  | .ctrlRoleResumed => Sys2Proof.Machine.execCtrlRoleResumed s
  | .glockChange g present phase => Sys2Proof.Machine.execGlockChange g present phase s
  | .laneLockLoss lane => Sys2Proof.Machine.execLaneLockLoss lane s
  | .wrongRate => Sys2Proof.Machine.execWrongRate s
  | .ioRailLoss r => Sys2Proof.Machine.execIoRailLoss r s
  | .ioRailReturn r => Sys2Proof.Machine.execIoRailReturn r s

end Sys2Proof.Machine
end

