-- ==== Sys2Proof/Safety/Frame.lean ====
section
/-! DEFINITION. Frames: all that firing events leaves as it was, and all that what follows every command leaves as it
was (completions that leave for HOP4 and HOP5, CREDIT packets that are due, the attention line, cores that a pending
source wakes). Page events, pending sources and pulses only ever appear. -/

namespace Sys2Proof.Machine

/-- The registers that events write: the last-wake record, PILOT_RUN, and what a lost pulse counts. -/
def evKey (k : Nat) : Bool := (0x001100 ≤ k && k < 0x001110) || k = 0x091024 || k = 0x091030 || k = 0x091034

/-- What events leave as it was. -/
structure Dev.Calm (d e : Dev) : Prop where
  mirror : e.mirror = d.mirror
  latchHost : e.latchHost = d.latchHost
  latchCtrl : e.latchCtrl = d.latchCtrl
  busHost : e.busHost = d.busHost
  busCtrl : e.busCtrl = d.busCtrl
  free : e.free = d.free
  mem : e.mem = d.mem
  tags : e.tags = d.tags
  warm : e.warm = d.warm
  hops : e.hops = d.hops
  cores : e.cores = d.cores
  held : e.held = d.held
  hearths : e.hearths = d.hearths
  ctrl : e.ctrl = d.ctrl
  loader : e.loader = d.loader
  stoker : e.stoker = d.stoker
  flash : e.flash = d.flash
  nand : e.nand = d.nand
  ports : e.ports = d.ports
  link : e.link = d.link
  attn : e.attn = d.attn
  cmds : e.cmds = d.cmds
  health : e.health = d.health
  tap : e.tap = d.tap
  dom : e.power.dom = d.power.dom
  on : ∀ n, e.isOn n = d.isOn n
  reg : ∀ k, evKey k = false → e.regGet k = d.regGet k
  runStacks : e.router.runStacks = d.router.runStacks
  windows : e.router.windows = d.router.windows
  aon : e.aon = { d.aon with wakeStamp := e.aon.wakeStamp }
  page : ∀ p, e.page p = { d.page p with event := (d.page p).event ||| (e.page p).event }
  pendP : ∀ t, tabGet 0#32 e.router.pendP t = tabGet 0#32 d.router.pendP t ||| tabGet 0#32 e.router.pendP t
  pendS : ∀ n, n ∈ d.router.pendS → n ∈ e.router.pendS
  awaiting : ∀ n, n ∈ d.router.awaiting → n ∈ e.router.awaiting
  queued : ∀ n, tabGet 0 d.router.queued n ≤ tabGet 0 e.router.queued n
  power : e.power = { d.power with entry := e.power.entry, exit := e.power.exit, queued := e.power.queued }

/-- The registers that settling writes: those of events, and the counters of HOP4 and HOP5. -/
def settleKey (k : Nat) : Bool := evKey k || (0x044000 ≤ k && k < 0x046000)

/-- What settling leaves as it was. -/
structure Dev.Quiet (d e : Dev) : Prop where
  mirror : e.mirror = d.mirror
  latchHost : e.latchHost = d.latchHost
  latchCtrl : e.latchCtrl = d.latchCtrl
  busHost : e.busHost = d.busHost
  busCtrl : e.busCtrl = d.busCtrl
  free : e.free = d.free
  mem : e.mem = d.mem
  tags : e.tags = d.tags
  warm : e.warm = d.warm
  hop : ∀ n, n ≠ 4 → n ≠ 5 → e.hop n = { d.hop n with creditDue := (e.hop n).creditDue }
  core : ∀ n, e.core n = { d.core n with run := (e.core n).run }
  run : ∀ n, (e.core n).run = (d.core n).run ∨ ((d.core n).run = .asleep ∧ (e.core n).run = .running)
  held : e.held = d.held
  hearths : e.hearths = d.hearths
  ctrl : e.ctrl = { d.ctrl with doneQ := e.ctrl.doneQ }
  loader : e.loader = d.loader
  stoker : e.stoker = d.stoker
  flash : e.flash = d.flash
  nand : e.nand = d.nand
  ports : e.ports = d.ports
  link : e.link = { d.link with sent := e.link.sent }
  cmds : e.cmds = d.cmds
  health : e.health = d.health
  tap : e.tap = d.tap
  dom : e.power.dom = d.power.dom
  on : ∀ n, e.isOn n = d.isOn n
  reg : ∀ k, settleKey k = false → e.regGet k = d.regGet k
  runStacks : e.router.runStacks = d.router.runStacks
  windows : e.router.windows = d.router.windows
  aon : e.aon = { d.aon with wakeStamp := e.aon.wakeStamp }
  page : ∀ p, e.page p = { d.page p with event := (d.page p).event ||| (e.page p).event }
  pendP : ∀ t, tabGet 0#32 e.router.pendP t = tabGet 0#32 d.router.pendP t ||| tabGet 0#32 e.router.pendP t
  pendS : ∀ n, n ∈ d.router.pendS → n ∈ e.router.pendS
  awaiting : ∀ n, n ∈ d.router.awaiting → n ∈ e.router.awaiting
  queued : ∀ n, tabGet 0 d.router.queued n ≤ tabGet 0 e.router.queued n
  power : e.power = { d.power with entry := e.power.entry, exit := e.power.exit, queued := e.power.queued }

end Sys2Proof.Machine
end

