-- ==== Sys2Proof/Safety/Syllables.lean ====
section
/-! DEFINITION. The terms in which statements about syllables are written: where a core stands before a command, what
the tables of the instruction reference ask of registers and flags, and what a syllable leaves alone. -/

namespace Sys2Proof.Machine

/-- The core that a syllable command names. -/
def State.at (s : State) (x : Ctx) : Core := s.dev.core x.core.val

/-- The device in which a command that is a whole bundle of one syllable issues: outputs of older bundles that are due
have been released, and stored words that the bundle corrects have been written back (R151, R192). -/
def State.ready (s : State) (x : Ctx) (i : Instr) : Dev := s.dev.poised PageOps.real x.core.val [Syl.ofInstr i]

/-- The core there. -/
def State.own (s : State) (x : Ctx) (i : Instr) : Core := (s.ready x i).core x.core.val

/-- The memory that the core's own loads read there: every store that waits has been made (R153, R156). -/
def State.seen (s : State) (x : Ctx) (i : Instr) : Dev := (s.ready x i).ahead x.core.val

/-- e is c between two bundles, after releases: what a release of a slot's own outputs writes may differ. -/
def Core.Kin (c e : Core) : Prop :=
  e = { c with bundle := [], weak := e.weak, written := e.written, overwrote := e.overwrote, timer := e.timer
               timerFired := e.timerFired, doors := e.doors, clrs := e.clrs }

/-- A core that issues, between two bundles, at an address that its level may fetch from (R101, R102), with a command
that is a whole bundle of one syllable whose operands are assigned (R105, R107). No stored word of a register that it
reads is uncorrectable (R197), and nothing that is released for it writes the core's registers, as a store of a control
core to a register page could. -/
structure State.Stands (s : State) (x : Ctx) (i : Instr) : Prop where
  kin : ((s.at x).atPlace [Syl.ofInstr i]).Kin (s.own x i)
  sound : (s.own x i).readsBad [Syl.ofInstr i] = false
  running : (s.at x).run = .running
  awake : (s.at x).halted = false
  turn : (s.at x).parked = false
  first : (s.at x).bundle = []
  last : x.stop = true
  fetch : 64 ≤ x.core.val ∨ (s.at x).fetch.toNat ≤ 0x3FFF ∨ ((s.at x).priv = 3 ∧ (s.at x).fetch.toNat ≤ 0x4FFF)
  form : syllOk i = true

/-- No loop ends with the bundle of one syllable at the fetch address (R116). -/
def Core.midLoop (c : Core) : Prop := c.ld = 0 ∨ c.le.toNat ≠ c.fetch.toNat

/-! The flag columns (R130). -/

/-- What a row of the reference does to PS: a new value of Z, N, C and V, or none where the flag is unchanged; and
whether SAT and DZ are set. -/
structure FlagRow where
  z : Option Bool
  n : Option Bool
  c : Option Bool
  v : Option Bool
  sat : Bool
  dz : Bool
  deriving DecidableEq, Repr

/-- Every flag unchanged. -/
def FlagRow.dash : FlagRow := ⟨none, none, none, none, false, false⟩

/-- Z and N follow a result; C and V as given. -/
def zn {w : Nat} (r : BitVec w) (c v : Option Bool) : FlagRow := ⟨some (decide (r = 0#w)), some r.msb, c, v, false, false⟩

/-- The row with PS.SAT set where a result was clipped. -/
def FlagRow.clipped (r : FlagRow) (b : Bool) : FlagRow := { r with sat := b }

/-- PS after a row. -/
structure Core.FlagsAre (c c' : Core) (r : FlagRow) : Prop where
  zero : c'.z = r.z.getD c.z
  negative : c'.n = r.n.getD c.n
  carry : c'.c = r.c.getD c.c
  overflow : c'.v = r.v.getD c.v
  sat : c'.ps.getLsbD 4 = (c.ps.getLsbD 4 || r.sat)
  dz : c'.ps.getLsbD 5 = (c.ps.getLsbD 5 || r.dz)

/-! Range limits and functions (R126). -/

/-- MIN28 or MINW, and MAX28 or MAXW. -/
def minOf (w : Nat) : Int := -2 ^ (w - 1)
def maxOf (w : Nat) : Int := 2 ^ (w - 1) - 1

/-- A number in the signed range of w bits. -/
def fits (w : Nat) (v : Int) : Bool := decide (minOf w ≤ v) && decide (v ≤ maxOf w)

/-- wrap28 or wrapW. -/
def wrap (w : Nat) (v : Int) : BitVec w := BitVec.ofInt w v

/-- sat28 or satW. -/
def sat (w : Nat) (v : Int) : BitVec w := BitVec.ofInt w (max (minOf w) (min (maxOf w) v))

/-! What a syllable leaves alone. -/

/-- A core after a syllable that computes: every register beside the general registers, the accumulators, the flags and
the loop registers is as before, and so is the latter where no loop ends here. -/
structure Core.Beside (c c' : Core) : Prop where
  status : ∀ i, 6 ≤ i → i ≠ 12 → i ≠ 13 → c'.ps.getLsbD i = c.ps.getLsbD i
  exception : c'.epc = c.epc ∧ c'.ecause = c.ecause ∧ c'.eval = c.eval ∧ c'.estat = c.estat ∧ c'.eseal = c.eseal
  shadow : c'.shadow = c.shadow
  progress : c'.lprog = c.lprog
  run : c'.run = c.run ∧ c'.phase = c.phase ∧ c'.frameNo = c.frameNo ∧ c'.traps = c.traps
  slot : c'.timer = c.timer ∧ c'.timerFired = c.timerFired ∧ c'.doors = c.doors ∧ c'.clrs = c.clrs ∧ c'.sel = c.sel ∧
    c'.sels = c.sels ∧ c'.written = c.written ∧ c'.overwrote = c.overwrote
  loops : c.midLoop → c'.lc = c.lc ∧ c'.ls = c.ls ∧ c'.le = c.le ∧ c'.lc1 = c.lc1 ∧ c'.ls1 = c.ls1 ∧ c'.le1 = c.le1 ∧
    c'.ld = c.ld ∧ c'.fetch = c.fetch + 1

/-- General registers after a syllable that writes those of a list. -/
def Core.GrAre (c c' : Core) (l : List (Nat × DW)) : Prop :=
  (∀ e ∈ l, c'.g e.1 = e.2) ∧ ∀ n, n ∉ l.map (·.1) → c'.g n = c.g n

/-- Accumulators after a syllable that writes those of a list. -/
def Core.AccAre (c c' : Core) (l : List (Nat × Acc)) : Prop :=
  (∀ e ∈ l, tabGet 0#70 c'.acc e.1 = e.2) ∧ ∀ n, n ∉ l.map (·.1) → tabGet 0#70 c'.acc n = tabGet 0#70 c.acc n

/-- The device with the count of exceeded phase budgets as it may stand after the steps of a bundle (R55). -/
def Dev.withBudget (d : Dev) (excess : List Nat) (count : DW) : Dev :=
  { d.regSet (Reg.IMAGE.BUDGET_CNT.COUNT.key 0 0) count with loader := { d.loader with overBudget := excess } }

/-- And with one core replaced, and what its damper holds. -/
def Dev.leaves (d : Dev) (k : Nat) (c : Core) (hs : List Held) (excess : List Nat) (count : DW) : Dev :=
  ({ d.setCore k c with held := tabSet d.held k hs } : Dev).withBudget excess count

/-- A command answers a next state and leaves its queue; the device is as d, but for the core that it names, so that P
holds of that core, for one bundle more in its damper, with outputs `outs` that wait for its release (R172), and for what
every command may change. -/
def RunsOn (s : State) (x : Ctx) (i : Instr) (d : Dev) (outs : List HeldOut) (P : Core → Prop) : Prop :=
  ∃ t c h excess count, exec i s = .next t ∧ t.pending = s.pending ∧ h.outs = outs ∧
    (d.leaves x.core.val c (d.heldOf x.core.val ++ [h]) excess count).Quiet t.dev ∧ P c

/-- As `RunsOn`, of a command that is a bundle of its own and has no output that waits; P holds of the core before and
after. -/
def Runs (s : State) (x : Ctx) (i : Instr) (P : Core → Core → Prop) : Prop :=
  RunsOn s x i (s.ready x i) [] (P (s.own x i))

/-- A syllable that is a bundle of its own writes the general registers and the accumulators that are listed, with the
flags of a row, and nothing else. -/
def Computes (s : State) (x : Ctx) (i : Instr) (grs : List (Nat × DW)) (accs : List (Nat × Acc)) (r : FlagRow) : Prop :=
  s.Stands x i → Runs s x i fun c c' => c.GrAre c' grs ∧ c.AccAre c' accs ∧ c.FlagsAre c' r ∧ c.Beside c'

/-- Dd takes a value, and no flag changes. -/
def Gives (s : State) (x : Ctx) (i : Instr) (d : BitVec 5) (v : DW) : Prop := Computes s x i [(d.toNat, v)] [] FlagRow.dash

/-- Dd takes a result; Z and N follow it, C and V are as given, PS.SAT is set where the result was clipped. -/
def Puts (s : State) (x : Ctx) (i : Instr) (d : BitVec 5) (r : DW) (c v : Option Bool) (clip : Bool := false) : Prop :=
  Computes s x i [(d.toNat, r)] [] ((zn r c v).clipped clip)

/-- A register with one half replaced (R88). -/
def putHalf (old : DW) (hi : Bool) (v : W) : DW := if hi then v ++ old.extractLsb' 0 14 else old.extractLsb' 14 14 ++ v

/-- A half of D0 to D15 takes a result, as `Puts` says for 28 bits. -/
def PutsHalf (s : State) (x : Ctx) (i : Instr) (d : Half) (r : W) (c v : Option Bool) (clip : Bool := false) : Prop :=
  Computes s x i [(d.reg.toNat, putHalf ((s.at x).g d.reg.toNat) d.hi r)] [] ((zn r c v).clipped clip)

/-- Only the flags change. -/
def Compares {w : Nat} (s : State) (x : Ctx) (i : Instr) (r : BitVec w) (c v : Option Bool) : Prop :=
  Computes s x i [] [] (zn r c v)

/-- An accumulator takes a value. -/
def Accumulates (s : State) (x : Ctx) (i : Instr) (a : BitVec 2) (v : Acc) : Prop :=
  Computes s x i [] [(a.toNat, v)] FlagRow.dash

/-- The overflow trap is disabled, or the exact value fits (R142). -/
def State.untrapped (s : State) (x : Ctx) (w : Nat) (v : Int) : Prop :=
  (s.at x).traps.getLsbD 1 = false ∨ fits w v = true

/-! The table of shifts and rotates (R140): operand, count, result, C. -/

def LslRow {w : Nat} (a : BitVec w) (n : Nat) (r : BitVec w) (c : Option Bool) : Prop :=
  (n = 0 → r = a ∧ c = none) ∧ (1 ≤ n ∧ n ≤ w - 1 → r = a <<< n ∧ c = some (a.getLsbD (w - n))) ∧
    (n = w → r = 0#w ∧ c = some (a.getLsbD 0)) ∧ (w < n → r = 0#w ∧ c = some false)

def LsrRow {w : Nat} (a : BitVec w) (n : Nat) (r : BitVec w) (c : Option Bool) : Prop :=
  (n = 0 → r = a ∧ c = none) ∧ (1 ≤ n ∧ n ≤ w - 1 → r = a >>> n ∧ c = some (a.getLsbD (n - 1))) ∧
    (n = w → r = 0#w ∧ c = some (a.getLsbD (w - 1))) ∧ (w < n → r = 0#w ∧ c = some false)

def AsrRow {w : Nat} (a : BitVec w) (n : Nat) (r : BitVec w) (c : Option Bool) : Prop :=
  (n = 0 → r = a ∧ c = none) ∧ (1 ≤ n ∧ n ≤ w - 1 → r = a.sshiftRight n ∧ c = some (a.getLsbD (n - 1))) ∧
    (w ≤ n → (∀ i, i < w → r.getLsbD i = a.getLsbD (w - 1)) ∧ c = some (a.getLsbD (w - 1)))

def RorRow {w : Nat} (a : BitVec w) (n : Nat) (r : BitVec w) (c : Option Bool) : Prop :=
  (n % w = 0 → r = a ∧ c = none) ∧ (n % w ≠ 0 → r = a.rotateRight (n % w) ∧ c = some (r.getLsbD (w - 1)))

def RolRow {w : Nat} (a : BitVec w) (n : Nat) (r : BitVec w) (c : Option Bool) : Prop :=
  (n % w = 0 → r = a ∧ c = none) ∧ (n % w ≠ 0 → r = a.rotateLeft (n % w) ∧ c = some (r.getLsbD 0))

/-- The count of a shift or rotate: bits [5:0] of its count operand. -/
def countOf {w : Nat} (v : BitVec w) : Nat := v.toNat % 64

/-! Products and extraction (R144, R145). -/

/-- A product of two signed operands, doubled where FRAC is 1, negated where SUB is 1. -/
def productOf (a b : Int) (frac sub : Bool) : Int :=
  (if sub then -1 else 1) * ((if frac then 2 else 1) * (a * b))

/-- r of R145 before it is clipped or wrapped. -/
def scaled (v : Int) (n : Nat) (rnd : Bool) : Int :=
  if rnd && decide (1 ≤ n) then v.sign * (((v.natAbs : Int) + 2 ^ (n - 1)) / 2 ^ n) else v / 2 ^ n

/-- The result of an extraction to w bits, and whether it was clipped. -/
def extracted (w : Nat) (v : Int) (n : Nat) (saturate rnd : Bool) : BitVec w :=
  if saturate then sat w (scaled v n rnd) else wrap w (scaled v n rnd)

/-! Addresses (R95). -/

/-- P + M, or B + ((P + M − B) mod L) where L is not 0. -/
def circular (p b l m : DW) : DW :=
  if l = 0#28 then p + m else b + BitVec.ofNat 28 (((p.toNat : Int) + m.toInt - b.toNat) % (l.toNat : Int)).toNat

/-- The effective address of an LS syllable. -/
def Core.ea (c : Core) (o : LsOps) : DW :=
  if o.am = 0#2 then c.p o.p + o.x.signExtend 28
  else if o.am = 3#2 then c.p o.p + c.m (o.x.setWidth 3)
  else c.p o.p

/-- The pointer that it leaves, as a list of register writes. -/
def Core.post (c : Core) (p : BitVec 3) (am : BitVec 2) (m : BitVec 3) : List (Nat × DW) :=
  if am = 1#2 then [(0x20 + p.toNat, c.p p + c.m m)]
  else if am = 2#2 then [(0x20 + p.toNat, circular (c.p p) (c.b p) (c.l p) (c.m m))]
  else []

/-! Accesses to memory (R93, R94, R97). -/

/-- A W address lies in a memory of the core's map. -/
def InMemory (ctrl : Prop) (a : Nat) : Prop :=
  a < 0x80000 ∨ (0x1000000 ≤ a ∧ a < 0x1800000) ∨ (0x2000000 ≤ a ∧ a < 0x4000000) ∨
    (ctrl ∧ (a < 0x800000 ∨ (0xC000000 ≤ a ∧ a < 0xC300000) ∨ (0xD000000 ≤ a ∧ a < 0xD400000)))

/-- The W address of one W of an access. -/
def wOf (a : DW) (i : Nat) : Nat := (a + BitVec.ofNat 28 i).toNat

/-- An access of n W to memory that passes every check of R94: its windows grant it, it is aligned, its second DW lies in
the bank of its first, and no bank is cold; a load meets no uncorrectable word. -/
structure Dev.Reaches (d : Dev) (k : Nat) (store : Bool) (a : DW) (n : Nat) : Prop where
  mapped : ∀ i, i < n → InMemory (64 ≤ k) (wOf a i)
  granted : k < 64 → (d.core k).priv ≠ 3 → ∀ i, i < n → ∃ w ∈ (d.slotCfg k).wins,
    w.base ≤ wOf a i ∧ wOf a i ≤ w.limit ∧ (if store then w.wr else w.rd) = true
  aligned : n ≠ 1 → a.getLsbD 0 = false
  oneBank : n = 4 → memBank (memAddr k a.toNat) = memBank (memAddr k (a.toNat + 2))
  warm : ∀ i, i < n → d.isCold (memAddr k (wOf a i)) = false
  good : store = false → ∀ i, i < n → d.poisonAt (memAddr k (wOf a i)) = false

/-- The same of the one syllable of a command. -/
def State.Reaches (s : State) (x : Ctx) (i : Instr) (store : Bool) (a : DW) (n : Nat) : Prop :=
  (s.seen x i).Reaches x.core.val store a n

end Sys2Proof.Machine
end

