-- ==== Sys2Proof/Safety/Bundles.lean ====
section
/-! DEFINITION. More terms for statements about syllables: transfers, loops, system registers, loads and stores,
exceptions, REP and the long instructions. -/

namespace Sys2Proof.Machine

/-- c' is c between two bundles, but for what the core counts, what it has on its way, its place within a bundle, the
codes of its registers' stored words and its loop buffer; and for what a release may have written before it issued. -/
def Core.Same (c c' : Core) : Prop :=
  c' = { c with bundle := [], steps := c'.steps, pen := c'.pen, phaseSteps := c'.phaseSteps, loadBits := c'.loadBits,
                stores := c'.stores, loopBuf := c'.loopBuf, midway := c'.midway, retry := c'.retry, bad := c'.bad
                weak := c'.weak, written := c'.written, overwrote := c'.overwrote, timer := c'.timer
                timerFired := c'.timerFired, doors := c'.doors, clrs := c'.clrs }

/-- What a release of outputs may have written of a core, and a bundle does not. -/
def Core.Idle (c c' : Core) : Prop :=
  c'.written = c.written ∧ c'.overwrote = c.overwrote ∧ c'.timer = c.timer ∧ c'.timerFired = c.timerFired ∧
    c'.doors = c.doors ∧ c'.clrs = c.clrs

/-- A syllable alone in its bundle leaves its core as c, and nothing else changes. -/
def Leaves (s : State) (x : Ctx) (i : Instr) (c : Core) : Prop :=
  s.Stands x i → RunsOn s x i (s.ready x i) [] fun c' => c.Same c' ∧ (s.own x i).Idle c'

/-- A syllable alone in its bundle, at which no loop ends, leaves its core as c and goes on to the next bundle. -/
def Passes (s : State) (x : Ctx) (i : Instr) (c : Core) : Prop := c.midLoop → Leaves s x i { c with fetch := c.fetch + 1 }

/-- Nothing waits in the core's damper but bundles without outputs, none of them a retry. -/
def State.Clear (s : State) (x : Ctx) (i : Instr) : Prop :=
  ∀ h ∈ (s.ready x i).heldOf x.core.val, h.outs = [] ∧ h.retried = false

/-- As `RunsOn`, of a command that is several bundles; of the outputs of bundles that its damper holds, Q holds. -/
def RunsAll (s : State) (x : Ctx) (i : Instr) (d : Dev) (Q : List HeldOut → Prop) (P : Core → Prop) : Prop :=
  ∃ t c hs excess count, exec i s = .next t ∧ t.pending = s.pending ∧ (∀ h ∈ hs, Q h.outs) ∧
    (d.leaves x.core.val c hs excess count).Quiet t.dev ∧ P c

/-- A command answers a next state in which P holds of the core it names. -/
def Ends (s : State) (x : Ctx) (i : Instr) (P : Core → Prop) : Prop :=
  ∃ t, exec i s = .next t ∧ t.pending = s.pending ∧ P (t.at x)

/-! Conditions (R110). -/

/-- The table of condition codes. -/
def Core.conditions (c : Core) : List Bool :=
  [true, c.z, !c.z, c.n != c.v, c.n == c.v, c.z || (c.n != c.v), !c.z && (c.n == c.v), c.c, !c.c, c.n, !c.n, c.v, !c.v,
   c.c && !c.z, !c.c || c.z]

/-- A condition code holds. -/
def Core.Takes (c : Core) (cond : BitVec 4) : Prop := c.conditions[cond.toNat]? = some true

/-! Loops (R115 to R117). -/

/-- PS with another LD. -/
def psLd (ps : DW) (ld : BitVec 2) : DW := ps.extractLsb' 14 14 ++ ld ++ ps.extractLsb' 0 12

/-- An address lies in LS to LE. -/
def Core.inLoop (c : Core) (t : DW) : Prop := c.ls ≤ t ∧ t ≤ c.le

/-- The innermost loop has ended; an outer one moves back (R116). -/
def Core.outer (c : Core) : Core :=
  if c.ld = 2 then { c with lc := c.lc1, ls := c.ls1, le := c.le1, ps := psLd c.ps 1#2 }
  else { c with ps := psLd c.ps 0#2 }

/-- The core after a taken branch or jump, as far as its loops go (R117). -/
def Core.Left (c : Core) (t : DW) (c' : Core) : Prop :=
  (c.ld = 0 ∨ c.inLoop t → c' = c) ∧
    (1 ≤ c.ld → c.ld ≤ 2 → ¬c.inLoop t → (c.outer.ld = 0 ∨ c.outer.inLoop t → c' = c.outer) ∧
      (1 ≤ c.outer.ld → ¬c.outer.inLoop t → c' = c.outer.outer))

/-- The core after the bundle at its fetch address, whose last syllable is LE of the innermost loop, or lies beyond it
(R116); `next` is the address after the bundle. -/
def Core.Iterated (c : Core) (next : DW) (c' : Core) : Prop :=
  (c.lc ≠ 1#28 → c' = { c with lc := c.lc - 1, fetch := c.ls }) ∧
    (c.lc = 1#28 → c.ld = 1 → c' = { c with lc := 0, ps := psLd c.ps 0#2, fetch := next }) ∧
    (c.lc = 1#28 → c.ld = 2 → c.le1.toNat ≠ c.fetch.toNat → c' = { c.outer with fetch := next }) ∧
    (c.lc = 1#28 → c.ld = 2 → c.le1.toNat = c.fetch.toNat → c.lc1 ≠ 1#28 →
      c' = { c.outer with lc := c.lc1 - 1, fetch := c.ls1 }) ∧
    (c.lc = 1#28 → c.ld = 2 → c.le1.toNat = c.fetch.toNat → c.lc1 = 1#28 →
      c' = { c.outer with lc := 0, ps := psLd c.ps 0#2, fetch := next })

/-! System registers (R90, R91). -/

/-- PS as a write leaves it at U, and above U. -/
def psAtU (ps v : DW) : DW := ps.extractLsb' 6 22 ++ v.extractLsb' 0 6
def psAbove (ps v : DW) : DW :=
  ps.extractLsb' 12 16 ++ v.extractLsb' 10 2 ++ ps.extractLsb' 9 1 ++ v.extractLsb' 8 1 ++ ps.extractLsb' 6 2 ++
    v.extractLsb' 0 6

/-- An accumulator with one part replaced. -/
def accWith (a : Acc) (k : Fin 3) (v : DW) : Acc :=
  match k with
  | 0 => a.extractLsb' 28 42 ++ v
  | 1 => a.extractLsb' 56 14 ++ v ++ a.extractLsb' 0 28
  | 2 => v.extractLsb' 0 14 ++ a.extractLsb' 0 56

/-- A part of an accumulator as it reads. -/
def accRead (a : Acc) (k : Fin 3) : DW :=
  match k with
  | 0 => a.extractLsb' 0 28
  | 1 => a.extractLsb' 28 28
  | 2 => (a.extractLsb' 56 14).signExtend 28

/-! Exceptions (R203 to R206). -/

/-- ECAUSE. -/
def ecauseOf (cause : BitVec 8) (detail : BitVec 15) : DW := 0#5 ++ detail ++ cause

/-- The core after an entry (R203) for a bundle at its fetch address; no unit of a longer bundle was in progress. -/
def Core.entered (c : Core) (len spos : BitVec 3) (ecause eval : DW) (level : BitVec 2) (target : DW) : Core :=
  { c with
    epc := (c.fetch.extractLsb' 0 15).setWidth 28, ecause := ecause, eval := eval
    estat := len ++ spos ++ 0#8 ++ c.ps.extractLsb' 0 14
    eseal := 0#16 ++ c.ps.extractLsb' 10 2 ++ 0#10
    ps := c.ps.extractLsb' 12 16 ++ level ++ c.ps.extractLsb' 9 1 ++ 0#1 ++ c.ps.extractLsb' 0 8
    fetch := target }

/-- Where a core takes an exception at its level (R205, R219). -/
def Dev.handlerOf (d : Dev) (k : Nat) : DW :=
  if k < 64 then BitVec.ofNat 28 (d.slotCfg k).handler else Config.ctrlVector.setWidth 28

/-- A command takes an exception of the first syllable of a bundle, in a device d, where R205 takes it: from U at S; from
S and M at M, where the monitor ends the run; on a control core at M (R219). -/
def Takes (s : State) (x : Ctx) (i : Instr) (d : Dev) (len : BitVec 3) (cause : BitVec 8) (detail : BitVec 15) (eval : DW) :
    Prop :=
  let c := s.at x
  let e := ecauseOf cause detail
  (x.core.val < 64 → c.priv = 0 → RunsOn s x i d [] (c.entered len 0#3 e eval 1#2 (d.handlerOf x.core.val)).Same) ∧
  (x.core.val < 64 → c.priv ≠ 0 → Ends s x i fun c' =>
    let n := c.entered len 0#3 e eval 3#2 monitorEntry
    c'.run = .ended ∧ c'.epc = n.epc ∧ c'.ecause = n.ecause ∧ c'.eval = n.eval ∧ c'.estat = n.estat ∧
      c'.eseal = n.eseal ∧ c'.ps = n.ps ∧ c'.gr = c.gr ∧ c'.acc = c.acc ∧ c'.shadow = c.shadow) ∧
  (64 ≤ x.core.val → RunsOn s x i d [] (c.entered len 0#3 e eval 3#2 (d.handlerOf x.core.val)).Same)

/-- As `Takes`, of a syllable alone in its bundle. -/
def Raises (s : State) (x : Ctx) (i : Instr) (cause : BitVec 8) (detail : BitVec 15) (eval : DW) : Prop :=
  s.Stands x i → Takes s x i (s.ready x i) 1#3 cause detail eval

/-- The word of a syllable. -/
def wordOf (i : Instr) : DW := (encodeSyll i).getD 0

/-! Loads and stores (R95, R146). -/

/-- The words of memory that an access of n W touches. -/
def touches (x : Ctx) (a : DW) (n : Nat) (m : Nat) : Prop :=
  ∃ i, i < n ∧ m = memAddr x.core.val (wOf a i)

/-- A syllable that loads n W from memory writes the listed registers; the device is as before, unless a corrected word
is written back and counted. -/
def Loads (s : State) (x : Ctx) (i : Instr) (a : DW) (n : Nat) (grs : List (Nat × DW)) : Prop :=
  s.Stands x i → s.Reaches x i false a n →
    ∃ d : Dev, d.mem = (s.ready x i).mem ∧ d.cores = (s.ready x i).cores ∧ d.held = (s.ready x i).held ∧
      ((∀ m, touches x a n m → (s.seen x i).tagAt m = .good) → d = s.ready x i) ∧
      RunsOn s x i d [] fun c' => (s.own x i).GrAre c' grs ∧ (s.own x i).AccAre c' [] ∧
        (s.own x i).FlagsAre c' FlagRow.dash ∧ (s.own x i).Beside c'

/-- The core after a syllable that stores: every register beside those listed is as before. -/
structure Core.Stored (c c' : Core) (grs : List (Nat × DW)) : Prop where
  gr : c.GrAre c' grs
  acc : c'.acc = c.acc
  rest : ∃ lc ls le ps fetch, { c with gr := c'.gr, lc := lc, ls := ls, le := le, ps := ps, fetch := fetch }.Same c'
  idle : c.Idle c'
  status : ∀ j, j ≠ 12 → j ≠ 13 → c'.ps.getLsbD j = c.ps.getLsbD j
  loops : c.midLoop → c'.lc = c.lc ∧ c'.ls = c.ls ∧ c'.le = c.le ∧ c'.ps = c.ps ∧ c'.fetch = c.fetch + 1

/-- A syllable that stores: its store waits in the damper, and memory is as before (R172). -/
def Stores (s : State) (x : Ctx) (i : Instr) (grs : List (Nat × DW)) (o : Nat → HeldOut) : Prop :=
  s.Stands x i → ∃ last, RunsOn s x i (s.ready x i) [o last] fun c' => (s.own x i).Stored c' grs

/-- Words of memory: an address and what is written there. -/
abbrev Words := List (Nat × W)

/-- What memory reads after words are written. -/
def Dev.after (d : Dev) (l : Words) (m : Nat) : W := ((l.find? fun e => e.1 = m).map (·.2)).getD (d.wAt m)

/-- The two words of a DW at an even address. -/
def wordsOf (m : Nat) (v : DW) : Words := [(m, v.extractLsb' 0 14), (m + 1, v.extractLsb' 14 14)]

/-- A store that waits writes these words of whatever device it is released in, and nothing else but their codes and what
the core notes of its stores; the core's own loads read them from its issue on (R29, R151, R155, R156). -/
def Writes (k : Nat) (o : HeldOut) (l : Dev → Words) : Prop :=
  ∀ d : Dev,
    let e := d.emitOut PageOps.real k o
    (∀ m, e.wAt m = d.after (l d) m) ∧ e = { d with mem := e.mem, tags := e.tags, cores := e.cores } ∧
      (∀ n, e.core n = { d.core n with written := (e.core n).written, overwrote := (e.core n).overwrote }) ∧
      ∀ m, (Dev.aheadOut k d o).wAt m = d.after (l d) m

/-- Where a long instruction finds its elements, and that every one of them may be accessed (R94, R121). -/
def LongReach (s : State) (x : Ctx) (i : Instr) (store : Bool) (addr : Nat → DW) (e count : Nat) : Prop :=
  ∀ j, j < count → s.Reaches x i store (addr j) e ∧
    (store = true → (s.ready x i).inRunning (memAddr x.core.val (addr j).toNat) = false) ∧
    ∀ m, touches x (addr j) e m → (s.ready x i).tagAt m = .good

end Sys2Proof.Machine
end

