-- ==== Sys2Proof/Safety/Commands.lean ====
section
/-! DEFINITION. Terms for statements about commands that are no syllables, and about the whole device. -/

namespace Sys2Proof.Machine

/-- A command answers a next state, leaves the queue, and leaves the device as e, but for what every command may change;
and `more` holds of the device. -/
def Leads (s : State) (i : Instr) (e : Dev) (more : Dev → Prop := fun _ => True) : Prop :=
  ∃ t, exec i s = .next t ∧ t.pending = s.pending ∧ e.Quiet t.dev ∧ more t.dev

/-- A command answers a next state, leaves the queue, and P holds of the device then. -/
def Answers (s : State) (i : Instr) (P : Dev → Prop) : Prop :=
  ∃ t, exec i s = .next t ∧ t.pending = s.pending ∧ P t.dev

/-- A page event bit is set. -/
def Dev.hasEvent (d : Dev) (page bit : Nat) : Prop := (d.page page).event.getLsbD bit = true

/-- A private source of a target is pending. -/
def Dev.hasPrivate (d : Dev) (t n : Nat) : Prop := (tabGet 0#32 d.router.pendP t).getLsbD n = true

/-- A shared source is pending. -/
def Dev.hasShared (d : Dev) (n : Nat) : Prop := n ∈ d.router.pendS

/-- A pending, enabled source of a target, with its PRIORITY (R222, R226). -/
def Dev.Candidate (d : Dev) (t n p : Nat) : Prop :=
  (n < 32 ∧ ((d.pendPriv t).getLsbD n = true ∨
      64 ≤ t ∧ n = 5 ∧ ∃ m, d.hasShared m ∧ d.srcTarget m = t ∧ d.srcEnabled m = true) ∧
      d.privEnabled t n = true ∧ p = d.privPrio t n) ∨
    (d.hasShared n ∧ d.srcTarget n = t ∧ d.srcEnabled n = true ∧ p = d.srcPrio n)

/-- The source that R226 selects, with the group part of its priority. -/
def Dev.Selects (d : Dev) (t n g : Nat) : Prop :=
  ∃ p, d.Candidate t n p ∧ g = p / 2 ^ d.getAt Reg.ROUTER.TGT_CFG.GROUP_BITS 0 t ∧
    ∀ m q, d.Candidate t m q → (m = n ∧ q = p) ∨ p < q ∨ (p = q ∧ n < m ∧ n < 32)

/-- A target that a source of group g can be delivered to (R227, R228, R232). -/
def Dev.Accepts (d : Dev) (t g : Nat) : Prop :=
  d.isOn domRouter = true ∧ d.asleep t = false ∧ (∀ top rest, d.stack t = top :: rest → g < top) ∧ (d.stack t).length < 8 ∧
    t ∉ d.router.windows

/-- The router after the delivery of a source. -/
def Dev.delivered (d : Dev) (t n g : Nat) : Dev :=
  { d with
    router := { d.router with
      pendP := if n < 32 then tabSet d.router.pendP t (d.pendPriv t &&& ~~~(1#32 <<< n)) else d.router.pendP
      pendS := if n < 32 then d.router.pendS else d.router.pendS.filter (· ≠ n)
      runStacks := tabSet d.router.runStacks t (g :: d.stack t)
      windows := if t < 64 ∧ d.getAt Reg.ROUTER.TGT_CFG.MOD_WIN 0 t ≠ 0 then setInsert d.router.windows t
        else d.router.windows } }

/-- What a command that is one access of a core carries, as a syllable would. -/
def accessCtx (core : CoreId) (tick : BitVec 10 := 0#10) : Ctx := ⟨core, true, tick⟩

/-- A core between two bundles, to which a source can be delivered now. -/
def State.Interruptible (s : State) (k : CoreId) (t n g : Nat) : Prop :=
  let c := s.at (accessCtx k)
  c.run = .running ∧ c.halted = false ∧ c.parked = false ∧ c.bundle = [] ∧ c.ie = true ∧
    c.retry = false ∧ c.midway = none ∧ (k.val < 64 → c.priv ≤ 1 ∧ c.fetch.toNat ≤ 0x3FFF) ∧ s.dev.targetOf k.val = some t ∧ s.dev.Selects t n g ∧
    s.dev.Accepts t g

/-- A completion of a host command, or a report, can be delivered at once: none waits, and no item of a control core is
partly pushed (R373). -/
def Dev.CanReport (d : Dev) (h : DoneHop) : Prop :=
  d.isOn domHoppers = true ∧ d.ctrl.doneQ = [] ∧ (d.hop (doneNum h)).part 64 = none

/-- No host access waits for a bank's port or for a control core. -/
def Dev.hostIdle (d : Dev) : Prop := d.link.regQ = [] ∧ d.link.memQ = []

/-- And no request waits outside HOSTLINK. -/
def Dev.hostQuiet (d : Dev) : Prop := d.hostIdle ∧ d.link.stalled = []

/-- An output that is a store. -/
def HeldOut.isStore : HeldOut → Bool
  | .storeD _ _ _ _ => true
  | .storeP _ _ _ _ _ => true
  | .storeW _ _ _ _ => true
  | _ => false

/-- The words of an item wait for room in a hopper, or can be popped from it. -/
def Dev.Reported (d : Dev) (h : DoneHop) (ws : List DW) : Prop :=
  (h, ws) ∈ d.ctrl.doneQ ∨ ∃ i ∈ (d.hop (doneNum h)).ready, i.words = ws.map fun w => (w, .good)

/-- A slot as a core. -/
def slotCore (slot : Fin 64) : CoreId := ⟨slot.val, by omega⟩

/-- The device in which an access of a core issues. -/
def State.before (s : State) (core : CoreId) (i : Instr) : Dev := s.ready (accessCtx core) i

/-- A core makes one access: it goes on to the next bundle with the listed registers written; the rest of the device is
as d, and outputs that wait for release are in the damper. -/
def Accesses (s : State) (core : CoreId) (i : Instr) (d : Dev) (outs : Nat → List HeldOut) (grs : List (Nat × DW)) : Prop :=
  let c := s.at (accessCtx core)
  s.Stands (accessCtx core) i → c.midLoop → ∃ last,
    RunsOn s (accessCtx core) i d (outs last) fun c' => c.GrAre c' grs ∧
      ({ c with gr := c'.gr, fetch := c.fetch + 1 }).Same c' ∧ (s.own (accessCtx core) i).Idle c'

/-- An access of a core that stores a DW: it waits in the damper, and on its release the device in which it is released
becomes what f makes of it. -/
def Releases (s : State) (core : CoreId) (tick : BitVec 10) (i : Instr) (a : DW) (v : DW) (f : Dev → Dev) : Prop :=
  Accesses s core i (s.before core i) (fun last => [.storeD a v tick.toNat last]) [] ∧
    ∀ (d : Dev) (last : Nat), d.emitOut PageOps.real core.val (.storeD a v tick.toNat last) = f d

/-- No stored word of a hopper needs a correction or is uncorrectable. -/
def Hopper.clean (h : Hopper) : Prop :=
  (∀ w ∈ h.log, w.tag = .good) ∧ (∀ w ∈ h.rest, w.tag = .good) ∧ ∀ i ∈ h.ready, ∀ w ∈ i.words, w.2 = .good

/-- The device with one hopper replaced. -/
def Dev.withHop (d : Dev) (n : Nat) (h : Hopper) : Dev := { d with hops := tabSet d.hops n h }

/-- A syllable command that is given no interruption. -/
def uncut : Instr → Bool
  | .rep _ _ (some _) => false
  | .blkmac _ _ _ _ _ _ _ _ (some _) => false
  | .blkmov _ _ _ _ _ _ (some _) => false
  | .blkfill _ _ _ _ _ _ (some _) => false
  | .blkmax _ _ _ _ _ _ _ (some _) => false
  | _ => true

/-- A word of memory that a slot may write: it lies in a window that grants writes. -/
def Dev.mayWrite (d : Dev) (slot m : Nat) : Prop :=
  ∃ w ∈ (d.slotCfg slot).wins, w.wr = true ∧ ∃ a, w.base ≤ a ∧ a ≤ w.limit ∧ m = memAddr slot a

end Sys2Proof.Machine
end

