-- ==== Sys2Proof/Safety/HostCommands.lean ====
section
/-! DEFINITION. Terms for statements about host commands and packets of the host link. -/

namespace Sys2Proof.Machine

/-- A host command just taken from its hopper. -/
def cmdOf (hop tag prio typ : Nat) (args : List DW) : Cmd :=
  { hop := hop, tag := tag, prio := prio, typ := typ, args := args, stage := .work, listAddr := 0, count := 0, descs := []
    need := 0, asked := 0, data := [], ahead := [], committed := false, aborted := false, moved := 0, aux := [], poison := false
    later := [] }

/-- The ACTIVE control core takes an item from a command hopper: its header's fields and its payload, all of it stored
correctly. -/
def Dev.Front (d : Dev) (hop tag prio typ : Nat) (args : List DW) : Prop :=
  d.takesCommands = true ∧ ∃ w ws, (d.hop hop).front = some (w :: ws) ∧ w.tag = .good ∧ (∀ x ∈ ws, x.tag = .good) ∧
    w.prio = prio ∧ bitsOf w.val.toNat 18 8 = typ ∧ bitsOf w.val.toNat 7 0 = tag ∧ ws.map (·.val) = args

/-- That item is a command that is accepted (R374), the completion hopper takes reports at once, and FLASH0 is not about to
leave ON where the command is one of flash (R394). -/
def Dev.Commanded (d : Dev) (hop : Fin 4) (tag prio typ : Nat) (args : List DW) : Prop :=
  d.Front hop.val tag prio typ args ∧ d.cmd hop.val tag = none ∧ d.link.out.any (·.writes hop.val tag) = false ∧
    cmdLen typ args.length = true ∧ (cmdOf hop.val tag prio typ args).reservedOk = true ∧ d.CanReport (doneHop hop.val) ∧
    (0x30 ≤ typ → typ ≤ 0x36 → d.stopping (domFlash 0) = false)

/-- A command has completed: its completion waits for room or can be popped, and it is no longer in progress. -/
def Dev.Completed (e : Dev) (hop tag prio typ : Nat) (st : CmdStatus) (reason result : Nat) : Prop :=
  e.Reported (doneHop hop) (doneItem hop tag prio typ st reason false result) ∧ e.cmd hop tag = none

/-- A command is in progress and reads its descriptor list; any number of its bytes may have been asked for. -/
def Dev.ReadsList (e : Dev) (c : Cmd) : Prop :=
  ∃ n, e.cmd c.hop c.tag = some { c.withList with asked := n }

/-- A packet of a type that passes the checks of R360 and R366. -/
def goodPkt (p : Packet) (typ : Nat) : Prop :=
  pktType p = typ ∧ p.crc = crc16 p.hdr p.payload ∧
    (typ = 1 ∨ typ = 3 → p.payload = [] ∧ 1 ≤ pktLen p ∧ pktLen p ≤ 64) ∧
    (¬(typ = 1 ∨ typ = 3) → p.payload.length = pktLen p ∧ pktLen p ≤ 64) ∧ (typ ≠ 5 → typ ≠ 8 → typ ≠ 11 → pktAddr p % 4 = 0) ∧
    (typ ≠ 8 → ∀ v ∈ p.payload, v.extractLsb' 28 4 = 0#4)

/-- The link is active, and HOSTLINK does not leave ON. -/
def Dev.linkHere (d : Dev) : Prop := d.linkActive = true ∧ d.stopping domLink = false

/-- The link takes requests, and no host access waits. -/
def Dev.linkFree (d : Dev) : Prop := d.linkHere ∧ d.link.regQ = [] ∧ d.link.memQ = []

/-- The device once the Adapter's retries of a packet are counted (R368). -/
def Dev.retried (d : Dev) (p : Packet) : Dev :=
  d.countSN Reg.HOSTLINK.RETRY_CNT.COUNT Reg.HOSTLINK.RETRY_CNT.OVF 0 0 p.retries

/-- The device once a host request has been counted in the order of arrival. -/
def Dev.numbered (d : Dev) : Dev := { d with link := { d.link with seq := d.link.seq + 1 } }

/-- A packet has been sent. -/
def Dev.Sent (d : Dev) (p : Packet) : Prop := ∃ x ∈ d.link.sent, x.pkt = p

/-- Nothing that waits acts after a command: no completion waits, and HRB_N does not rise. -/
def Dev.still (d : Dev) : Prop := d.ctrl.doneQ = [] ∧ (d.isOn domLink = false ∨ d.attnW = 0)

/-- A register that shows no other state and whose write does nothing beside changing it. -/
def plainReg (page off : Nat) : Bool :=
  page ≠ 0x002 && page ≠ 0x0F0 && (regRow page off).isSome && 0x020 ≤ off && off < 0x800 && off % 4 = 0 &&
    ! [0x001100, 0x030040, 0x030044, 0x050068, 0x050070, 0x079030, 0x079034, 0x090020, 0x090064, 0x09006C, 0x090074,
      0x090100, 0x091020, 0x0A0034].contains (regKey page off) && !(0x040 ≤ page && page ≤ 0x04F && off = 0x048)

/-- A boundary must follow for a change of the region map to be seen (R317); with no frame clock it is seen at once. -/
def Dev.MapsTo (d : Dev) (r : Nat) (m : MapEntry) : Prop :=
  if d.clockRuns then ∃ b, (r, m, b) ∈ d.flash.pend else d.region r = m

/-- The commands in progress are of the table of R376, and the rings of streams lie in the attack cache (R266). -/
def Dev.Sound (d : Dev) : Prop :=
  (∀ c ∈ d.cmds, c.typ ∈ cmdTypes) ∧ ∀ r ∈ d.stoker.streams, inAcc r.desc.ringAddr (r.desc.rc * 1168) = true

end Sys2Proof.Machine
end

