-- ==== Sys2Proof/Certificates/Slice0/Obligations.lean ====
section
/-! DEFINITION. The statements about this model. A statement about a syllable takes its command as what its core fetches,
and its effects at its issue (log 12, 131). -/

open Sys2Proof
open Sys2Proof.Machine


/-! ### The machine -/

/-- One step takes the command at the front of the queue and runs it with the rest; on an empty queue it waits.
Every command answers a next state and leaves the commands that wait, whatever the state.
The model's choices in it: log 1, 2, 6. -/
def Obligations.QueueInOrder : Prop :=
  ((∀ (s : State) (c : Instr) (rest : List Instr),
    step { s with pending := c :: rest } = exec c { s with pending := rest }) ∧
  ∀ s : State, s.pending = [] → step s = .next s) ∧
  (∀ (i : Instr) (s : State), ∃ t, exec i s = .next t ∧ t.pending = s.pending)

/-- R103, R104, R107, R109 and R126: the decoder reads every well-formed syllable back from its word. -/
def Obligations.SyllablesDecode : Prop :=
  ∀ (i : Instr) (x : Ctx) (w : DW), i.ctx? = some x → syllOk i = true → uncut i = true → encodeSyll i = some w →
    decodeSyll x.core x.tick w = some i

/-- Words of the specification's worked encodings decode to the syllables they stand for. -/
def Obligations.WorkedEncodings : Prop :=
  ∀ (k : CoreId) (n : BitVec 10),
    let x : Ctx := ⟨k, true, n⟩
    let y : Ctx := ⟨k, false, n⟩
    decodeSyll k n 0x9001844#28 = some (.add x 3 1 2) ∧
    decodeSyll k n 0x8012FF4#28 = some (.br x 2 0xFF4#12) ∧
    decodeSyll k n 0x302909C#28 = some (.mpy y ⟨true, 2, 8, 9, true, true⟩) ∧
    decodeSyll k n 0xC003A05#28 = some (.ldw x ⟨7, 2, 0, 5⟩) ∧
    decodeSyll k n 0x950510A#28 = some (.div x 10 4 5) ∧
    decodeSyll k n 0x501000F#28 = some (.rep y (.imm 15) none) ∧
    decodeSyll k n 0x2010844#28 = some (.mac y ⟨false, 0, 4, 4, false, true⟩) ∧
    decodeSyll k n 0xC032080#28 = some (.ldp x ⟨4, 0, 2, 0⟩)

/-- R30 and R94, with the model's form of memory: a syllable of a DSP core keeps the canonical form of memory, whatever
it leads to (the form itself is the model's, not the specification's). The model's choices in it: log 7. -/
def Obligations.MemoryFormKept : Prop :=
  ∀ (s t : State) (x : Ctx) (i : Instr), i.ctx? = some x → x.core.val < 64 → Memory.wf s.dev.mem = true →
    step { s with pending := i :: s.pending } = .next t → Memory.wf t.dev.mem = true

/-- R424, R425 and R453: while PORST_N is low only AON is powered, no run exists, no hopper holds a word, no source
is pending and the TAP selects IDCODE. The canonical form of memory at reset (the form is the model's).
The model's choices in it: log 4, 5, 7. -/
def Obligations.ResetState : Prop :=
  (let d := State.reset.dev
  State.reset.pending = [] ∧ (∀ n, d.isOn n = decide (n = 0)) ∧ d.aon.stage = .held ∧ (∀ n, (d.core n).run = .dormant) ∧
    d.loader.run = none ∧ (∀ n, (d.hop n).fill = 0) ∧ (∀ t, tabGet 0#32 d.router.pendP t = 0#32) ∧ d.router.pendS = [] ∧
    d.tap.ir = .idcode ∧ d.warm = [] ∧ d.Sound) ∧
  (Memory.wf State.reset.dev.mem = true ∧ ∀ a, State.reset.dev.wAt a = 0#14)

/-- R29, R56 and R94: a bundle of one syllable at U changes no word of memory but words of the attack cache that a
stream start zeroes, words that a read finds uncorrectable, and output samples that a discarded run takes back; and what
it leaves in the damper stores to nothing but the write windows of its slot. Stated where no older output waits.
The model's choices in it: log 7, 12, 13. -/
def Obligations.UserIsolation : Prop :=
  ∀ (s t : State) (x : Ctx) (i : Instr), i.ctx? = some x → x.core.val < 64 → (s.at x).priv = 0 → s.Stands x i →
    s.dev.Sound → s.dev.hostIdle → (∀ h ∈ s.dev.heldOf x.core.val, h.outs = []) → exec i s = .next t →
      let cache (m : Nat) : Prop := 0x2000000 ≤ m ∧ m < 0x4000000
      (∀ m, t.dev.wAt m ≠ s.dev.wAt m → s.dev.mayWrite x.core.val m ∨ cache m ∨ s.dev.tagAt m = .uncorrectable ∨
        ∃ n, n < 64 ∧ m ∈ (s.dev.core n).overwrote.map (·.1)) ∧
      ∀ h ∈ t.dev.heldOf x.core.val, ∀ o ∈ h.outs, ∀ (e : Dev) (m : Nat), e.Sound →
        (e.emitOut PageOps.real x.core.val o).wAt m ≠ e.wAt m → s.dev.mayWrite x.core.val m ∨ cache m

/-- R266, R374 and R376: every command in progress has a TYPE of the table of commands and the ring of every stream lies in the
attack cache, and every step keeps that. -/
def Obligations.CommandsAndRingsKept : Prop :=
  ∀ s t : State, s.dev.Sound → step s = .next t → t.dev.Sound
/-! ### Syllables of the ALU unit -/

/-- R136, rows ADD to SUBS and CMP, with the flags of R130. R136, rows AND to ANDN, TST, MIN, MAX and NOT. R136,
rows NEG to ABSS and NORM to PACK, with R139 at the minimum. -/
def Obligations.ArithmeticAndLogic : Prop :=
  (∀ (s : State) (x : Ctx) (d a b : BitVec 5),
    let A := (s.at x).d a
    let B := (s.at x).d b
    let c : Nat := if (s.at x).c then 1 else 0
    (s.untrapped x 28 (A.toInt + B.toInt) → Puts s x (.add x d a b) d (wrap 28 (A.toInt + B.toInt))
      (some (decide (2 ^ 28 ≤ A.toNat + B.toNat))) (some (!fits 28 (A.toInt + B.toInt)))) ∧
    (s.untrapped x 28 (A.toInt + B.toInt + c) → Puts s x (.adc x d a b) d (wrap 28 (A.toInt + B.toInt + c))
      (some (decide (2 ^ 28 ≤ A.toNat + B.toNat + c))) (some (!fits 28 (A.toInt + B.toInt + c)))) ∧
    (s.untrapped x 28 (A.toInt - B.toInt) → Puts s x (.sub x d a b) d (wrap 28 (A.toInt - B.toInt))
      (some (decide (B.toNat ≤ A.toNat))) (some (!fits 28 (A.toInt - B.toInt)))) ∧
    (s.untrapped x 28 (A.toInt - B.toInt - (1 - c)) → Puts s x (.sbc x d a b) d (wrap 28 (A.toInt - B.toInt - (1 - c)))
      (some (decide (B.toNat + (1 - c) ≤ A.toNat))) (some (!fits 28 (A.toInt - B.toInt - (1 - c))))) ∧
    Puts s x (.adds x d a b) d (sat 28 (A.toInt + B.toInt)) (some (decide (2 ^ 28 ≤ A.toNat + B.toNat)))
      (some (!fits 28 (A.toInt + B.toInt))) (!fits 28 (A.toInt + B.toInt)) ∧
    Puts s x (.subs x d a b) d (sat 28 (A.toInt - B.toInt)) (some (decide (B.toNat ≤ A.toNat)))
      (some (!fits 28 (A.toInt - B.toInt))) (!fits 28 (A.toInt - B.toInt)) ∧
    Compares s x (.cmp x a b) (wrap 28 (A.toInt - B.toInt)) (some (decide (B.toNat ≤ A.toNat)))
      (some (!fits 28 (A.toInt - B.toInt)))) ∧
  (∀ (s : State) (x : Ctx) (d a b : BitVec 5),
    let A := (s.at x).d a
    let B := (s.at x).d b
    Puts s x (.and x d a b) d (A &&& B) none (some false) ∧
    Puts s x (.or x d a b) d (A ||| B) none (some false) ∧
    Puts s x (.xor x d a b) d (A ^^^ B) none (some false) ∧
    Puts s x (.andn x d a b) d (A &&& ~~~B) none (some false) ∧
    Compares s x (.tst x a b) (A &&& B) none (some false) ∧
    Puts s x (.not x d a) d (~~~A) none (some false) ∧
    Puts s x (.min x d a b) d (BitVec.ofInt 28 (min A.toInt B.toInt)) none none ∧
    Puts s x (.max x d a b) d (BitVec.ofInt 28 (max A.toInt B.toInt)) none none) ∧
  (∀ (s : State) (x : Ctx) (d a b : BitVec 5),
    let A := (s.at x).d a
    let B := (s.at x).d b
    (s.untrapped x 28 (-A.toInt) → Puts s x (.neg x d a) d (wrap 28 (-A.toInt)) (some (decide (A = 0#28)))
      (some (decide (A.toInt = minOf 28)))) ∧
    Puts s x (.negs x d a) d (sat 28 (-A.toInt)) (some (decide (A = 0#28))) (some (decide (A.toInt = minOf 28)))
      (decide (A.toInt = minOf 28)) ∧
    (s.untrapped x 28 (A.toInt.natAbs) → Puts s x (.abs x d a) d (wrap 28 A.toInt.natAbs) none
      (some (decide (A.toInt = minOf 28)))) ∧
    Puts s x (.abss x d a) d (sat 28 A.toInt.natAbs) none (some (decide (A.toInt = minOf 28)))
      (decide (A.toInt = minOf 28)) ∧
    (∀ n : Nat, n ≤ 27 → (∀ j, j < n → A.getLsbD (26 - j) = A.msb) → (n < 27 → A.getLsbD (26 - n) ≠ A.msb) →
      Computes s x (.norm x d a) [(d.toNat, BitVec.ofNat 28 n)] [] ⟨some (decide (n = 0)), some false, none, none, false, false⟩) ∧
    Gives s x (.sxw x d a) d ((A.extractLsb' 0 14).signExtend 28) ∧
    Gives s x (.pack x d a b) d (A.extractLsb' 0 14 ++ B.extractLsb' 0 14))

/-- R140, for every shift and rotate of R136, R137 and R138. -/
def Obligations.ShiftsAndRotates : Prop :=
  ∀ (s : State) (x : Ctx) (d a b : BitVec 5) (imm : BitVec 6) (r : DW) (c : Option Bool) (hd ha hb : Half)
    (rw : W),
    let A := (s.at x).d a
    let B := (s.at x).d b
    (LslRow A (countOf B) r c → Puts s x (.lsl x d a b) d r c (some false)) ∧
    (LsrRow A (countOf B) r c → Puts s x (.lsr x d a b) d r c (some false)) ∧
    (AsrRow A (countOf B) r c → Puts s x (.asr x d a b) d r c (some false)) ∧
    (RorRow A (countOf B) r c → Puts s x (.ror x d a b) d r c (some false)) ∧
    (RolRow A (countOf B) r c → Puts s x (.rol x d a b) d r c (some false)) ∧
    (LslRow A imm.toNat r c → Puts s x (.lsli x d a imm) d r c (some false)) ∧
    (LsrRow A imm.toNat r c → Puts s x (.lsri x d a imm) d r c (some false)) ∧
    (AsrRow A imm.toNat r c → Puts s x (.asri x d a imm) d r c (some false)) ∧
    (RorRow A imm.toNat r c → Puts s x (.rori x d a imm) d r c (some false)) ∧
    (RolRow A imm.toNat r c → Puts s x (.roli x d a imm) d r c (some false)) ∧
    (LslRow ((s.at x).half ha) (countOf ((s.at x).half hb)) rw c → PutsHalf s x (.lslw x hd ha hb) hd rw c (some false)) ∧
    (LsrRow ((s.at x).half ha) (countOf ((s.at x).half hb)) rw c → PutsHalf s x (.lsrw x hd ha hb) hd rw c (some false)) ∧
    (AsrRow ((s.at x).half ha) (countOf ((s.at x).half hb)) rw c → PutsHalf s x (.asrw x hd ha hb) hd rw c (some false)) ∧
    (RorRow ((s.at x).half ha) (countOf ((s.at x).half hb)) rw c → PutsHalf s x (.rorw x hd ha hb) hd rw c (some false))

/-- R141, where no trap of R142 applies: the truncated quotient and the remainder, and the edge cases of the table. -/
def Obligations.Division : Prop :=
  ∀ (s : State) (x : Ctx) (d a b : BitVec 5) (q r : DW),
    let A := (s.at x).d a
    let B := (s.at x).d b
    let out (v dz : Bool) : Prop := Computes s x (.div x d a b) [(d.toNat, q), (d.toNat + 1, r)] []
      ⟨some (decide (q = 0#28)), some q.msb, some false, some v, false, dz⟩
    (B.toInt ≠ 0 → ¬(A.toInt = minOf 28 ∧ B.toInt = -1) → q.toInt = A.toInt.tdiv B.toInt →
      r.toInt = A.toInt - q.toInt * B.toInt → out false false) ∧
    ((s.at x).traps.getLsbD 1 = false → A.toInt = minOf 28 → B.toInt = -1 → q = 0x8000000#28 → r = 0#28 →
      out true false) ∧
    ((s.at x).traps = 0#2 → B.toInt = 0 → 0 ≤ A.toInt → q = 0x7FFFFFF#28 → r = A → out true true) ∧
    ((s.at x).traps = 0#2 → B.toInt = 0 → A.toInt < 0 → q = 0x8000000#28 → r = A → out true true)

/-- R137, the rows that are no shifts. -/
def Obligations.ImmediateForms : Prop :=
  ∀ (s : State) (x : Ctx) (d a : BitVec 5) (i6 : BitVec 6) (i11 : BitVec 11),
    let A := (s.at x).d a
    let D := (s.at x).d d
    (s.untrapped x 28 (A.toInt + i6.toInt) → Puts s x (.addi x d a i6) d (wrap 28 (A.toInt + i6.toInt))
      (some (decide (2 ^ 28 ≤ A.toNat + (i6.signExtend 28).toNat))) (some (!fits 28 (A.toInt + i6.toInt)))) ∧
    Compares s x (.cmpi x a i6) (wrap 28 (A.toInt - i6.toInt)) (some (decide ((i6.signExtend 28).toNat ≤ A.toNat)))
      (some (!fits 28 (A.toInt - i6.toInt))) ∧
    Gives s x (.movi x d i11) d (wrap 28 i11.toInt) ∧
    Gives s x (.movh x d i11) d (i11 ++ D.extractLsb' 0 17) ∧
    Gives s x (.movm x d i11) d (D.extractLsb' 17 11 ++ i11 ++ D.extractLsb' 0 6) ∧
    Gives s x (.movl x d i6) d (D.extractLsb' 6 22 ++ i6)

/-- R138 with R130 and R139 at 14 bits, but for its shifts. -/
def Obligations.WordForms : Prop :=
  ∀ (s : State) (x : Ctx) (d a b : Half),
    let A := (s.at x).half a
    let B := (s.at x).half b
    (s.untrapped x 14 (A.toInt + B.toInt) → PutsHalf s x (.addw x d a b) d (wrap 14 (A.toInt + B.toInt))
      (some (decide (2 ^ 14 ≤ A.toNat + B.toNat))) (some (!fits 14 (A.toInt + B.toInt)))) ∧
    (s.untrapped x 14 (A.toInt - B.toInt) → PutsHalf s x (.subw x d a b) d (wrap 14 (A.toInt - B.toInt))
      (some (decide (B.toNat ≤ A.toNat))) (some (!fits 14 (A.toInt - B.toInt)))) ∧
    PutsHalf s x (.addsw x d a b) d (sat 14 (A.toInt + B.toInt)) (some (decide (2 ^ 14 ≤ A.toNat + B.toNat)))
      (some (!fits 14 (A.toInt + B.toInt))) (!fits 14 (A.toInt + B.toInt)) ∧
    PutsHalf s x (.subsw x d a b) d (sat 14 (A.toInt - B.toInt)) (some (decide (B.toNat ≤ A.toNat)))
      (some (!fits 14 (A.toInt - B.toInt))) (!fits 14 (A.toInt - B.toInt)) ∧
    Compares s x (.cmpw x a b) (wrap 14 (A.toInt - B.toInt)) (some (decide (B.toNat ≤ A.toNat)))
      (some (!fits 14 (A.toInt - B.toInt))) ∧
    (s.untrapped x 14 (-A.toInt) → PutsHalf s x (.negw x d a) d (wrap 14 (-A.toInt)) (some (decide (A = 0#14)))
      (some (decide (A.toInt = minOf 14)))) ∧
    PutsHalf s x (.negsw x d a) d (sat 14 (-A.toInt)) (some (decide (A = 0#14))) (some (decide (A.toInt = minOf 14)))
      (decide (A.toInt = minOf 14)) ∧
    (s.untrapped x 14 A.toInt.natAbs → PutsHalf s x (.absw x d a) d (wrap 14 A.toInt.natAbs) none
      (some (decide (A.toInt = minOf 14)))) ∧
    PutsHalf s x (.abssw x d a) d (sat 14 A.toInt.natAbs) none (some (decide (A.toInt = minOf 14)))
      (decide (A.toInt = minOf 14)) ∧
    PutsHalf s x (.minw x d a b) d (BitVec.ofInt 14 (min A.toInt B.toInt)) none none ∧
    PutsHalf s x (.maxw x d a b) d (BitVec.ofInt 14 (max A.toInt B.toInt)) none none ∧
    Computes s x (.movw x d a) [(d.reg.toNat, putHalf ((s.at x).g d.reg.toNat) d.hi A)] [] FlagRow.dash

/-! ### Syllables of the MAC units -/

/-- R143 and R144, the rows that multiply. R143 and R145, the rows EXT, EXTW, CLRA and LDA. -/
def Obligations.MultiplyAccumulateAndExtract : Prop :=
  (∀ (s : State) (x : Ctx) (o : MacOps),
    let A := (s.at x).d o.a
    let B := (s.at x).d o.b
    let low (v : DW) : Int := (v.extractLsb' 0 14).toInt
    Accumulates s x (.mac x o) o.acc (wrap 70 (((s.at x).a o.acc).toInt + productOf A.toInt B.toInt o.frac o.sub)) ∧
    Accumulates s x (.mpy x o) o.acc (wrap 70 (productOf A.toInt B.toInt o.frac o.sub)) ∧
    Accumulates s x (.macw x o) o.acc (wrap 70 (((s.at x).a o.acc).toInt + productOf (low A) (low B) o.frac o.sub)) ∧
    Accumulates s x (.mpyw x o) o.acc (wrap 70 (productOf (low A) (low B) o.frac o.sub))) ∧
  (∀ (s : State) (x : Ctx) (u : Bool) (d : BitVec 5) (acc : BitVec 2) (n : BitVec 6) (saturate rnd : Bool),
    let v := ((s.at x).a acc).toInt
    let clip (w : Nat) : FlagRow := FlagRow.dash.clipped (saturate && !fits w (scaled v n.toNat rnd))
    Computes s x (.ext x u d acc n saturate rnd) [(d.toNat, extracted 28 v n.toNat saturate rnd)] [] (clip 28) ∧
    Computes s x (.extw x u d acc n saturate rnd)
      [(d.toNat, putHalf ((s.at x).d d) false (extracted 14 v n.toNat saturate rnd))] [] (clip 14) ∧
    Accumulates s x (.clra x u acc) acc 0#70 ∧
    Accumulates s x (.lda x u d acc n) acc (wrap 70 (((s.at x).d d).toInt * 2 ^ n.toNat)))

/-! ### Syllables of the CTL unit -/

/-- R131 and R135, MOV; R90 and R91, what SYS reads and at which levels. R90 and R91, what SYS writes and at which
levels; R92 for the loop registers. -/
def Obligations.SystemRegisters : Prop :=
  (∀ (s : State) (x : Ctx) (d : BitVec 5) (dst src : BitVec 6) (a : Fin 4) (k : Fin 3),
    let c := s.at x
    let reads (n : Nat) (v : DW) : Prop := Gives s x (.sys x d (BitVec.ofNat 6 n) false) d v
    Computes s x (.mov x dst src) [(dst.toNat, c.g src.toNat)] [] FlagRow.dash ∧
    reads 0x00 c.lc ∧ reads 0x01 c.ls ∧ reads 0x02 c.le ∧ reads 0x03 c.lc1 ∧ reads 0x04 c.ls1 ∧ reads 0x05 c.le1 ∧
    reads 0x08 c.ps ∧ reads 0x09 (BitVec.ofNat 28 c.shadow.length) ∧ reads 0x0A c.lprog ∧ reads 0x0B 1#28 ∧
    (c.priv ≠ 0 → reads 0x10 c.epc ∧ reads 0x11 c.ecause ∧ reads 0x12 c.eval ∧ reads 0x13 c.estat ∧ reads 0x14 c.eseal) ∧
    (c.priv = 0 → ∀ n, 0x10 ≤ n → n ≤ 0x14 → Raises s x (.sys x d (BitVec.ofNat 6 n) false) 0x03#8 0#15
      (wordOf (.sys x d (BitVec.ofNat 6 n) false))) ∧
    reads (0x20 + 3 * a.val + k.val) (accRead (c.a (BitVec.ofNat 2 a.val)) k)) ∧
  (∀ (s : State) (x : Ctx) (d : BitVec 5) (a : Fin 4) (k : Fin 3),
    let c := s.at x
    let v := c.d d
    let put (n : Nat) (c' : Core) : Prop := Passes s x (.sys x d (BitVec.ofNat 6 n) true) c'
    let bad (n : Nat) : Prop := Raises s x (.sys x d (BitVec.ofNat 6 n) true) 0x03#8 0#15
      (wordOf (.sys x d (BitVec.ofNat 6 n) true))
    put 0x00 { c with lc := v } ∧ put 0x01 { c with ls := v } ∧ put 0x02 { c with le := v } ∧
    put 0x03 { c with lc1 := v } ∧ put 0x04 { c with ls1 := v } ∧ put 0x05 { c with le1 := v } ∧
    (c.priv = 0 → put 0x08 { c with ps := psAtU c.ps v }) ∧
    (c.priv ≠ 0 → v.extractLsb' 10 2 ≠ 2#2 → (c.priv = 1 → v.extractLsb' 10 2 ≠ 3#2) →
      put 0x08 { c with ps := psAbove c.ps v }) ∧
    (c.priv ≠ 0 → v.extractLsb' 10 2 = 2#2 → bad 0x08) ∧
    (c.priv = 1 → v.extractLsb' 10 2 = 3#2 → bad 0x08) ∧
    (c.priv ≠ 0 → put 0x0A { c with lprog := v } ∧ put 0x10 { c with epc := v &&& 0x0007FFF#28 } ∧
      put 0x11 { c with ecause := v &&& 0x87FFFFF#28 } ∧ put 0x12 { c with eval := v } ∧
      put 0x13 { c with estat := v &&& 0xFC03FFF#28 }) ∧
    (c.priv = 0 → bad 0x0A ∧ bad 0x10 ∧ bad 0x11 ∧ bad 0x12 ∧ bad 0x13) ∧
    bad 0x09 ∧ bad 0x0B ∧ bad 0x14 ∧
    put (0x20 + 3 * a.val + k.val)
      { c with acc := tabSet c.acc a.val (accWith (c.a (BitVec.ofNat 2 a.val)) k v) })

/-- R110, R111, R131 and R132: BR and JR, taken and not taken; R117 for the loops that a target leaves.
The model's choices in it: log 150, 165. -/
def Obligations.BranchesAndJumps : Prop :=
  ∀ (s : State) (x : Ctx) (cond : BitVec 4) (disp : BitVec 12) (p : BitVec 3),
    let c := s.at x
    let goes (i : Instr) (t : DW) : Prop := s.Stands x i → ∃ c1, c.Left t c1 ∧
      RunsOn s x i (s.ready x i) [] fun c' => ({ c1 with fetch := t }).Same c' ∧ (s.own x i).Idle c'
    (c.Takes cond → goes (.br x cond disp) (c.fetch + disp.signExtend 28) ∧
      goes (.jr x cond p) (((c.p p).extractLsb' 0 15).setWidth 28)) ∧
    (¬c.Takes cond → Passes s x (.br x cond disp) c ∧ Passes s x (.jr x cond p) c)

/-- R112 and R113: CALL, CALLR and RET, with the exceptions of the shadow stack. CALL's store of the return address waits
for its release; the core's own loads read it at once. -/
def Obligations.CallsAndReturns : Prop :=
  ∀ (s : State) (x : Ctx) (disp : BitVec 12) (p : BitVec 3),
    let c := s.at x
    let sp := c.g 0x27 - 2#28
    let ra := c.fetch + 1#28
    let k := x.core.val
    let m := memAddr k sp.toNat
    let back := (s.seen x (.ret x)).dwAt (memAddr k (c.g 0x27).toNat)
    let calls (i : Instr) (t : DW) : Prop :=
      (c.shadow.length < 32 → s.Reaches x i true sp 2 → s.Stands x i → ∃ last,
        RunsOn s x i (s.ready x i) [.storeD sp ra x.tick.toNat last] (fun c' => (s.own x i).Idle c' ∧
          ({ c with gr := tabSet c.gr 0x27 sp, shadow := ra :: c.shadow, fetch := t }).Same c') ∧
        Writes k (.storeD sp ra x.tick.toNat last) fun d => if d.inRunning m then [] else wordsOf m ra) ∧
      (32 ≤ c.shadow.length → Raises s x i 0x0A#8 0#15 t)
    calls (.call x disp) (c.fetch + disp.signExtend 28) ∧
    calls (.callr x p) (((c.p p).extractLsb' 0 15).setWidth 28) ∧
    (∀ top rest, c.shadow = top :: rest → s.Reaches x (.ret x) false (c.g 0x27) 2 →
      (∀ n, touches x (c.g 0x27) 2 n → (s.seen x (.ret x)).tagAt n = .good) →
      (back = top → Leaves s x (.ret x) { c with gr := tabSet c.gr 0x27 (c.g 0x27 + 2#28), shadow := rest, fetch := back }) ∧
      (back ≠ top → Raises s x (.ret x) 0x09#8 (top.extractLsb' 0 15) back)) ∧
    (c.shadow = [] → Raises s x (.ret x) 0x0B#8 0#15 (c.g 0x27))

/-- R115 and R116: LOOP starts a loop, skips it or raises 0x02; and what the end of an iteration does, shown of NOP.
The model's choices in it: log 150. -/
def Obligations.Loops : Prop :=
  ∀ (s : State) (x : Ctx) (count : LoopCount) (e : BitVec 7),
    let c := s.at x
    let i : Instr := .loop x count e
    let n : DW := match count with | .imm k => k.setWidth 28 + 1#28 | .reg r => c.d r
    let ls : DW := c.fetch + 1#28
    let le := ls + e.setWidth 28
    (c.ld = 2 → Raises s x i 0x02#8 0#15 (wordOf i)) ∧
    (c.ld ≤ 1 → n = 0#28 → Leaves s x i { c with fetch := le + 1#28 }) ∧
    (c.ld = 0 → n ≠ 0#28 →
      Leaves s x i { c with lc := n, ls := ls, le := le, ps := psLd c.ps 1#2, fetch := c.fetch + 1 }) ∧
    (c.ld = 1 → n ≠ 0#28 →
      Leaves s x i { c with lc := n, ls := ls, le := le, lc1 := c.lc, ls1 := c.ls, le1 := c.le, ps := psLd c.ps 2#2,
                            fetch := c.fetch + 1 }) ∧
    Passes s x (.nop x) c ∧
    ((c.ld = 1 ∨ c.ld = 2) → c.le.toNat = c.fetch.toNat → s.Stands x (.nop x) →
      ∃ c1, c.Iterated (c.fetch + 1) c1 ∧ RunsOn s x (.nop x) (s.ready x (.nop x)) [] fun c' =>
        c1.Same c' ∧ (s.own x (.nop x)).Idle c')

/-- R133 and R46, the syllables that end a run or a phase; R134, IFLUSH. What else changes is stated where only bundles
without outputs wait in the damper, no host access waits, and no other slot shares the physical core: then the compares
of the older bundles are over too. The model's choices in it: log 133. -/
def Obligations.WaitBarrierAndFlush : Prop :=
  ∀ (s : State) (x : Ctx) (b : BitVec 11),
    let c := s.at x
    let k := x.core.val
    let on : Core := { c with fetch := c.fetch + 1 }
    let d (i : Instr) := s.ready x i
    let idle (i : Instr) : Prop := (d i).link.regQ = [] ∧ (d i).link.memQ = []
    let alone (i : Instr) : Prop := idle i ∧ s.Clear x i ∧ (d i).mate k = none
    let none' (l : List HeldOut) : Prop := l = []
    let wakes (i : Instr) : Prop := (((d i).targetOf k).map (d i).anyPrivate).getD false = true
    let waits : Prop := ((d (.barrier x b)).barrierMask b.toNat).testBit k = true ∧ b.toNat ∉ (d (.barrier x b)).loader.complete
    Passes s x (.iflush x) c ∧
    (k < 64 → c.priv = 0 → c.midLoop → alone (.wait x) → s.Stands x (.wait x) →
      RunsAll s x (.wait x) ((d (.wait x)).modHearth (k / 4) fun h => { h with finish := Nat.max h.finish x.tick.toNat }) none'
        ({ on with run := .waiting, idle := true }).Same) ∧
    (k < 64 → c.priv = 0 → idle (.wait x) → s.Stands x (.wait x) → Ends s x (.wait x) fun c' => c'.run = .waiting ∧ c'.idle = true) ∧
    (k < 64 → c.priv = 1 → Raises s x (.wait x) 0x03#8 0#15 (wordOf (.wait x))) ∧
    ((64 ≤ k ∨ c.priv = 3) → c.midLoop → ¬wakes (.wait x) → alone (.wait x) → s.Stands x (.wait x) →
      RunsAll s x (.wait x) (d (.wait x)) none' ({ on with run := .asleep }).Same) ∧
    ((64 ≤ k ∨ c.priv = 3) → wakes (.wait x) → idle (.wait x) → Passes s x (.wait x) c) ∧
    ((64 ≤ k ∨ ((d (.barrier x b)).barrierMask b.toNat).testBit k = false) → idle (.barrier x b) →
      Passes s x (.barrier x b) c) ∧
    (k < 64 → waits → c.midLoop → alone (.barrier x b) → s.Stands x (.barrier x b) →
      RunsAll s x (.barrier x b)
        ((d (.barrier x b)).modLoader fun l =>
          { l with arrived := tabSet l.arrived b.toNat (setInsert (tabGet [] l.arrived b.toNat) k) })
        none' ({ on with run := .barrier b.toNat }).Same) ∧
    (k < 64 → waits → idle (.barrier x b) → s.Stands x (.barrier x b) → Ends s x (.barrier x b) fun c' => c'.run = .barrier b.toNat) ∧
    (k < 64 → ((d (.barrier x b)).barrierMask b.toNat).testBit k = true → b.toNat ∈ (d (.barrier x b)).loader.complete →
      idle (.barrier x b) → s.Stands x (.barrier x b) → Ends s x (.barrier x b) fun c' => c'.run = .running ∧ c'.phase = b.toNat)

/-- R131, R134, R203 to R206 and R214: SVC and BRK raise their exceptions, taken where the level says. R210 to R212:
RETX returns where ESEAL allows it, and raises 0x04 elsewhere; R101 at U.
The model's choices in it: log 11, 136, 146. -/
def Obligations.ExceptionEntryAndReturn : Prop :=
  (∀ (s : State) (x : Ctx) (n : BitVec 11),
    Raises s x (.svc x n) 0x11#8 0#15 (wordOf (.svc x n)) ∧ Raises s x (.brk x n) 0x10#8 0#15 (wordOf (.brk x n)) ∧
      (wordOf (.svc x n)).extractLsb' 0 11 = n ∧ (wordOf (.brk x n)).extractLsb' 0 11 = n) ∧
  (∀ (s : State) (x : Ctx),
    let c := s.at x
    let want := c.estat.extractLsb' 10 2
    let rank (l : BitVec 2) : Nat := if l = 3#2 then 2 else l.toNat
    let ok : Prop := want ≠ 2#2 ∧ rank want ≤ rank (c.eseal.extractLsb' 10 2)
    (c.priv ≠ 0 → ok → Leaves s x (.retx x)
      { c with ps := c.ps.extractLsb' 12 16 ++ (c.estat.extractLsb' 0 12 &&& 0xD3F#12)
               fetch := (c.epc.extractLsb' 0 15).setWidth 28 }) ∧
    (c.priv ≠ 0 → (x.core.val < 64 → c.priv = 1) → ¬ok → Leaves s x (.retx x)
      { c with ecause := 0x0000004#28, eval := c.fetch, ps := c.ps &&& ~~~0x0000100#28
               fetch := (s.ready x (.retx x)).handlerOf x.core.val }) ∧
    (c.priv = 0 → Raises s x (.retx x) 0x03#8 0#15 (wordOf (.retx x))))

/-- R94 and R206, orders 1 to 5 of the checks on data, shown of LD and ST: 0x08, 0x07, 0x06 and 0x0C. R142 and R206:
the traps of DIV and of an arithmetic overflow, shown of DIV, ADD and ADDW. R105, R107, R126 and R206: a word alone
in its bundle that no instruction is encoded by raises 0x01, or 0x02 where it makes no bundle; EVAL receives it.
Stated with nothing in the damper and no register to correct. The model's choices in it: log 11, 148. -/
def Obligations.ExceptionsRaised : Prop :=
  (∀ (s : State) (x : Ctx) (o : LsOps),
    let c := s.at x
    let a := c.ea o
    let k := x.core.val
    let fault (P : Dev → Prop) (cause : BitVec 8) (detail : BitVec 15) : Prop :=
      (P (s.ready x (.ld x o)) → Raises s x (.ld x o) cause detail a) ∧
      (P (s.ready x (.st x o)) → Raises s x (.st x o) cause (detail + 1#15) a)
    let dsp := k < 64
    let inMem := ∀ i, i < 2 → InMemory (64 ≤ k) (wOf a i)
    let granted (d : Dev) : Prop := dsp → c.priv ≠ 3 → ∀ i, i < 2 → ∃ w ∈ (d.slotCfg k).wins,
      w.base ≤ wOf a i ∧ wOf a i ≤ w.limit ∧ w.rd = true ∧ w.wr = true
    let outside (d : Dev) : Prop := ∀ w ∈ (d.slotCfg k).wins, a.toNat < w.base ∨ w.limit < a.toNat
    (dsp → 0xD000000 ≤ a.toNat → a.toNat < 0xDFFFFFF → Raises s x (.ld x o) 0x07#8 0#15 a ∧ Raises s x (.st x o) 0x08#8 1#15 a) ∧
    (dsp → 0x4000000 ≤ a.toNat → a.toNat < 0xCFFFFFF → fault (fun _ => True) 0x07#8 0#15) ∧
    (dsp → c.priv ≠ 3 → InMemory False (wOf a 0) → InMemory False (wOf a 1) → fault outside 0x07#8 0#15) ∧
    (inMem → a.getLsbD 0 = true → fault granted 0x06#8 0#15) ∧
    (inMem → a.getLsbD 0 = false → ∀ dom bank, memBank (memAddr k a.toNat) = some (dom, bank) →
      fault (fun d => granted d ∧ d.isCold (memAddr k a.toNat) = true) 0x0C#8 (BitVec.ofNat 15 (dom * 256)))) ∧
  (∀ (s : State) (x : Ctx) (d a b : BitVec 5) (hd ha hb : Half),
    let c := s.at x
    let A := c.d a
    let B := c.d b
    (c.traps.getLsbD 0 = true → B = 0#28 → Raises s x (.div x d a b) 0x0E#8 0#15 (wordOf (.div x d a b))) ∧
    (c.traps.getLsbD 1 = true → A.toInt = minOf 28 → B.toInt = -1 →
      Raises s x (.div x d a b) 0x0F#8 0#15 (wordOf (.div x d a b))) ∧
    (c.traps.getLsbD 1 = true → fits 28 (A.toInt + B.toInt) = false →
      Raises s x (.add x d a b) 0x0F#8 0#15 (wordOf (.add x d a b))) ∧
    (c.traps.getLsbD 1 = true → fits 14 ((c.half ha).toInt + (c.half hb).toInt) = false →
      Raises s x (.addw x hd ha hb) 0x0F#8 0#15 (wordOf (.addw x hd ha hb)))) ∧
  (∀ (s : State) (k : CoreId) (w : DW),
    let i : Instr := .reservedInstruction k [w] false
    decodeSyll k 0#10 w = none → w.getLsbD 27 = true → (s.at (accessCtx k)).weak = [] → s.dev.heldOf k.val = [] →
      (wellFormed [Syl.ofWord w] = true → Raises s (accessCtx k) i 0x01#8 0#15 w) ∧
      (wellFormed [Syl.ofWord w] = false → Raises s (accessCtx k) i 0x02#8 0#15 w))

/-! ### Syllables of the LS and PFX units -/

/-- R95 and R146: the loads, from memory that the checks of R94 let pass, with the pointer that the addressing mode
leaves; a store of the core that waits is read (R153, R156), and a corrected word is delivered like another. R96:
the read-only registers of the slot-local block, as LD reads them. The model's choices in it: log 7. -/
def Obligations.LoadsAndLocalRegisters : Prop :=
  (∀ (s : State) (x : Ctx) (o : LsOps),
    let c := s.at x
    let a := c.ea o
    let p := c.post o.p o.am (o.x.setWidth 3)
    let old := c.g o.d.toNat
    let w (i : Instr) := (s.seen x i).wAt (memAddr x.core.val a.toNat)
    let dw (i : Instr) (k : Nat) := (s.seen x i).dwAt (memAddr x.core.val (a.toNat + k))
    Loads s x (.ldw x o) a 1 ((o.d.toNat, (w (.ldw x o)).signExtend 28) :: p) ∧
    Loads s x (.ldwl x o) a 1 ((o.d.toNat, putHalf old false (w (.ldwl x o))) :: p) ∧
    Loads s x (.ldwh x o) a 1 ((o.d.toNat, putHalf old true (w (.ldwh x o))) :: p) ∧
    Loads s x (.ld x o) a 2 ((o.d.toNat, dw (.ld x o) 0) :: p) ∧
    Loads s x (.ldp x o) a 4 ((o.d.toNat, dw (.ldp x o) 0) :: (o.d.toNat + 1, dw (.ldp x o) 2) :: p)) ∧
  (∀ (s : State) (x : Ctx) (o : LsOps),
    let c := s.at x
    let reads (r : Nat) (v : DW) : Prop := (c.ea o).toNat = 0xF100000 + r →
      Computes s x (.ld x o) ((o.d.toNat, v) :: c.post o.p o.am (o.x.setWidth 3)) [] FlagRow.dash
    x.core.val < 64 →
      reads 0x00 (BitVec.ofNat 28 x.core.val) ∧ reads 0x02 (c.frameNo.extractLsb' 0 28) ∧
      reads 0x04 ((c.frameNo.extractLsb' 28 20).setWidth 28) ∧ reads 0x06 (BitVec.ofNat 28 c.phase) ∧
      reads 0x08 (c.traps.setWidth 28) ∧ (∀ r, 0x0A ≤ r → r < 0x40 → r % 2 = 0 → reads r 0#28) ∧
      reads 0x10A ((s.own x (.ld x o)).timer.setWidth 28))

/-- R29, R95, R98, R146, R151 and R196: the stores, to memory that the checks of R94 let pass. The store waits in the damper;
its release writes the words, where the word lies in no running image slot and, for a store of one W, the DW is not
poisoned. PMOD accesses nothing. -/
def Obligations.StoresToMemory : Prop :=
  ∀ (s : State) (x : Ctx) (o : LsOps) (q : BitVec 3) (am : BitVec 2) (mm : BitVec 3),
    let c := s.at x
    let a := c.ea o
    let p := c.post o.p o.am (o.x.setWidth 3)
    let v := c.g o.d.toNat
    let v' := c.g (o.d.toNat + 1)
    let k := x.core.val
    let tick := x.tick.toNat
    let m := memAddr k a.toNat
    let word (i : Instr) (w : W) : Prop := s.Reaches x i true a 1 →
      Stores s x i p (.storeW a w tick) ∧
      ∀ last, Writes k (.storeW a w tick last) fun d => if d.inRunning m ∨ d.poisonAt m = true then [] else [(m, w)]
    let put (n : Nat) (v : DW) (d : Dev) : Words := if d.inRunning n then [] else wordsOf n v
    word (.stw x o) (v.extractLsb' 0 14) ∧ word (.stwh x o) (v.extractLsb' 14 14) ∧
    (s.Reaches x (.st x o) true a 2 → Stores s x (.st x o) p (.storeD a v tick) ∧
      ∀ last, Writes k (.storeD a v tick last) (put m v)) ∧
    (s.Reaches x (.stp x o) true a 4 → Stores s x (.stp x o) p (.storeP a v v' tick) ∧
      ∀ last, Writes k (.storeP a v v' tick last) fun d => put m v d ++ put (m + 2) v' d) ∧
    Computes s x (.pmod x q am mm) (c.post q am mm) [] FlagRow.dash

/-- R104, R119, R120, R123, R124 and R148, of REP: the prefix waits for the rest of its bundle, which then accumulates
once for each iteration, or from LPROG.DONE on where it resumes; a count above 1,024 raises 0x05. Stated where only bundles
without outputs wait in the damper and no compare failed before. The model's choices in it: log 142. -/
def Obligations.RepeatedBundle : Prop :=
  ∀ (s : State) (x : Ctx) (n : RepCount) (o : MacOps),
    let c := s.at x
    let k := x.core.val
    let rep (cut : Option Nat) : Instr := .rep { x with stop := false } n cut
    let mac : Instr := .mac x o
    let syls : List Syl := [Syl.ofInstr (rep none), Syl.ofInstr mac]
    let d := s.dev.poised PageOps.real k syls
    let own := d.core k
    let count : Nat := match n with | .imm k => k.toNat + 1 | .reg r => (c.d r).toNat
    let resumed : Prop := c.lprog.extractLsb' 26 2 = 1#2
    let left := (c.lprog.extractLsb' 13 13).toNat - (c.lprog.extractLsb' 0 13).toNat
    let product := productOf (c.d o.a).toInt (c.d o.b).toInt o.frac o.sub
    let sum (k : Nat) : Acc := wrap 70 ((c.a o.acc).toInt + (k : Int) * product)
    let issues : Prop := c.run = .running ∧ c.halted = false ∧ c.parked = false ∧ c.fetch.toNat + 1 ≤ 0x3FFF
    let ready : Prop := issues ∧ c.bundle = [rep none] ∧ syllOk mac = true ∧ x.stop = true ∧ (c.atPlace syls).Kin own ∧
      own.readsBad syls = false ∧ own.midway = none
    let clear : Prop := c.retry = false ∧ ∀ h ∈ d.heldOf k, h.outs = [] ∧ h.retried = false
    let done (j : Nat) : Prop := clear → c.ld = 0 ∨ (c.le.toNat ≠ c.fetch.toNat ∧ c.le.toNat ≠ c.fetch.toNat + 1) →
      RunsAll s x mac d (fun l => l = []) fun c' => c.AccAre c' [(o.acc.toNat, sum j)] ∧
        ({ c with acc := c'.acc, lprog := 0#28, fetch := c.fetch + 2 }).Same c' ∧ own.Idle c'
    (issues → c.bundle = [] → ∀ cut, Leads s (rep cut) (s.dev.setCore k { c with bundle := [rep cut] })) ∧
    (ready → ¬resumed → count ≤ 1024 → done count) ∧ (ready → resumed → done left) ∧
    (ready → ¬resumed → 1024 < count → Takes s x mac d 2#3 0x05#8 0#15 (BitVec.ofNat 28 count))

/-- R121, R122, R124 and R148: the long instructions, from element 0 to the end, and that a count of 0 changes no
register; a count above 4,096 raises 0x05. The elements are stated where only bundles without outputs wait in the damper and
no compare failed before. What the core's own loads read afterwards is what was stored; of memory itself, a part of it.
The model's choices in it: log 142. -/
def Obligations.LongInstructions : Prop :=
  ∀ (s : State) (x : Ctx) (n : BitVec 5) (fa fb : BitVec 3) (acc : BitVec 2) (frac circ width abs : Bool),
    let c := s.at x
    let k := x.core.val
    let count := (c.d n).toNat
    let e : Nat := if width then 1 else 2
    let addr (q : BitVec 3) (i : Nat) : DW := circular (c.p q) (c.b q) (if circ then c.l q else 0#28) (BitVec.ofNat 28 (i * e))
    let elem (i : Instr) (q : BitVec 3) (j : Nat) : DW :=
      let m := memAddr k (addr q j).toNat
      if width then ((s.ready x i).wAt m).signExtend 28 else (s.ready x i).dwAt m
    let fresh (i : Instr) : Prop := (s.own x i).midway = none ∧ c.lprog.extractLsb' 26 2 ≠ 2#2
    let mac : Instr := .blkmac x n fa fb acc frac circ width none
    let mov : Instr := .blkmov x n fa fb circ width none
    let fill : Instr := .blkfill x n fa fb circ width none
    let max : Instr := .blkmax x n fa fb abs circ width none
    let total (j : Nat) : Int :=
      ((List.range j).map fun i => productOf (elem mac fa i).toInt (elem mac fb i).toInt frac false).sum
    let mag (v : DW) : Int := if abs then min (v.toInt.natAbs : Int) (if width then maxOf 14 else maxOf 28) else v.toInt
    let peak (v : DW) : Prop := (∃ i, i < count ∧ v.toInt = mag (elem max fa i)) ∧
      ∀ i, i < count → mag (elem max fa i) ≤ v.toInt
    let may (i : Instr) : Prop := fresh i ∧ 1 ≤ count ∧ count ≤ 4096 ∧ s.Stands x i ∧ c.midLoop ∧ s.Clear x i ∧ c.retry = false
    let left (grs : List (Nat × DW)) (accs : List (Nat × Acc)) (c' : Core) : Prop :=
      c.GrAre c' grs ∧ c.AccAre c' accs ∧
        ({ c with gr := c'.gr, acc := c'.acc, lprog := 0#28, fetch := c.fetch + 1 }).Same c'
    let runs (i : Instr) (grs : List (Nat × DW)) (accs : List (Nat × Acc)) : Prop :=
      may i → RunsAll s x i (s.ready x i) (fun l => l = []) fun c' => left grs accs c' ∧ (s.own x i).Idle c'
    let stores (i : Instr) (v : Nat → DW) (grs : List (Nat × DW)) : Prop := may i →
      LongReach s x i true (addr fb) e count →
      (∀ j l, j < count → l < count → j ≠ l → (addr fb j).toNat ≠ (addr fb l).toNat) →
      ∃ t c' hs excess budget mem tags, exec i s = .next t ∧ t.pending = s.pending ∧ left grs [] c' ∧
        (({ s.ready x i with mem := mem, tags := tags } : Dev).leaves k c' hs excess budget).Quiet t.dev ∧
        (∀ m, t.dev.tagAt m = (s.ready x i).tagAt m) ∧
        (∀ j, j < count → ∀ q, q < e →
          (t.dev.ahead k).wAt (memAddr k ((addr fb j).toNat + q)) = (v j).extractLsb' (14 * q) 14) ∧
        ∀ m, (∀ j, j < count → ¬touches x (addr fb j) e m) →
          t.dev.wAt m = (s.ready x i).wAt m ∧ (t.dev.ahead k).wAt m = (s.ready x i).wAt m
    let passes (i : Instr) : Prop := fresh i → count = 0 → Passes s x i c
    let refused (i : Instr) : Prop := fresh i → 4096 < count → Raises s x i 0x05#8 0#15 (c.d n)
    passes mac ∧ passes mov ∧ passes fill ∧ passes max ∧ refused mac ∧ refused mov ∧ refused fill ∧ refused max ∧
    (LongReach s x mac false (addr fa) e count → LongReach s x mac false (addr fb) e count →
      runs mac [(0x20 + fa.toNat, addr fa count), (0x20 + fb.toNat, addr fb count)]
        [(acc.toNat, wrap 70 ((c.a acc).toInt + total count))]) ∧
    (LongReach s x max false (addr fa) e count → ∀ v, peak v →
      runs max [(fb.toNat, v), (0x20 + fa.toNat, addr fa count)] []) ∧
    stores fill (fun _ => c.g fa.toNat) [(0x20 + fb.toNat, addr fb count)] ∧
    (LongReach s x mov false (addr fa) e count →
      (∀ i j m, i < count → j < count → touches x (addr fa i) e m → ¬touches x (addr fb j) e m) →
      stores mov (elem mov fa) [(0x20 + fa.toNat, addr fa count), (0x20 + fb.toNat, addr fb count)])

/-! ### Core, fault and frame events -/

/-- R203 to R205, R207, R208, R219, R226 and R227: INTERRUPT_ENTRY delivers the selected source and enters before the
bundle whose words are given; it does nothing where PS.IE is 0, or where that bundle would raise an exception before it
issues. What was due by then is released first. The model's choices in it: log 10, 11, 162. -/
def Obligations.InterruptEntry : Prop :=
  ∀ (s : State) (k : CoreId) (t n g : Nat) (words : List DW) (bad : Bool),
    let d := s.dev
    let x := accessCtx k
    let i : Instr := .interruptEntry ⟨k, words, bad⟩
    let r := d.ready PageOps.real k.val 0
    let c := r.core k.val
    let level : BitVec 2 := if k.val < 64 then 1#2 else 3#2
    (s.Interruptible k t n g → n < 544 → d.heldBack k.val words bad = false → (s.at x).Kin c →
      RunsOn s x i (r.delivered t n g) []
        (c.entered 0#3 0#3 (1#1 ++ 0#9 ++ BitVec.ofNat 10 n ++ 0#8) 0#28 level (r.handlerOf k.val)).Same) ∧
    ((s.at x).ie = false → Leads s i d) ∧ (d.heldBack k.val words bad = true → Leads s i d)

/-- R163, R171 to R173, R176, R179 and R190: a difference in any bit of what the two passes of a held bundle drive
discards it and all that is younger; the bundle issues again s + 8 steps later. A second difference stops a slot's
core and powers the hearth's spare, or retires a control core, as a STALL does at once; a retry that agrees counts a
transient. Discarded outputs are stated where they are stores. R168 to R171, shown of a sum, a difference, a logic
operation, a comparison, a shift and an accumulation: without a fault the shadow pass, in its wider lane, drives the
same words as the primary pass. R179, order 6 to 8: SPARE_READY gives the waiting slot its spare and retires the
failed core; it does nothing where no slot waits. The model's choices in it: log 90, 154, 162, 166, 167. -/
def Obligations.FaultsAndSpares : Prop :=
  (∀ (s : State) (k : CoreId) (nth word mask : Nat) (h : Held) (rest : List Held),
    let d := s.dev
    let n := k.val
    let q := n / 4
    let c := d.core n
    let i (j : Nat) : Instr := .mismatchReissue k j ⟨word, mask⟩
    let fresh : Prop := d.getAt Reg.HEARTH.CORES.SPARE_USED q 0 = 0 ∧ (d.hearth q).awaiting = none
    let stops (e : Dev) : Prop := (e.core n).run = .stopped ∧ (e.hearth q).awaiting = some n ∧ e.domSt (domSpare q) = .on
    let retired (e : Dev) : Prop := e.active = 3 ∧ e.ctrl.serving = false ∧
      (e.get Reg.HEALTH.CTRL.RETIRED).testBit (n - 64) = true
    let b := h.before
    let gone := h.first + h.cost + 8 - b.steps
    let again : Core := { b with
      steps := b.steps + gone, pen := b.pen + gone, phaseSteps := b.phaseSteps + gone, retry := true, loadBits := []
      halted := c.halted, parked := c.parked, timer := c.timer, timerFired := c.timerFired, doors := c.doors
      clrs := c.clrs, written := c.written, overwrote := c.overwrote, report := c.report, reports := c.reports
      fetchPoison := c.fetchPoison, bad := c.bad, weak := c.weak }
    (h.primWords = h.shadowWords → word < h.primWords.length → mask ≠ 0 → h.differs word mask = true) ∧
    (h.primWords = h.shadowWords → mask = 0 → h.differs word mask = false) ∧
    ((d.heldOf n)[nth]? = none → Leads s (i nth) d) ∧
    ((d.heldOf n)[nth]? = some h → h.differs word mask = false → Leads s (i nth) d) ∧
    (d.heldOf n = h :: rest → h.differs word mask = true → h.retried = false → c.halted = false → c.parked = false →
      (∀ y ∈ h :: rest, (∀ o ∈ y.outs, o.isStore = true) ∧ y.deliv = none ∧ ∀ e ∈ y.prim, ∀ z, .barrier z ∉ e.acts) →
      ∃ excess count, Leads s (i 0) (({ d.setCore n again with held := tabDel d.held n } : Dev).withBudget excess count)) ∧
    (d.heldOf n = h :: rest → h.differs word mask = true → h.retried = true →
      (n < 64 → fresh → Answers s (i 0) stops) ∧ (64 ≤ n → d.active = n - 64 → Answers s (i 0) retired)) ∧
    (n < 64 → h.retried = true → h.outs = [] →
      let e := d.emit PageOps.real n h
      e.getAt Reg.HEARTH.LAST_FAULT.KIND q 0 = 1 ∧ e.getAt Reg.HEARTH.LAST_FAULT.SLOT q 0 = n % 4 ∧
      e.getAt Reg.HEARTH.LAST_FAULT.CORE q 0 = d.coreOf n ∧ e.getAt Reg.HEARTH.LAST_FAULT.FRAME q 0 = d.frame12 ∧
      (d.getAt Reg.HEARTH.MISMATCH.COUNT q (n % 4) < 0xFFFF →
        e.getAt Reg.HEARTH.MISMATCH.COUNT q (n % 4) = d.getAt Reg.HEARTH.MISMATCH.COUNT q (n % 4) + 1) ∧
      e.hasEvent (0x010 + q) 0 ∧ e.cores = d.cores) ∧
    (d.watched n = false → Leads s (.stall k) d) ∧
    (d.watched n = true → n < 64 → fresh → Answers s (.stall k) fun e =>
      stops e ∧ e.hasEvent (0x010 + q) 5 ∧ e.getAt Reg.HEARTH.LAST_FAULT.KIND q 0 = 3) ∧
    (d.watched n = true → 64 ≤ n → d.active = n - 64 → Answers s (.stall k) retired)) ∧
  (∀ (d : Dev) (c : Core) (p : Place) (x : Ctx) (word : DW) (r a b : BitVec 5) (o : MacOps),
    let agrees (i : Instr) : Prop :=
      let e := d.effOf PageOps.real c p word word i
      (d.shadowOf c p i e).buses = e.buses
    agrees (.add x r a b) ∧ agrees (.sub x r a b) ∧ agrees (.and x r a b) ∧ agrees (.not x r a) ∧ agrees (.min x r a b) ∧
      agrees (.lsl x r a b) ∧ agrees (.mac x o)) ∧
  (∀ (s : State) (h : Fin 16),
    let d := s.dev
    ((d.hearth h.val).awaiting = none → Leads s (.spareReady h) d) ∧
    (∀ i : Fin 4, (d.hearth h.val).awaiting = some (4 * h.val + i.val) → d.coreOf (4 * h.val + i.val) < 4 →
      Answers s (.spareReady h) fun e =>
        e.coreOf (4 * h.val + i.val) = 4 ∧ e.coreSt h.val (d.coreOf (4 * h.val + i.val)) = 3 ∧ e.coreSt h.val 4 = 1 ∧
        e.getAt Reg.HEARTH.CORES.SPARE_USED h.val 0 = 1 ∧ (e.hearth h.val).awaiting = none ∧
        e.hasEvent (0x010 + h.val) 1 ∧ e.hasEvent (0x010 + h.val) 2 ∧
        ((d.core (4 * h.val + i.val)).run = .stopped → (e.core (4 * h.val + i.val)).run = .running ∧
          (e.core (4 * h.val + i.val)).fetch = BitVec.ofNat 28 (d.slotCfg (4 * h.val + i.val)).entry ∧
          (e.core (4 * h.val + i.val)).gr = [] ∧ e.heldOf (4 * h.val + i.val) = [])))

/-- R68 and R70, at the watch point and the finish ceiling: a hearth with a slot that has not finished goes to
flare; such a slot counts LATE. Neither exists in FIXED mode. R46 and R48: when its last participant has arrived, a
barrier is complete and every participant that waits goes on in the next phase; before that, nothing happens. Stated
where no host access waits for a bank's port. The model's choices in it: log 95, 158. -/
def Obligations.WatchCeilingAndBarriers : Prop :=
  (∀ s : State,
    let d := s.dev
    let late (h : Nat) : Prop := ∃ i, i < 4 ∧ d.notFinished (4 * h + i) = true
    (2 ≤ d.mode → Leads s .watchPoint d ∧ Leads s .finishCeiling d) ∧
    (d.mode ≤ 1 → Answers s .watchPoint fun e => ∀ h, h < 16 →
      (late h → e.getAt Reg.HEARTH.TEMPO.FLARE h 0 = 1 ∧ e.getAt Reg.HEARTH.TEMPO.SET h 0 = 0x5A ∧
        (e.hearth h).watchFired = true) ∧
      (¬late h → e.getAt Reg.HEARTH.TEMPO.SET h 0 = d.getAt Reg.HEARTH.TEMPO.SET h 0 ∧ e.hearth h = d.hearth h)) ∧
    (d.mode ≤ 1 → Answers s .finishCeiling fun e =>
      (∀ n, n ∈ e.loader.late ↔ n ∈ d.loader.late ∨ (n < 64 ∧ d.notFinished n = true)) ∧
      ((∃ n, n < 64 ∧ d.notFinished n = true ∧ n ∉ d.loader.late) → e.hasEvent 0x0A0 4) ∧
      ∀ n, n < 64 → d.notFinished n = true → n ∉ d.loader.late → d.getAt Reg.IMAGE.SLOT_CNT.LATE 0 n < 0xFFF →
        e.getAt Reg.IMAGE.SLOT_CNT.LATE 0 n = d.getAt Reg.IMAGE.SLOT_CNT.LATE 0 n + 1)) ∧
  (∀ (s : State) (b : BitVec 3),
    let d := s.dev
    let part (n : Nat) : Prop := n < 64 ∧ (d.barrierMask b.toNat).testBit n = true
    let arrived (n : Nat) : Prop := n ∈ tabGet [] d.loader.arrived b.toNat
    d.hostIdle →
    ((∃ n, part n ∧ ¬arrived n) → Leads s (.barrierComplete b) d) ∧
    ((∃ n, part n) → (∀ n, part n → arrived n) → b.toNat ∉ d.loader.complete →
      Answers s (.barrierComplete b) fun e => b.toNat ∈ e.loader.complete ∧
        ∀ n, n < 64 →
          (part n → (d.core n).run = .barrier b.toNat → (e.core n).run = .running ∧ (e.core n).phase = b.toNat ∧
            (d.isOn domRouter = true → e.hasPrivate n 1)) ∧
          ((¬part n ∨ (d.core n).run ≠ .barrier b.toNat) → (d.core n).run ≠ .asleep → (e.core n).run = (d.core n).run)))

/-- R42, R45 and R87 at the boundary: the frame number advances, the barriers are forgotten, and each slot of the
image that then runs begins its run at its entry with its registers 0. Without a frame clock there is no boundary.
Stated where no host access waits for a bank's port. R66, the regulated setpoint of a hearth after a frame in which
no slot restarted. The model's choices in it: log 72, 73, 77, 172, 173, 174. -/
def Obligations.FrameBoundaryAndTempo : Prop :=
  (∀ s : State, s.dev.hostIdle →
    (s.dev.clockRuns = false → Leads s .frameBoundary s.dev) ∧
    (s.dev.clockRuns = true → Answers s .frameBoundary fun e =>
      e.aon.frame = s.dev.aon.frame + 1 ∧ e.loader.arrived = [] ∧ e.loader.complete = [] ∧
      ∀ n, n < 64 → e.hasProgram n = true → (e.core n).run = .running →
        e.core n = { Core.reset with
          fetch := BitVec.ofNat 28 (e.slotCfg n).entry, frameNo := s.dev.aon.frame + 1, traps := (e.slotCfg n).traps
          run := .running, halted := (e.core n).halted, report := (e.core n).report, reports := (e.core n).reports
          fetchPoison := (e.core n).fetchPoison, parked := (e.core n).parked })) ∧
  (∀ s : State,
    let d := s.dev
    ((2 ≤ d.mode ∨ d.served = false) → Leads s .tempoRegulation d) ∧
    (d.mode ≤ 1 → d.served = true → Answers s .tempoRegulation fun e =>
      ∀ h occ, h < 16 → d.isOn (domHearth h) = true → (d.hearth h).ended = some occ → d.folded h = false →
        (d.hearth h).endRestarted = false →
        let target := if d.mode = 0 then 50 else 75
        let v := d.getAt Reg.HEARTH.TEMPO.REG h 0
        let v' := e.getAt Reg.HEARTH.TEMPO.REG h 0
        let high : Prop := d.getAt Reg.HEARTH.FINISH.WATCH h 0 = 1 ∨ 1024 * (target + 1) < 100 * occ
        (high → v' = min (v + 1) 0x5A) ∧ (¬high → 100 * occ < 1024 * (target - 2) → v' = v - 1) ∧
        (¬high → ¬100 * occ < 1024 * (target - 2) → v' = v) ∧ (e.hearth h).nextSet = some v'))

/-- R214 and R215: SLOT_EXCEPTION passes the oldest record of a run that the monitor ended on, once.
The model's choices in it: log 99, 147. -/
def Obligations.SlotExceptionItem : Prop :=
  ∀ (s : State) (n : Fin 64) (kind frame level ecause epc eval : DW) (rest : List (List DW)),
    let d := s.dev
    let item : List DW := [6#3 ++ 4#6 ++ 0x101#11 ++ BitVec.ofNat 8 n.val,
      frame.extractLsb' 0 12 ++ kind.extractLsb' 0 2 ++ level.extractLsb' 0 2 ++ 0#6 ++ BitVec.ofNat 6 n.val, ecause, epc, eval]
    (((d.core n.val).reports = [] ∨ d.served = false) → Leads s (.slotException n) d) ∧
    ((d.core n.val).reports = [kind, frame, level, ecause, epc, eval] :: rest → d.served = true → kind.toNat < 4 →
      level.toNat < 4 → Answers s (.slotException n) fun e =>
        (e.core n.val).reports = rest ∧
        (d.CanReport .hop4 → ∀ k, d.hopAcct 4 64 = some k → 5 ≤ d.hopAvail 4 k →
          ∃ i ∈ (e.hop 4).ready, i.words = item.map fun w => (w, .good)))

/-- R190 and R191: the roles of the control cores and the self-check of SPARE. R192 to R197: what the scrubber does
with a word of memory; and of the other stored words, what it counts and what it leaves for their next read.
The model's choices in it: log 18, 89, 162, 167, 177, 179. -/
def Obligations.ControlRolesAndScrubbing : Prop :=
  (∀ (s : State) (bad : Bool),
    let d := s.dev
    let k := d.standby
    let sp := d.spareCtrl
    (d.active = 3 → k < 3 → d.ctrl.ready = true → d.link.regQ = [] → d.link.memQ = [] →
      Answers s .ctrlTakeover fun e => e.active = k ∧ e.ctrl.serving = true ∧ e.hasEvent (0x020 + k) 2 ∧
        (sp < 3 → e.standby = sp ∧ e.spareCtrl = 3 ∧ e.ctrl.ready = false)) ∧
    (k < 3 → d.isOn (domCtrl k) = true → d.ctrl.patch = none →
      Leads s .standbyReady { d with ctrl := { d.ctrl with ready := true } }) ∧
    (sp < 3 → d.served = true → d.ctrl.selfcheck = false → d.domSt (domCtrl sp) ≠ .on →
      Answers s .spareSelfcheck fun e => e.ctrl.selfcheck = true ∧ e.domSt (domCtrl sp) = .on) ∧
    (d.ctrl.selfcheck = true → sp < 3 → Answers s (.selfcheckDone bad) fun e =>
      e.ctrl.selfcheck = false ∧ e.domSt (domCtrl sp) = .off ∧
        (bad = true → (e.get Reg.HEALTH.CTRL.RETIRED).testBit sp = true ∧ e.spareCtrl = 3)) ∧
    (d.ctrl.selfcheck = false → Leads s (.selfcheckDone bad) d)) ∧
  (∀ (s : State) (a : DW) (k : CoreId) (r : BitVec 7) (p : Storage) (y : TableStore),
    let d := s.dev
    let n := a.toNat
    let word (f : WordFind) : Instr := .scrub (.word a) f
    let day (t : Tab Nat) := tabGet 0 t (memClass n)
    (d.isCold n = true → ∀ f, Leads s (word f) d) ∧
    (d.tagAt n = .good → Leads s (word .clean) d) ∧
    (d.tagAt n = .poisoned → ∀ f, Leads s (word f) d) ∧
    (d.isCold n = false → (d.tagAt n = .good ∨ d.tagAt n = .correctable) → Answers s (word .corrected) fun e =>
      e.mem = d.mem ∧ e.tagAt n = .good ∧ day e.health.ceToday = day d.health.ceToday + 1) ∧
    (d.isCold n = false → (d.tagAt n = .good ∨ d.tagAt n = .uncorrectable) → Answers s (word .uncorrectable) fun e =>
      e.tagAt n = .poisoned ∧ e.dwAt (evenOf n) = 0#28 ∧ day e.health.ueToday = day d.health.ueToday + 1 ∧
      ∀ m, m ≠ evenOf n → m ≠ evenOf n + 1 → e.wAt m = d.wAt m) ∧
    ((∀ m, p ≠ .word m) → Leads s (.scrub p .clean) d) ∧
    Leads s (.scrub (.register k r) .corrected) (d.modCore k.val fun c => { c with weak := setInsert c.weak r.toNat }) ∧
    (k.val < 64 → Leads s (.scrub (.register k r) .uncorrectable) (d.modCore k.val fun c =>
      { c with bad := setInsert c.bad r.toNat, weak := setErase c.weak r.toNat })) ∧
    (d.pageOn (tablePage y) = false → ∀ f, Leads s (.scrub (.table y) f) d) ∧
    (d.pageOn (tablePage y) = true → (d.page (tablePage y)).corr < 0xFFFF → Answers s (.scrub (.table y) .corrected) fun e =>
      (e.page (tablePage y)).corr = (d.page (tablePage y)).corr + 1))

/-! ### The event router -/

/-- R222 to R224, R236 and R238: SOURCE_FIRE makes a private source of a target pending, and SET_PEND any source
that is not reserved; CLR_PEND clears it; SOURCE_FIRE of a source that fires in another way does nothing. With
ROUTER not ON a firing is lost. R418, shown of the lane sources: a source's crossing passes a firing, counts up to
seven behind an unacknowledged one, and loses the next; the acknowledge sends one that waits.
The model's choices in it: log 28, 53, 54. -/
def Obligations.SourcesAndCrossings : Prop :=
  (∀ (s : State) (t : BitVec 7) (n : BitVec 10) (more : BitVec 4),
    let d := s.dev
    let k := n.toNat
    let priv : Prop := k < 32 ∧ t.toNat ≤ 65 ∧ privReserved t.toNat k = false
    let soft : Prop := t.toNat < 64 ∧ 24 ≤ k ∧ k < 32
    let lane : Prop := 96 ≤ k ∧ k ≤ 159
    let shared : Prop := 32 ≤ k ∧ k < 480 ∧ k ≠ 95
    let v : DW := 0#5 ++ t ++ 0#6 ++ n
    let on : Prop := d.isOn domRouter = true
    (on → priv → ¬soft → Leads s (.sourceFire t n more) d (·.hasPrivate t.toNat k)) ∧
    (on → priv → Leads s (.setPend v) d (·.hasPrivate t.toNat k)) ∧
    (on → shared → Leads s (.setPend v) d (·.hasShared k)) ∧
    (on → ¬priv → ¬shared → Leads s (.setPend v) d) ∧
    (d.isOn domRouter = false → Leads s (.sourceFire t n more) d) ∧
    ((¬priv ∨ soft) → ¬lane → Leads s (.sourceFire t n more) d) ∧
    (on → d.still → k < 32 → t.toNat ≤ 65 → Answers s (.clrPend v) fun e =>
      tabGet 0#32 e.router.pendP t.toNat = tabGet 0#32 d.router.pendP t.toNat &&& ~~~(1#32 <<< k) ∧
      (∀ u, u ≠ t.toNat → tabGet 0#32 e.router.pendP u = tabGet 0#32 d.router.pendP u)) ∧
    (on → d.still → 32 ≤ k → Answers s (.clrPend v) fun e => ¬e.hasShared k ∧
      ∀ m, m ≠ k → d.hasShared m → e.hasShared m)) ∧
  (∀ (s : State) (t : BitVec 7) (n : BitVec 10) (more : BitVec 4),
    let d := s.dev
    let k := n.toNat
    let router (f : Router → Router) : Dev := { d with router := f d.router }
    let count := tabGet 0 d.router.queued k
    let queued := count + more.toNat + if k ∈ d.router.awaiting then 1 else 0
    d.isOn domRouter = true → 96 ≤ k → k ≤ 159 →
      (k ∉ d.router.awaiting → Leads s (.pulseAck n) d) ∧
      (queued ≤ 7 → Leads s (.sourceFire t n more) (router fun r => { r with awaiting := setInsert r.awaiting k })
        fun e => k ∈ e.router.awaiting ∧ tabGet 0 e.router.queued k = queued ∧ (k ∉ d.router.awaiting → e.hasShared k)) ∧
      (7 < queued → (k ∈ d.router.awaiting ∨ more ≠ 0#4) → Answers s (.sourceFire t n more) fun e => e.hasEvent 0x091 6 ∧
        (e.get Reg.CLOCKS.XLOST.GROUP).testBit (6 + (k - 96) / 8) = true) ∧
      (k ∈ d.router.awaiting → count = 0 →
        Leads s (.pulseAck n) (router fun r => { r with awaiting := r.awaiting.filter (· ≠ k) }) (k ∉ ·.router.awaiting)) ∧
      (∀ m, k ∈ d.router.awaiting → count = m + 1 →
        Leads s (.pulseAck n) (router fun r => { r with queued := tabSet r.queued k m })
          fun e => e.hasShared k ∧ tabGet 0 e.router.queued k = m))

/-- R228 to R230 and R232: the slot's event interface. Its stores wait in the damper; on their release EOI pops the running
stack, CLR and DOORBELL are kept for the boundary, and TIMER is armed and fires once in a frame; the moderation window
ends. The model's choices in it: log 13. -/
def Obligations.SlotEventInterface : Prop :=
  ∀ (s : State) (slot : Fin 64) (t : BitVec 7) (n tick : BitVec 10) (v : BitVec 7),
    let d := s.dev
    let k := slotCore slot
    let m := slot.val
    let timer := localPort 0x10A
    let due (v : BitVec 7) (c : Core) : Prop := v.getLsbD 6 = true ∧ v.toNat % 64 ≤ tick.toNat / 16 ∧ c.timerFired = false
    Releases s k 0#10 (.eoi slot) (localPort 0x106) 0#28 (fun d =>
      { d with router := { d.router with runStacks := tabSet d.router.runStacks m (d.stack m).tail } }) ∧
    Releases s k 0#10 (.clr slot n) (localPort 0x108) (n.setWidth 28) (fun d =>
      d.setCore m { d.core m with clrs := (d.core m).clrs ++ [n.toNat] }) ∧
    Releases s k 0#10 (.doorbell slot t) (localPort 0x10C) (t.setWidth 28) (fun d =>
      d.setCore m { d.core m with doors := (d.core m).doors ++ [t.toNat] }) ∧
    Accesses s k (.timerWrite slot v tick) (s.before k (.timerWrite slot v tick))
      (fun last => [.storeD timer (v.setWidth 28) tick.toNat last]) [] ∧
    (∀ (d : Dev) (last : Nat),
      let e := d.emitOut PageOps.real m (.storeD timer (v.setWidth 28) tick.toNat last)
      let c := d.core m
      (¬due v c → e = d.setCore m { c with timer := v }) ∧
      (due v c → d.isOn domRouter = true → e.hasPrivate m 3 ∧ e.core m = { c with timer := v, timerFired := true })) ∧
    (¬due (d.core m).timer (d.core m) → Leads s (.timerFire slot tick) d) ∧
    (due (d.core m).timer (d.core m) → d.isOn domRouter = true → Leads s (.timerFire slot tick)
      (d.setCore m { d.core m with timerFired := true }) (·.hasPrivate m 3)) ∧
    Leads s (.moderationExpiry t)
      { d with router := { d.router with windows := d.router.windows.filter (· ≠ t.toNat) } }

/-! ### Hoppers -/

/-- R174, R246, R248, R249 and R252: POP and PEEK by the consumer return the next word, 0 where there is none. POP delivers
it, tentatively, and FILL falls by one; at its release the delivery is final, and in PACKET mode the word is freed with its
credit. Stated for hoppers that no report goes to, where every stored word is good.
The model's choices in it: log 10, 13, 163. -/
def Obligations.PopAndPeek : Prop :=
  ∀ (s : State) (k : CoreId) (n : Fin 16) (r : BitVec 5),
    let pop : Instr := .pop k n r
    let peek : Instr := .peek k n r
    let ok (d : Dev) : Prop := d.consumes k.val n.val = true ∧ (d.hop n.val).clean ∧ (d.hop n.val).pos ≤ (d.hop n.val).log.length
    let d := s.before k pop
    let h := d.hop n.val
    n.val ≠ 4 → n.val ≠ 5 →
      (ok (s.before k peek) → ((s.before k peek).hop n.val).next = none →
        Accesses s k peek (s.before k peek) (fun _ => []) [(r.toNat, 0#28)]) ∧
      (∀ w, ok (s.before k peek) → ((s.before k peek).hop n.val).next = some w →
        Accesses s k peek (s.before k peek) (fun _ => []) [(r.toNat, w.val)]) ∧
      (ok d → h.next = none → Accesses s k pop d (fun _ => []) [(r.toNat, 0#28)]) ∧
      (∀ w, ok d → h.next = some w → ∃ h', Accesses s k pop (d.withHop n.val h') (fun _ => [.popped n.val]) [(r.toNat, w.val)] ∧
        h'.fill + 1 = h.fill ∧ h'.pos = h.pos + 1 ∧ h'.tent = h.tent + 1 ∧ h'.mark = h.mark ∧ h'.heldW = h.heldW ∧
        h'.log.take h.pos = h.log.take h.pos) ∧
      (∀ (d : Dev) (m : Nat),
        let h := d.hop n.val
        let e := d.emitOut PageOps.real k.val (.popped n.val)
        h.tent = m + 1 →
          (d.hopReplay n.val = true → e = d.withHop n.val { h with tent := m }) ∧
          (∀ w l, d.hopReplay n.val = false → h.log = w :: l → (e.hop n.val).tent = m ∧ (e.hop n.val).log = l ∧
            (e.hop n.val).pos = h.pos - 1 ∧ (e.hop n.val).charge w.acct = h.charge w.acct - 1 ∧
            (∀ a, a ≠ w.acct → (e.hop n.val).charge a = h.charge a) ∧ ∀ j, j ≠ n.val → e.hop j = d.hop j))

/-- R243, R245 and R247: PUSH of an item by a core that is a producer. The store waits for its release; then the header is
charged with the whole item, and its last word completes it, at once for a control core and held for the boundary for a
slot; a header without credit, or of a reserved type, is discarded and counted.
The model's choices in it: log 13. -/
def Obligations.Push : Prop :=
  ∀ (s : State) (k : CoreId) (n : Fin 16) (prio : BitVec 3) (len : BitVec 6) (type : BitVec 11) (tag : BitVec 8) (w : DW),
    let port := hopPort n.val 0x08
    let v : DW := prio ++ len ++ type ++ tag
    let words := len.toNat + 1
    ((k.val < 64 → ((s.before k (.push k n w)).hopAcct n.val k.val).isSome = true) →
      Accesses s k (.push k n w) (s.before k (.push k n w)) (fun last => [.storeD port w 0 last]) []) ∧
    ∀ (d : Dev) (last p a : Nat),
      let h := d.hop n.val
      let put (v : DW) : Dev := d.emitOut PageOps.real k.val (.storeD port v 0 last)
      let cost : Tab Nat := tabSet h.heldW a (h.charge a + words)
      let item (l : List DW) : HItem := ⟨h.nextId, prio.toNat, a, p, l.map fun x => (x, .good)⟩
      let refused (reason : Nat) : Prop := (put v).getAt Reg.HOP.PROTO_LAST.REASON n.val 0 = reason ∧
        (put v).getAt Reg.HOP.PROTO_LAST.PRODUCER n.val 0 = p ∧ (put v).hasEvent (0x040 + n.val) 1
      d.hopIdentity k.val = some p → d.hopAcct n.val p = some a →
        (h.part p = none → type ≠ 0#11 → type ≠ 0x7FF#11 → words ≤ d.hopAvail n.val a →
          (len ≠ 0#6 → put v = d.withHop n.val { h with heldW := cost, parts := (h.parts.filter fun x => x.producer ≠ p) ++
            [⟨p, a, .keep, prio.toNat, len.toNat, [v], len.toNat⟩] }) ∧
          (len = 0#6 → p < 64 → put v =
            d.withHop n.val { h with heldW := cost, nextId := h.nextId + 1, held := h.held ++ [item [v]] }) ∧
          (len = 0#6 → 64 ≤ p → item [v] ∈ ((put v).hop n.val).ready ∧ ((put v).hop n.val).fill = h.fill + 1 ∧
            ((put v).hop n.val).heldW = cost)) ∧
        (h.part p = none → (type = 0#11 ∨ type = 0x7FF#11) → refused 2) ∧
        (h.part p = none → type ≠ 0#11 → type ≠ 0x7FF#11 → d.hopAvail n.val a < words → refused 1) ∧
        (∀ q, h.part p = some q → q.mode = .keep →
          (1 < q.left → put w = d.withHop n.val { h with parts :=
            (h.parts.filter fun x => x.producer ≠ p) ++ [{ q with words := q.words ++ [w], left := q.left - 1 }] }) ∧
          (q.left ≤ 1 → p < 64 → put w = d.withHop n.val
            { h with parts := h.parts.filter fun x => x.producer ≠ p, nextId := h.nextId + 1
                     held := h.held ++ [⟨h.nextId, q.prio, q.acct, p, (q.words ++ [w]).map fun x => (x, .good)⟩] }))

/-- R251 to R253 and R255: MARK, REWIND, RELEASE, DROP by the consumer, whose stores wait for their release, and FLUSH. A
slot's MARK and RELEASE are ignored, as is every one of the four outside its mode.
The model's choices in it: log 13, 28, 163. -/
def Obligations.MarkRewindReleaseDropFlush : Prop :=
  ∀ (s : State) (k : CoreId) (n : Fin 16),
    let d := s.dev
    let h := d.hop n.val
    let waits (i : Instr) (r : Nat) : Prop := (k.val < 64 → (s.before k i).consumes k.val n.val = true) →
      Accesses s k i (s.before k i) (fun last => [.storeD (hopPort n.val r) 0 0 last]) []
    waits (.mark k n) 0x0C ∧ waits (.rewind k n) 0x0E ∧ waits (.release k n) 0x10 ∧ waits (.drop k n) 0x12 ∧
    (∀ (d : Dev) (last : Nat),
      let h := d.hop n.val
      let replay : Prop := d.hopReplay n.val = true
      let put (r : Nat) : Dev := d.emitOut PageOps.real k.val (.storeD (hopPort n.val r) 0 0 last)
      let after (r : Nat) : Hopper := (put r).hop n.val
      d.consumes k.val n.val = true →
        (replay → 64 ≤ k.val → put 0x0C = d.withHop n.val { h with mark := h.pos - h.tent } ∧
          (after 0x10).log = h.log.drop h.mark ∧ (after 0x10).mark = 0 ∧ (after 0x10).pos = h.pos - h.mark ∧
          (after 0x10).ready = h.ready ∧ (after 0x10).rest = h.rest) ∧
        (replay → after 0x0E = { h with pos := h.mark, tent := 0 } ∧ put 0x12 = d) ∧
        (¬replay → put 0x0C = d ∧ put 0x10 = d ∧ put 0x0E = d) ∧
        (k.val < 64 → put 0x0C = d ∧ put 0x10 = d) ∧
        (¬replay → h.log = [] → h.pos = 0 → (∀ w ∈ h.rest, w.head = false) → (after 0x12).rest = [] ∧
          (after 0x12).ready = h.ready ∧
          (h.rest ≠ [] → (put 0x12).getAt Reg.HOP.DROP_RES.STATUS n.val 0 = 2 ∧
            (put 0x12).getAt Reg.HOP.DROP_RES.ABORT_LATE n.val 0 = 0) ∧
          (h.rest = [] → (put 0x12).getAt Reg.HOP.DROP_RES.STATUS n.val 0 = 1 ∧
            (put 0x12).getAt Reg.HOP.DROP_RES.ABORT_LATE n.val 0 = 1))) ∧
    (n.val ≠ 4 → n.val ≠ 5 → d.isOn domHoppers = true → h.flushArmed = false → h.discarding = false →
      (d.hopConsumer n.val < 64 → Leads s (.flush n) (d.withHop n.val { h with flushArmed := true })) ∧
      (64 ≤ d.hopConsumer n.val → Answers s (.flush n) fun e =>
        (e.hop n.val).fill = 0 ∧ (e.hop n.val).ready = [] ∧ (e.hop n.val).log = [] ∧ (e.hop n.val).held = h.held))

/-! ### Sample streams -/

/-- R272, R274 and R276 to R278: a slot's START, made by a load of the whole register. A refused one returns its
reason, changes no stream and is counted; an admitted one returns bit 27 and the entry and starts the stream
tentatively. Its release demands the first chunks: their ring positions are zero. Stated for an entry whose stored
words are good. R272, R273, R276, R282 and R289: STOP and NEED by the owner, which wait for the release of their
store; the next notice; and KILL. The model's choices in it: log 13, 28, 101, 178. -/
def Obligations.StreamsStartAndStop : Prop :=
  (∀ (s : State) (slot : Fin 64) (r : BitVec 5),
    let k := slotCore slot
    let c := s.at (accessCtx k)
    let e := c.sel.toNat % 0x4000
    let i : Instr := .streamStart slot r
    let d := s.before k i
    let kept (t : Dev) : Prop := ∃ h, t.heldOf slot.val = d.heldOf slot.val ++ [h] ∧ h.outs = [.started e false]
    (s.Stands (accessCtx k) i → c.sels = [] → d.keptMatch slot.val e true = none →
      (∀ j, j < 16 → d.tagAt (d.get Reg.STOKER.TABLE_BASE.VALUE + 32 * e + 2 * j) = .good) →
      (∀ reason, d.startReason e = some reason → Answers s i fun t =>
        (t.core slot.val).g r.toNat = BitVec.ofNat 28 (reason * 2 ^ 16 + e) ∧ t.stoker.streams = d.stoker.streams ∧ kept t ∧
        t.mem = d.mem ∧ (d.isOn domStoker = true → t.get Reg.STOKER.LAST_REFUSE.REASON = reason % 16 ∧
          t.get Reg.STOKER.LAST_REFUSE.ENTRY = e ∧ t.get Reg.STOKER.LAST_REFUSE.SLOT = slot.val ∧ t.hasEvent 0x050 0)) ∧
      (d.startReason e = none → Answers s i fun t =>
        (t.core slot.val).g r.toNat = BitVec.ofNat 28 (2 ^ 27 + e) ∧ kept t ∧
        ∃ x ∈ t.stoker.streams, x.entry = e ∧ x.owner = slot.val ∧ x.started = true ∧ x.qNeed = 0 ∧ x.desc = d.entryDesc e)) ∧
    ∀ (d : Dev) (n q : Nat) (again : Bool) (x : Stream), d.stream n = some x → x.started = true → x.desc.cacheFed = false →
      q ∈ x.waiting → q < x.desc.rc → (x.desc.sampleChunk q).isSome = true → ∀ j, j < 1168 →
      (d.emitOut PageOps.real slot.val (.started n again)).wAt (x.desc.ringPos q + j) = 0#14) ∧
  (∀ (s : State) (slot : Fin 64) (e : BitVec 14) (q : DW) (r : BitVec 5),
    let k := slotCore slot
    let n := s.before k (.notice slot r)
    let list := n.noticeList slot.val
    let read := tabGet 0 n.stoker.noticePos slot.val
    let stop (last : Nat) : HeldOut := .storeP (localPort 0x084) (1#4 ++ 0#10 ++ e) 0#28 0 last
    let need (last : Nat) : HeldOut := .storeP (localPort 0x084) (2#4 ++ 0#10 ++ e) q 0 last
    Accesses s k (.streamStop slot e) (s.before k (.streamStop slot e)) (fun last => [stop last]) [] ∧
    Accesses s k (.streamNeed slot e q) (s.before k (.streamNeed slot e q)) (fun last => [need last]) [] ∧
    (∀ (d : Dev) (last : Nat) (x : Stream), d.stream e.toNat = some x →
      let put (o : HeldOut) : Dev := d.emitOut PageOps.real slot.val o
      (x.owner = slot.val → x.stopped = false → d.keptMatch slot.val e.toNat false = none →
        (put (stop last)).stream e.toNat = some { x with stopped := true }) ∧
      (x.owner ≠ slot.val → d.keptMatch slot.val e.toNat false = none → put (stop last) = d) ∧
      (x.owner = slot.val → x.qNeed ≤ q.toNat → (put (need last)).stream e.toNat = some { x with need := some q.toNat }) ∧
      ((x.owner ≠ slot.val ∨ q.toNat < x.qNeed) → (put (need last)).stream e.toNat = some x)) ∧
    (∀ x, s.dev.stream e.toNat = some x → s.dev.isOn domStoker = true → x.started = false →
      Answers s (.kill (0#14 ++ e)) fun t => t.stream e.toNat = some { x with killed := true }) ∧
    Accesses s k (.notice slot r)
      { n with stoker := { n.stoker with noticePos := tabSet n.stoker.noticePos slot.val (min (read + 1) list.length) } }
      (fun _ => [.noticed read]) [(r.toNat, (list[read]?).getD 0#28)])

/-- R263, R264, R280, R281, R283 and R304: a demanded chunk whose read gives it is written, unpacked, and no longer
waited for; one that fails is reported to the owner, as is one that is late, once. A hard decode with at most 160
bit errors and the right tag gives the chunk. R14, R285 and R286: PIN takes its range once, and does nothing while
one is in progress; PINNED is raised at its end and by UNPIN, which forgets the heads of the range.
The model's choices in it: log 102, 103, 116, 181. -/
def Obligations.ChunksAndPins : Prop :=
  (∀ (s : State) (e : BitVec 14) (q : DW) (x : FlashRead) (us : Nat) (y : Stream),
    let d := s.dev
    let land : Instr := .chunkWrite e q ⟨false, x⟩ us
    let c := (y.desc.sampleChunk q.toNat).getD 0
    let r := y.desc.region
    let k := y.desc.chunk0 + c
    let a := y.desc.ringPos q.toNat
    let got := d.climbShort r k x
    ((∀ h ∈ d.stoker.rereads, h.entry ≠ e.toNat ∨ h.chunk ≠ q.toNat) → Leads s (.chunkWrite e q ⟨true, x⟩ us) d) ∧
    (∀ b, d.isLost r k = false → d.lunDown (d.chunkLun r k) = false → x.hard = some b → b.bits ≤ 160 →
      tabFind d.nand.cells (cellAt (d.readable r) d.cpp k (chunkPlace d.cpp (d.readable r).stripe.toNat k).pos) = none →
      tagOk r k (fitBytes 2048 b.bytes) = true → got = some ⟨1, b.bits, fitBytes 2048 b.bytes⟩) ∧
    (d.stream e.toNat = some y →
      (q.toNat ∉ y.waiting → Leads s land d ∧ Leads s (.chunkLate e q) d) ∧
      (q.toNat ∈ y.waiting → Answers s land fun t =>
        t.stream e.toNat = some { y with waiting := setErase y.waiting q.toNat, late := setErase y.late q.toNat } ∧
        (got = none → t.mem = d.mem ∧ t.hasEvent 0x050 3 ∧ tabGet [] t.stoker.posted y.owner =
          tabGet [] d.stoker.posted y.owner ++ [2#4 ++ q.extractLsb' 0 10 ++ e]) ∧
        (∀ g, got = some g → g.step = 4 → t.hasEvent 0x050 2) ∧
        (∀ g, got = some g → 1168 ≤ (y.desc.length - c * y.desc.F) * fmtW y.desc.format → a % 2 = 0 →
          (∀ i, i < 584 → d.isCold (a + 2 * i) = false) →
          ∀ i, i < 584 → t.dwAt (a + 2 * i) = ((chunkDW g.bytes)[i]?).getD 0#28)) ∧
      (q.toNat ∈ y.waiting → q.toNat ∉ y.late → Answers s (.chunkLate e q) fun t =>
        t.stream e.toNat = some { y with late := setInsert y.late q.toNat } ∧ t.hasEvent 0x050 1 ∧
        tabGet [] t.stoker.posted y.owner = tabGet [] d.stoker.posted y.owner ++ [1#4 ++ q.extractLsb' 0 10 ++ e]))) ∧
  (∀ (s : State) (heads : List (List FlashRead)),
    let d := s.dev
    let lo := d.get Reg.STOKER.PIN_FIRST.ENTRY
    let hi := d.get Reg.STOKER.PIN_LAST.ENTRY
    (d.isOn domStoker = true → d.stopping domStoker = false → d.stoker.pin = none → Answers s .pin fun t =>
      t.stoker = { d.stoker with pin := some ⟨lo, hi⟩ } ∧ t.get Reg.STOKER.PIN_STAT.DONE = 0 ∧
      t.get Reg.STOKER.PIN_STAT.FAILED = 0) ∧
    (d.isOn domStoker = true → d.stoker.pin ≠ none → Leads s .pin d) ∧
    (∀ p, d.stoker.pin = some p → Answers s (.pinDone heads) fun t => t.stoker.pin = none ∧ t.hasEvent 0x050 5) ∧
    (d.stoker.pin = none → Leads s (.pinDone heads) d) ∧
    (d.isOn domStoker = true → Answers s .unpin fun t => t.hasEvent 0x050 5 ∧
      (∀ n, lo ≤ n → n ≤ hi → tabFind t.stoker.headValid n = none) ∧
      ∀ n, (n < lo ∨ hi < n) → tabFind t.stoker.headValid n = tabFind d.stoker.headValid n))

/-! ### Host commands -/

/-- R373 and R374: an item that is no command, a TAG in use, a wrong LENGTH and a poisoned item complete REFUSED with their
reasons; NOP and ABORT complete DONE. ABORT ends a command before its commit point, and marks a later one.
The model's choices in it: log 99, 105, 106. -/
def Obligations.NopAbortAndRefusals : Prop :=
  ∀ (s : State) (hop : Fin 4) (tag prio typ : Nat) (args : List DW),
    let d := s.dev
    let status (code reason : Nat) : DW := BitVec.ofNat 28 (code * 2 ^ 24 + reason * 2 ^ 16 + hop.val * 2 ^ 11 + typ)
    let refused (typ' reason : Nat) : Prop := Answers s (.nopCommand hop) fun e => e.cmds = d.cmds ∧
      e.Reported (doneHop hop) [itemHeader prio 2 typ' tag, status 3 reason, 0#28]
    (d.takesCommands = false → Leads s (.nopCommand hop) d ∧ Leads s (.abort hop) d) ∧
    (d.Front hop tag prio typ args → d.CanReport (doneHop hop) →
      (typ ∉ cmdTypes → refused 0x4FF 0x87) ∧
      (typ = 0x001 → (d.cmd hop tag ≠ none ∨ d.link.out.any (·.writes hop tag) = true) → refused 0x401 0x81) ∧
      (typ = 0x001 → d.cmd hop tag = none → d.link.out.any (·.writes hop tag) = false → 1 < args.length →
        refused 0x401 0x80)) ∧
    (d.Commanded hop tag prio 0x001 args → Answers s (.nopCommand hop) fun e => e.cmds = d.cmds ∧
      e.Completed hop tag prio 0x001 .done 0 ((args[0]?).getD 0#28).toNat) ∧
    (∀ v, d.Commanded hop tag prio 0x002 [v] →
      let h := v.toNat / 256
      let n := v.toNat % 256
      (d.cmd h n = none → ¬(h = hop.val ∧ n = tag) → Answers s (.abort hop) (·.Completed hop tag prio 0x002 .done 0 0)) ∧
      (∀ x, d.cmd h n = some x → x.committed = true → Answers s (.abort hop) fun e =>
        e.cmd h n = some { x with aborted := true } ∧ e.Completed hop tag prio 0x002 .done 0 1) ∧
      (∀ x, d.cmd h n = some x → x.committed = false → x.typ ∈ cmdTypes → d.CanReport (doneHop h) →
        d.link.out.any (·.writes h n) = false → Answers s (.abort hop) fun e =>
        e.Completed x.hop x.tag x.prio x.typ .aborted 0 0 ∧ e.Completed hop tag prio 0x002 .done 0 1))

/-- R77, R318, R319, R376, R446 and R447: the commands that read a descriptor list begin to read it.
The model's choices in it: log 105, 107, 112, 113, 115. -/
def Obligations.ListCommandsBegin : Prop :=
  ∀ (s : State) (hop : Fin 4) (tag prio : Nat) (args : List DW),
    let d := s.dev
    let arg (i : Nat) : Nat := ((args[i]?).getD 0#28).toNat
    let c (typ : Nat) : Cmd := cmdOf hop tag prio typ args
    let other (typ : Nat) : Prop := ∃ x ∈ d.cmds, x.typ = typ
    let begins (typ : Nat) (i : Instr) (P : Dev → Prop) : Prop :=
      d.Commanded hop tag prio typ args → (c typ).withList.count ≠ 0 → Answers s i fun e => e.ReadsList (c typ) ∧ P e
    let refused (typ : Nat) (i : Instr) (reason : Nat) : Prop :=
      d.Commanded hop tag prio typ args → Answers s i (·.Completed hop tag prio typ .refused reason 0)
    let mapped (r : Nat) : Prop := d.flashMounted = true ∧ isMapped (d.region r) = true
    begins 0x020 (.bulkWrite hop) (fun _ => True) ∧ begins 0x021 (.bulkRead hop) (fun _ => True) ∧
    (d.pend ≠ 1 → d.pend ≠ 3 → begins 0x010 (.imageLoad hop) fun e => e.pend = 1 ∧ e.loader.loaded = none ∧
      e.loader.run = d.loader.run) ∧
    ((d.pend = 1 ∨ d.pend = 3) → refused 0x010 (.imageLoad hop) 0x83) ∧
    (¬other 0x040 → begins 0x040 (.patchLoad hop) fun _ => True) ∧ (other 0x040 → refused 0x040 (.patchLoad hop) 0x83) ∧
    (d.flashWritable = true → ¬other 0x036 → begins 0x036 (.bootWrite hop) fun _ => True) ∧
    (d.flashWritable = false → refused 0x036 (.bootWrite hop) 0x01) ∧
    (d.flashWritable = true → other 0x036 → refused 0x036 (.bootWrite hop) 0x83) ∧
    (arg 1 ≠ 0 → arg 0 + arg 1 ≤ 65536 → begins 0x035 (.mapRead hop) fun _ => True) ∧
    (65536 < arg 0 + arg 1 → refused 0x035 (.mapRead hop) 0x82) ∧
    (mapped (arg 0) → arg 1 + arg 2 ≤ (d.region (arg 0)).chunks.toNat → d.Commanded hop tag prio 0x034 args →
      (c 0x034).withList.count ≠ 0 → Answers s (.flashRead hop) fun e =>
        e.ReadsList { c 0x034 with aux := [arg 0, arg 1, arg 2] }) ∧
    (¬mapped (arg 0) → refused 0x034 (.flashRead hop) 0x82)

/-- R299, R316 to R318: FLASH_MOUNT, FLASH_FORMAT, REGION_ERASE and LIB_WRITE as they are taken.
The model's choices in it: log 113, 120. -/
def Obligations.FlashCommandsBegin : Prop :=
  ∀ (s : State) (hop : Fin 4) (tag prio : Nat) (args : List DW) (a b : DW),
    let d := s.dev
    let taken (typ : Nat) (e : Dev) : Prop := e.cmd hop tag = some (cmdOf hop tag prio typ args)
    let is (typ : Nat) : Prop := d.Commanded hop tag prio typ args
    let refused (typ reason : Nat) (e : Dev) : Prop := e.Completed hop tag prio typ .refused reason 0
    let region := a.toNat % 65536
    let job (r : Nat) (m : MapEntry) : FlashJob := ⟨.cmd hop (BitVec.ofNat 8 tag), r, m, false, 0⟩
    (is 0x030 → d.isOn (domFlash 0) = true → d.mountSt ≠ 1 →
      Answers s (.flashMount hop) fun e => taken 0x030 e ∧ e.mountSt = 1) ∧
    (is 0x030 → d.isOn (domFlash 0) = true → d.mountSt = 1 → Answers s (.flashMount hop) (refused 0x030 0x83)) ∧
    (is 0x031 → args = [a] → a.toNat = d.getAt Reg.FUSE.CHIP_ID.ID 0 0 → d.isOn (domFlash 0) = true → d.lunGroups ≠ 0 →
      (d.mountSt = 2 ∨ d.mountSt = 4 ∨ d.mountSt = 5) → (∀ x ∈ d.cmds, x.typ ≠ 0x031) →
      Answers s (.flashFormat hop) fun e => taken 0x031 e ∧ e.mountSt = 4 ∧ e.flash.jobs = [] ∧
        ∀ x ∈ d.flash.map, e.MapsTo x.1 MapEntry.none) ∧
    (is 0x031 → args = [a] → a.toNat ≠ d.getAt Reg.FUSE.CHIP_ID.ID 0 0 → Answers s (.flashFormat hop) (refused 0x031 0x01)) ∧
    (is 0x033 → args = [a] → d.flashWritable = true → isMapped (d.region a.toNat) = true →
      Answers s (.regionErase hop) fun e => taken 0x033 e ∧ e.flash.jobs = d.flash.jobs ++ [job a.toNat MapEntry.none]) ∧
    (is 0x033 → args = [a] → (d.flashWritable = false ∨ isMapped (d.region a.toNat) = false) →
      Answers s (.regionErase hop) (refused 0x033 0x01)) ∧
    (is 0x032 → args.take 2 = [a, b] →
      (d.flashWritable = false → Answers s (.libWrite hop) (refused 0x032 0x01)) ∧
      (d.flashWritable = true → 0xFF00 ≤ region → Answers s (.libWrite hop) (refused 0x032 0x02)) ∧
      (d.flashWritable = true → region < 0xFF00 → 1 < a.toNat / 2 ^ 20 → Answers s (.libWrite hop) (refused 0x032 0x03)) ∧
      (∀ g t, d.flashWritable = true → region < 0xFF00 → a.toNat / 2 ^ 20 ≤ 1 → b ≠ 0#28 → b.toNat ≤ d.regionChunks →
        d.libGroup (a.toNat / 65536 % 16) = .inr g → d.bestStripe g = some t →
        (cmdOf hop tag prio 0x032 args).withList.count ≠ 0 → Answers s (.libWrite hop) fun e =>
          e.ReadsList (cmdOf hop tag prio 0x032 args) ∧
          e.flash.jobs = d.flash.jobs ++ [job region
            ⟨1, BitVec.ofNat 3 g, BitVec.ofNat 14 t, BitVec.ofNat 8 (a.toNat / 2 ^ 20), BitVec.ofNat 20 b.toNat⟩]))

/-! ### Flash management -/

/-- R307 and R313 to R317: a journal record commits the change of its job; the map copy is rewritten; regions are relocated,
refreshed and levelled to a stripe that is free, and a relocation copies chunk by chunk.
The model's choices in it: log 117, 118, 120, 123, 124, 180. -/
def Obligations.FlashJobs : Prop :=
  ∀ (s : State) (hop : Fin 4) (tag : Byte) (r : BitVec 16) (g : BitVec 3) (t : BitVec 14) (x : FlashRead),
    let d := s.dev
    let flash (f : Flash → Flash) : Dev := { d with flash := f d.flash }
    let job : FlashJob := ⟨.reloc r, r.toNat, { d.region r.toNat with group := g, stripe := t }, false, 0⟩
    let ready : Prop := d.flashWritable = true ∧ d.movable r.toNat = true ∧ d.moveTarget r.toNat g.toNat t.toNat = some (some t.toNat)
    let ending (n : Nat) : Prop := ∃ p ∈ d.flash.pend, p.1 = n ∧ p.2.2 = true
    (d.flash.jobs.find? (·.job = .cmd hop tag) = none → Leads s (.journalCommit (.cmd hop tag)) d) ∧
    (∀ j c, d.flash.jobs.find? (·.job = .cmd hop tag) = some j → d.cmd hop tag.toNat = some c → c.stage = .work →
      c.aborted = false → c.typ ∈ cmdTypes → d.link.out.any (·.writes hop tag.toNat) = false → d.CanReport (doneHop hop) →
      Answers s (.journalCommit (.cmd hop tag)) fun e =>
        e.Completed hop tag.toNat c.prio c.typ .done 0
          (if j.entry.state = 0#3 then 0 else j.entry.group.toNat * 2 ^ 22 + j.entry.stripe.toNat * 2 ^ 8) ∧
        e.flash.journal = d.flash.journal + 1 ∧ (∀ x ∈ e.flash.jobs, x.job ≠ .cmd hop tag) ∧ e.MapsTo j.region j.entry) ∧
    (∀ j, d.flash.jobs.find? (·.job = .reloc r) = some j → j.entry.chunks.toNat ≤ j.moved → ¬ending j.region →
      Answers s (.journalCommit (.reloc r)) fun e => e.flash.journal = d.flash.journal + 1 ∧ e.MapsTo j.region j.entry ∧
        e.hasEvent 0x058 (if j.refresh then 7 else 6)) ∧
    (∀ j, d.flash.jobs.find? (·.job = .reloc r) = some j → j.moved < j.entry.chunks.toNat →
      Leads s (.journalCommit (.reloc r)) d) ∧
    (∀ j, d.flash.jobs = [j] → j.job = .reloc r → j.moved < j.entry.chunks.toNat →
      Answers s (.flashOpDone (.source r x)) fun e => e.flash.jobs = [{ j with moved := j.moved + 1 }] ∧
        e.nand.cells = (d.programChunk j.entry j.moved (gotBytes (d.climb r.toNat j.moved x))).nand.cells) ∧
    (d.flashWritable = true → 4096 ≤ d.flash.journal →
      Leads s .mapCopyRewrite (flash fun f => { f with journal := 0, copyNext := 1 - f.copyNext })) ∧
    (d.flash.journal < 4096 → Leads s .mapCopyRewrite d) ∧
    (ready → d.readsDue r.toNat = true →
      Leads s (.relocate r g t) (flash fun f => { f with jobs := f.jobs ++ [job] })) ∧
    (ready → r.toNat ∈ d.flash.due →
      Leads s (.refresh r g t) (flash fun f => { f with jobs := f.jobs ++ [{ job with refresh := true }] })) ∧
    (d.readsDue r.toNat = false → Leads s (.relocate r g t) d) ∧ (r.toNat ∉ d.flash.due → Leads s (.refresh r g t) d) ∧
    (∀ n, d.leastWorn g.toNat = some (r.toNat, n) → d.flashWritable = true → d.movable r.toNat = true →
      d.bestStripe g.toNat = some t.toNat →
        (n + 200 < d.groupMaxPE g.toNat → d.groupBad g.toNat = false →
          Leads s (.wearLevel g) (flash fun f => { f with jobs := f.jobs ++ [job] })) ∧
        ((d.groupMaxPE g.toNat ≤ n + 200 ∨ d.groupBad g.toNat = true) → Leads s (.wearLevel g) d))

/-- R306, R308 to R311, R313 and R315: operations that start, end and time out, unreadable LUNs, grown bad blocks, and
patrol. The model's choices in it: log 116, 117, 118, 120, 123, 180, 182. -/
def Obligations.FlashLunsAndPatrol : Prop :=
  ∀ (s : State) (lun : BitVec 7) (b : BitVec 14) (erase : Bool) (r : BitVec 16) (chunk : BitVec 20) (x : FlashRead),
    let d := s.dev
    let l := lun.toNat
    let k := chunk.toNat
    let flash (f : Flash → Flash) : Dev := { d with flash := f d.flash }
    let key := l * 0x4000 + b.toNat
    let cnt := d.getAt Reg.FCH.TIMEOUT_CNT.COUNT (l % 8) 0
    let stripe := d.stripeOf l b.toNat
    let spare := (d.freeSpares l).filter (· ≠ b.toNat)
    let bad : Prop := 2 ≤ tabGet 0 d.flash.timeouts l ∨ 64 ≤ tabGet 0 d.flash.streak l
    let busy (e : Bool) : Prop := tabFind d.flash.busy l = some (b.toNat, e) ∧ d.lunOn l = true
    let free : Prop := (d.flashWritable = true ∨ d.formatting = true) ∧ d.lunOn l = true ∧
      d.stopping (domFlash 0) = false ∧ d.stopping (domFlash (l % 8 / 2)) = false ∧
      d.getAt Reg.FLASH.LUN_STAT.STATE 0 l = 1 ∧ d.groupBad (l / 16) = false ∧ d.opTarget l b.toNat erase = true
    let chunks := (d.region r.toNat).chunks.toNat
    let patrols : Prop := d.flashMounted = true ∧ d.stopping (domFlash 0) = false ∧ isSystem r.toNat = false ∧
      isMapped (d.region r.toNat) = true ∧ k < chunks ∧ k = tabGet 0 d.flash.patrols r.toNat ∧
      (k ≠ 0 ∨ d.patrolNext r.toNat = true)
    (d.isOn (domFlash (l % 8 / 2)) = true → cnt < 0xFFFF → Answers s (.flashTimeout lun) fun e =>
      tabGet 0 e.flash.timeouts l = tabGet 0 d.flash.timeouts l + 1 ∧ e.getAt Reg.FCH.TIMEOUT_CNT.COUNT (l % 8) 0 = cnt + 1 ∧
      tabFind e.flash.busy l = none ∧ e.hasEvent (0x060 + l % 8) 0) ∧
    (d.flashMounted = true → l < 16 * d.lunGroups → bad →
      Answers s (.lunUnreadable lun) fun e => e.lunBad l = true ∧ (d.lunBad l = false → e.hasEvent 0x058 3)) ∧
    (¬bad → Leads s (.lunUnreadable lun) d) ∧
    (free → d.groupBusy (l / 16) = false → Leads s (.flashOpDone (.start lun b erase))
      ((flash fun f => { f with busy := tabSet f.busy l (b.toNat, erase) }).putAt Reg.FLASH.LUN_STAT.STATE 0 l 2)) ∧
    (d.groupBusy (l / 16) = true → Leads s (.flashOpDone (.start lun b erase)) d) ∧
    (¬busy false → Leads s (.flashOpDone (.program lun b erase)) d) ∧
    (busy false → d.getAt Reg.FLASH.LUN_STAT.STATE 0 l = 2 → Leads s (.flashOpDone (.program lun b true))
      ((flash fun f => { f with busy := tabDel f.busy l, timeouts := tabDel f.timeouts l }).putAt
        Reg.FLASH.LUN_STAT.STATE 0 l 1)) ∧
    (busy true → Answers s (.flashOpDone (.erase lun b true)) fun e =>
      tabGet 0 e.flash.pe key = tabGet 0 d.flash.pe key + 1 ∧ tabGet 0 e.flash.reads key = 0 ∧
      (∀ k, k ≠ key → tabGet 0 e.flash.pe k = tabGet 0 d.flash.pe k) ∧ e.flash.map = d.flash.map ∧
      ∀ c, cellKey l stripe 0 0 ≤ c → c < cellKey l (stripe + 1) 0 0 → tabFind e.nand.cells c = none) ∧
    (busy false → d.flash.bad.contains key = false → stripe < d.stripes →
      Answers s (.flashOpDone (.program lun b false)) fun e => e.hasEvent 0x058 4 ∧ key ∈ e.flash.bad ∧
        e.getAt Reg.FLASH.LUN_STAT.SPARES 0 l = (e.freeSpares l).length ∧
        (∀ n, spare.head? = some n → e.blockOf l stripe = n) ∧
        (spare = [] → l / 16 * 0x4000 + stripe ∈ e.flash.retired)) ∧
    (patrols → Answers s (.patrol r ⟨chunk, x⟩) fun e =>
      (k + 1 = chunks → tabGet 0 e.flash.age r.toNat = 0 ∧ tabGet 0 e.flash.patrols r.toNat = 0) ∧
      (k + 1 < chunks → e.flash.age = d.flash.age ∧ tabGet 0 e.flash.patrols r.toNat = k + 1) ∧
      lostKey r.toNat k ∉ e.flash.owed ∧
      (∀ got, d.climb r.toNat k x = some got →
        (2 ≤ got.step ∨ d.get Reg.FLASH.REFRESH_BITS.BITS < got.bits → r.toNat ∈ e.flash.due) ∧
        (got.step = 1 → got.bits ≤ d.get Reg.FLASH.REFRESH_BITS.BITS → e.flash.due = d.flash.due)) ∧
      (d.climb r.toNat k x = none → e.flash.due = d.flash.due ∧ e.hasEvent 0x058 2)) ∧
    (isSystem r.toNat = false → isMapped (d.region r.toNat) = false → Leads s (.patrol r ⟨chunk, x⟩) d)

/-- R299 to R302, R306, R307, R320, R323 and R475: a mount that fails gives its reason, 0x01 where a pair has no rail;
one that finds a blank medium, and one that finds a volume, take over what they found.
The model's choices in it: log 104, 116, 119, 121, 180. -/
def Obligations.MountCompletes : Prop :=
  ∀ (s : State) (r : MountReport) (c : ChanReport),
    let d := s.dev
    let luns := (bitList c.ceMask.toNat 4).length * c.lunsPerTarget.toNat
    let booting : Prop := d.booting = true ∧ (d.aon.bootLoad = true ∨ 2 ≤ d.aon.bootOutcome)
    let awaits : Prop := d.flashOn = true ∧ d.mountSt = 1 ∧ d.flashQuiet = true ∧ ¬booting
    let fails (k : Nat) (P : Dev → Prop) : Prop := Answers s (.mountDone r) fun e =>
      e.mountSt = 5 ∧ e.get Reg.FLASH.STATUS.FAIL_REASON = k ∧ e.hasEvent 0x058 1 ∧ P e
    ((d.mountSt ≠ 1 ∨ d.flashOn = false ∨ d.flashQuiet = false) → d.aon.stage = .ready → Leads s (.mountDone r) d) ∧
    (awaits → ∀ k, chansFail (d.chansSeen r.chans) = some k → fails k fun _ => True) ∧
    (awaits → r.chans.length = 8 → (∃ p, p < 4 ∧ d.pairRail p = false) → fails 1 fun _ => True) ∧
    (awaits → chansFail (d.chansSeen r.chans) = none → ∀ k, volFail r.vol = some k → fails k fun e =>
      e.get Reg.FLASH.STATUS.VOL_FMT = volFormat r.vol) ∧
    (awaits → (∀ p, p < 4 → d.pairRail p = true) → chansFail r.chans = none → r.chans.head? = some c → volFail r.vol = none →
      Answers s (.mountDone r) fun e => e.hasEvent 0x058 0 ∧ e.get Reg.FLASH.STATUS.FAIL_REASON = 0 ∧
        e.lunGroups = luns / 2 ∧ e.get Reg.FLASH.GEOM1.BLOCKS = c.blocks ∧
        e.get Reg.FLASH.GEOM1.STRIPES = c.blocks - (c.blocks + 49) / 50 ∧
        (r.vol = .blank → e.mountSt = 4 ∧ e.flash.map = []) ∧
        (∀ v, r.vol = .volume v → e.mountSt = (if 1 < v.format.toNat then 3 else 2) ∧
          e.flash.bootSeq = v.bootSeq.toNat ∧ e.flash.bootCopy = v.bootCopy.val))

/-! ### Lanes, clocks and MIDI -/

/-- R328 to R330, R332 to R334, R339, R340 and R342: samples go from an input lane, through its elastic buffer where its
clock comes from outside, to every active port of it, in the copy of the running frame, and from the copy that an owner
completed to an output lane; updates of the port table wait for the commit.
The model's choices in it: log 63, 64, 65, 183, 184. -/
def Obligations.LaneSamples : Prop :=
  ∀ (s : State) (lane : Fin 64) (chan : BitVec 6) (pos : BitVec 7) (r : RxSample) (w : Cont) (v : DW),
    let d := s.dev
    let n := lane.val
    let k := d.laneKind n
    let key := chanKey n chan.toNat
    let runs : Prop := d.laneRuns n = true ∧ chan.toNat < k.channels ∧ pos.toNat < d.frameSize ∧ d.baseOk = true
    let addr (c p : Nat) : Nat := d.portAddr p c pos.toNat
    let plain : Prop := k = .i2s ∨ ∃ m, k = .tdm m
    let lock (e : Dev) : Nat := e.getAt Reg.PORTS.LANE_STAT.LOCK (n / 8) (n % 8)
    let here : Prop := k = .aes3 ∧ r.locked = true ∧ r.rateOk = true ∧ r.words = [w] ∧ oddOnes w 31 4 = false ∧
      w.getLsbD 28 = false ∧ r.statusCrcOk = true
    let ports (f : Ports → Ports) : Dev := { d with ports := f d.ports }
    let buffer (e : Dev) : List DW := tabGet [] e.ports.elastic key
    let f := tabGet 0 d.ports.status key
    let sends (x : Cont) : Dev :=
      ports fun q => { q with tx := tabSet q.tx key x, status := tabSet q.status key ((f + 1) % 192) }
    let stored (x : DW) (e : Dev) : Prop := ∀ p ∈ d.portsOf false n chan.toNat,
      d.isCold (addr (d.frame12 % 4) p) = false → e.dwAt (addr (d.frame12 % 4) p) = x
    (runs → d.laneOut n = false →
      (plain → d.buffered n = false → r.words = [w] →
        Answers s (.laneSampleRx lane chan pos r) (stored (w.extractLsb' 4 28))) ∧
      (∀ a b, buffer d = [a, b] →
        (plain → d.buffered n = true → r.words = [w] → Answers s (.laneSampleRx lane chan pos r) fun e =>
          stored a e ∧ buffer e = [b, w.extractLsb' 4 28]) ∧
        (here → lock d = 1 → Answers s (.laneSampleRx lane chan pos r) fun e =>
          stored a e ∧ buffer e = [b, w.extractLsb' 4 24 ++ 0#4] ∧ lock e = 1)) ∧
      (here → lock d = 0 → Answers s (.laneSampleRx lane chan pos r) fun e => stored 0#28 e ∧ lock e = 1) ∧
      (k = .aes3 → r.locked = false → Answers s (.laneSampleRx lane chan pos r) fun e => stored 0#28 e ∧ lock e = 0) ∧
      (k = .sensor → r.words = [w] → oddOnes w 15 0 = true → w.getLsbD 1 = true →
        Answers s (.laneSampleRx lane chan pos r) (stored ((w.extractLsb' 2 14).signExtend 28)))) ∧
    (runs → d.laneOut n = true →
      (∀ p rest c, d.portsOf true n chan.toNat = p :: rest → tabFind d.ports.rel (p / 4) = some c →
        d.isCold (addr c p) = false → d.tagAt (addr c p) = .good → Leads s (.laneSampleTx lane chan pos)
          (sends (d.toWord k chan.toNat f true (d.dwAt (addr c p))))) ∧
      (d.portsOf true n chan.toNat = [] → Leads s (.laneSampleTx lane chan pos)
        (sends (d.toWord k chan.toNat f false 0#28)))) ∧
    (plain → ∀ active, d.toWord k chan.toNat f active v = v ++ 0#4) ∧
    (d.laneOut n = true → d.laneRuns n = false → tabFind d.ports.stopped (n / 8) = none →
      Leads s (.laneSampleRx lane chan pos r) d ∧ Leads s (.laneSampleTx lane chan pos)
        (ports fun q => { q with tx := tabDel q.tx key, status := tabDel q.status key })) ∧
    (d.isOn (domPorts 0) = true → d.ports.queue.length < 1024 →
      Leads s (.ptWrite v) (ports fun q => { q with queue := q.queue ++ [v] })) ∧
    (d.isOn (domPorts 0) = true → 1024 ≤ d.ports.queue.length → Leads s (.ptWrite v) d (·.hasEvent 0x078 2))

/-- R341, R344, R352 and R476: a group clock from outside comes and goes, a receiver loses lock, and a lane group's I/O
rail leaves tolerance and returns. The model's choices in it: log 62, 66, 185. -/
def Obligations.GroupClocksAndRails : Prop :=
  ∀ (s : State) (g : Fin 8) (here : Bool) (phase : Byte) (lane : Fin 64) (p : Fin 4),
    let d := s.dev
    let on : Prop := d.isOn (domPorts g) = true
    let lock (e : Dev) (n : Nat) : Nat := e.getAt Reg.PORTS.LANE_STAT.LOCK (n / 8) (n % 8)
    let seen : Bool := here && d.padsSeen g
    (d.getAt Reg.PORTS.GCFG.MASTER g 0 = 1 → Leads s (.glockChange g here phase) d) ∧
    (on → d.getAt Reg.PORTS.GCFG.MASTER g 0 = 0 → Answers s (.glockChange g here phase) fun e =>
      e.getAt Reg.PORTS.GSTAT.GLOCK g 0 = (if seen then 1 else 0) ∧
      e.getAt Reg.PORTS.GSTAT.PHASE g 0 = (if seen then phase.toNat else 0) ∧
      (d.getAt Reg.PORTS.GSTAT.GLOCK g 0 ≠ (if seen then 1 else 0) → e.hasEvent (0x070 + g) 4)) ∧
    ((d.laneKind lane).ownClock = true → d.laneOut lane = false → Answers s (.laneLockLoss lane) fun e =>
      lock e lane = 0 ∧ (lock d lane = 1 → e.hasEvent (0x070 + lane / 8) 0 ∧
        (d.isOn domRouter = true → 96 + lane.val ∉ d.router.awaiting → e.hasShared (96 + lane)))) ∧
    ((d.laneKind lane).ownClock = false → Leads s (.laneLockLoss lane) d) ∧
    (on → Answers s (.ioRailLoss (.lane g)) fun e => 4 + g.val ∈ e.power.railLost ∧
      (∀ i, i < 8 → lock e (8 * g + i) = 0) ∧ ∀ i c, i < 8 → c < 64 → tabFind e.ports.tx (chanKey (8 * g + i) c) = none) ∧
    (d.isOn (domFlash p) = true → Leads s (.ioRailLoss (.flash p))
      { d with power := { d.power with railLost := setInsert d.power.railLost p } }) ∧
    Answers s (.ioRailReturn (.lane g)) (fun e => 4 + g.val ∉ e.power.railLost) ∧
    Leads s (.ioRailReturn (.flash p)) { d with power := { d.power with railLost := setErase d.power.railLost p } }

/-- R335, R336, R411 to R414: the frame clock, its reference, and the oscillators. R42, R368 and R431: the tick
counts, from row 3 of start-up. The model's choices in it: log 43, 52, 55, 58. -/
def Obligations.ClocksAndTicks : Prop :=
  (∀ (s : State) (v : DW) (ok : Bool),
    let d := s.dev
    let st (e : Dev) (f : RegFld) : Nat := e.get f
    let lock := Reg.CLOCKS.STATUS.LOCK
    let hold := Reg.CLOCKS.STATUS.HOLDOVER
    let on : Prop := d.isOn (domPorts 0) = true
    let old := (d.regGet (Reg.CLOCKS.CFG.FB.key 0 0)).toNat
    let legal : Prop := 2 ≤ bitsOf v.toNat 12 10 ∧ bitsOf v.toNat 9 8 ≠ 3
    let same : Prop := bitsOf old 12 7 = bitsOf v.toNat 12 7
    let cfg (e : Dev) : Prop := e.get Reg.CLOCKS.CFG.N_LOG2 = bitsOf v.toNat 12 10 ∧ e.get Reg.CLOCKS.CFG.MULT = bitsOf v.toNat 9 8 ∧
      e.get Reg.CLOCKS.CFG.FB = bitsOf v.toNat 7 7 ∧ e.get Reg.CLOCKS.CFG.REF = bitsOf v.toNat 5 4
    let lost (e : Dev) : Prop := st e hold = 1 ∧ st e Reg.CLOCKS.STATUS.REF_PRESENT = 0 ∧ e.hasEvent 0x091 1 ∧ st e lock = 1
    (on → st d lock = 0 → d.refSeen = true → Answers s .pllLock fun e =>
      st e lock = 1 ∧ st e Reg.CLOCKS.STATUS.FRAME_RUN = 1 ∧ e.hasEvent 0x091 0 ∧ e.aon.frame = d.aon.frame) ∧
    (st d lock = 1 → Leads s .pllLock d) ∧
    (on → st d lock = 1 → st d hold = 0 → Answers s .refLost lost) ∧
    (on → st d lock = 1 → st d hold = 1 → d.refSeen = true → Answers s .realigned fun e => st e hold = 0 ∧ e.hasEvent 0x091 3) ∧
    (on → Answers s .wrongRate fun e => st e Reg.CLOCKS.STATUS.WRONG_RATE = 1 ∧ e.hasEvent 0x091 2) ∧
    ((¬legal ∨ (¬same ∧ d.rateInUse = true)) → Leads s (.clocksCfg v) d (·.hasEvent 0x091 4)) ∧
    (legal → ¬same → d.rateInUse = false → Answers s (.clocksCfg v) fun e => cfg e ∧
      (on → st e lock = 0 ∧ st e Reg.CLOCKS.STATUS.FRAME_RUN = 0)) ∧
    (legal → same → st d Reg.CLOCKS.CFG.REF ≠ bitsOf v.toNat 5 4 → on → st d lock = 1 → st d hold = 0 →
      Answers s (.refSelect v ok) fun e => cfg e ∧ e.aon.realigning = true ∧ (ok = false → lost e) ∧ (ok = true → st e hold = 0)) ∧
    Answers s .xtalOk (fun e => st e Reg.CLOCKS.STATUS.XTAL_OK = 1 ∧ st e Reg.CLOCKS.STATUS.PILOT_SUB = 0) ∧
    Answers s .xtalFail (fun e => st e Reg.CLOCKS.STATUS.XTAL_OK = 0 ∧ st e Reg.CLOCKS.STATUS.PILOT_SUB = 1 ∧
      st e Reg.CLOCKS.STATUS.PILOT_RUN = 1 ∧ e.hasEvent 0x091 7) ∧
    (d.pilotUsed = false → d.still → Answers s .pilotStop fun e => st e Reg.CLOCKS.STATUS.PILOT_RUN = 0) ∧
    (d.pilotUsed = true → Leads s .pilotStop d)) ∧
  (∀ s : State,
    let d := s.dev
    (d.aon.stage = .held → Leads s .aonTick d) ∧
    (d.aon.stage = .sensing → Leads s .aonTick { d with aon := { d.aon with sinceReset := d.aon.sinceReset + 1 } }) ∧
    (d.aon.stage ≠ .held → d.aon.stage ≠ .sensing → Answers s .aonTick fun e => e.aon.ticks = d.aon.ticks + 1 ∧
      e.aon.frame = d.aon.frame ∧ (∀ n, e.core n = { d.core n with run := (e.core n).run }) ∧
      ∀ x ∈ e.link.sent, x ∈ d.link.sent → (d.aon.ticks + 1).toNat ≤ x.tick + 4))

/-- R345 to R349 and R400: MIDI messages become items, bytes are sent in turn, and AON holds bytes while PORTS0 is not ON.
The model's choices in it: log 68, 70, 71. -/
def Obligations.Midi : Prop :=
  ∀ (s : State) (u : Fin 2) (sub : BitVec 6) (v : DW) (b : MidiByte) (st x y : BitVec 7),
    let d := s.dev
    let on : Prop := d.isOn (domPorts 0) = true
    let a := d.uart u
    let uart (f : Uart → Uart) : Dev := { d with ports := { d.ports with uart := tabSet d.ports.uart u (f a) } }
    let byte (n : Nat) : MidiByte := ⟨BitVec.ofNat 8 n, true⟩
    let n := d.getAt Reg.MIDI.CFG.HOP 0 u
    let held := tabGet [] d.power.midiRx u
    let pri := d.getAt Reg.MIDI.CFG.PRI 0 u
    let stamp : DW := BitVec.ofNat 28 (d.aon.frame.toNat % 2 ^ 22 * 64 + sub.toNat)
    (on → a.sysex = false → st.toNat < 0x70 → (st.toNat < 0x40 ∨ 0x60 ≤ st.toNat) → 6 ≤ n → d.isOn domHoppers = true →
      (d.hop n).part (66 + u) = none → ∀ k, d.hopAcct n (66 + u) = some k → 3 ≤ d.hopAvail n k →
        Answers s (.midiRxMessage u [byte (0x80 + st.toNat), byte x.toNat, byte y.toNat] sub) fun e =>
          (∃ i ∈ (e.hop n).ready, i.words.map (·.1) = [itemHeader pri 2 0x080 (u.val * 128 + a.tag),
            BitVec.ofNat 28 ((0x80 + st.toNat) * 2 ^ 16 + x.toNat * 2 ^ 8 + y.toNat), stamp]) ∧
          (e.uart u).status = 0x80 + st.toNat ∧ (e.uart u).msg = 0 ∧ e.getAt Reg.MIDI.STAT.RX_ACTIVE 0 u = 1) ∧
    (on → d.getAt Reg.MIDI.STAT.AS_SEEN 0 u = 1 → d.getAt Reg.MIDI.STAT.AS_TIMEOUT 0 u = 0 → Answers s (.asTimeout u) fun e =>
      e.getAt Reg.MIDI.STAT.AS_TIMEOUT 0 u = 1 ∧ e.getAt Reg.MIDI.STAT.RX_ACTIVE 0 u = 0 ∧ e.hasEvent 0x079 3) ∧
    (on → a.sending = none → a.fifo = [] →
      Leads s (.txData u v) (uart fun q => { q with sending := some (v.extractLsb' 0 8) })) ∧
    (on → a.sending ≠ none → a.fifo.length < 256 →
      Leads s (.txData u v) (uart fun q => { q with fifo := q.fifo ++ [v.extractLsb' 0 8] })) ∧
    (on → 256 ≤ a.fifo.length → Answers s (.txData u v) fun e => e.uart u = a ∧ e.hasEvent 0x079 2) ∧
    (on → Leads s (.midiTxByte u) (uart fun q => { q with sending := q.fifo.head?, fifo := q.fifo.tail })) ∧
    (¬on → held.length < 4 → Leads s (.midiAonRx u b)
      { d with power := { d.power with midiRx := tabSet d.power.midiRx u (held ++ [b]) } }) ∧
    (on → Leads s (.midiAonRx u b) d) ∧
    (∀ (p q z : DW) (tag : Byte), let m := d.getAt Reg.MIDI.CFG.TX_HOP 0 u
      6 ≤ m → d.served = true → on → d.isOn domHoppers = true → d.hopConsumer m = 64 → d.hopReplay m = false →
      (∃ i rest, (d.hop m).ready = i :: rest ∧ (d.hop m).log = [] ∧ (d.hop m).rest = [] ∧ (d.hop m).pos = 0 ∧
        i.words = [(0#3 ++ 3#6 ++ 0x084#11 ++ tag, .good), (p, .good), (q, .good), (z, .good)]) → p.toNat % 64 = 2 →
      a.sending = none → a.fifo = [] → Answers s (.midiTxForward u) fun e =>
        (e.uart u).sending = some (z.extractLsb' 16 8) ∧ (e.uart u).fifo = [z.extractLsb' 8 8])

/-! ### The host link -/

/-- R359 to R368: register and memory accesses of the host. A read is answered, a write takes effect; a packet that fails a
check is answered with NAK and does nothing else. The Adapter's retries are counted.
The model's choices in it: log 29, 30, 31, 34, 35, 38, 39, 41, 178. -/
def Obligations.HostAccesses : Prop :=
  ∀ (s : State) (p : Packet) (page off w : Nat) (v : Cont),
    let d := s.dev.retried p
    let d1 := d.numbered
    let read := d1.busRead .host page off
    let reply (x : Cont) : Packet := mkPacket (pktAddr p) 1 (pktTag p) 0 8 [x]
    let refused (i : Instr) (code : Nat) : Prop := Answers s i fun e => e.link.regQ = d.link.regQ ∧ e.link.memQ = d.link.memQ ∧
      e.mem = d.mem ∧ e.get Reg.HOSTLINK.NAK_LAST.CODE = code ∧ e.get Reg.HOSTLINK.NAK_LAST.TAG = pktTag p ∧
      e.hasEvent 0x080 3 ∧ e.Sent (mkPacket 0 2 (pktTag p) code 0xB [p.hdr.extractLsb' 0 32, p.hdr.extractLsb' 32 32])
    let memory : Prop := w < 0xD000000 ∧ d.isCold w = false ∧ spanOf (pktAddr p) 1 false = some (.mem [w])
    (s.dev.linkActive = false →
      Leads s (.regrd p) s.dev ∧ Leads s (.regwr p) s.dev ∧ Leads s (.memrd p) s.dev ∧ Leads s (.memwr p) s.dev) ∧
    (s.dev.linkFree →
      (goodPkt p 1 → pktLen p = 1 → spanOf (pktAddr p) 1 false = some (.regs page off) → d.reqWaits p = false →
        Leads s (.regrd p) read.2 (·.Sent (reply read.1))) ∧
      (goodPkt p 2 → p.payload = [v] → spanOf (pktAddr p) 1 true = some (.regs page off) → d.pageOn page = true →
        d.reqWaits p = false → Leads s (.regwr p) (d1.busWrite .host page off (v.setWidth 28))) ∧
      (goodPkt p 3 → pktLen p = 1 → memory → d.tagAt w = .good →
        d.reqWaits p = false → Leads s (.memrd p) d1 (·.Sent (reply (contOf (d.dwAt w))))) ∧
      (goodPkt p 4 → p.payload = [v] → memory → d.reqWaits p = false → Leads s (.memwr p) (d1.storeDW w (v.setWidth 28)))) ∧
    (s.dev.linkHere → pktType p ≠ 0 →
      (p.crc ≠ crc16 p.hdr p.payload → refused (.regwr p) 1) ∧
      (p.crc = crc16 p.hdr p.payload → pktType p = 2 → p.payload = [v] → pktLen p = 1 → pktAddr p % 4 = 0 →
        v.extractLsb' 28 4 ≠ 0#4 → refused (.regwr p) 2) ∧
      (p.crc = crc16 p.hdr p.payload → pktType p = 4 → p.payload = [v] → pktLen p ≠ 1 → refused (.memwr p) 3) ∧
      (goodPkt p 3 → d.tagBusy (pktTag p) = true → refused (.memrd p) 5)) ∧
    (s.dev.linkActive = true → s.dev.stopping domLink = true → goodPkt p 2 → Leads s (.regwr p)
      { d with link := { d.link with stalled := d.link.stalled ++ [p] } })

/-- R245, R364 and R368 to R372: PUSH, CPL and NAK packets, and a completion that does not come.
The model's choices in it: log 32, 33, 36, 107, 186. -/
def Obligations.PushCplAndNak : Prop :=
  ∀ (s : State) (p : Packet) (hdr : DW) (rest : List DW) (late : Bool) (r : DevRead) (c : Cmd) (tag : BitVec 10),
    let d := s.dev.retried p
    let n := pktAddr p
    let words := p.payload.map fun (v : Cont) => v.setWidth 28
    let reads (d : Dev) (t : Nat) : Prop := d.link.reads.find? (·.tag = t) = some r ∧ r.closed = false ∧
      d.cmd r.hop r.cmdTag = some c ∧ c.typ ∈ cmdTypes ∧ d.link.out.any (·.writes r.hop r.cmdTag) = false
    let cnt := d.get Reg.HOSTLINK.NAK_RX_CNT.COUNT
    let bytes := p.payload.flatMap fun w => leBytes 4 w.toNat
    (s.dev.linkFree → goodPkt p 5 → n < 16 → n ≠ 4 → n ≠ 5 → d.isOn domHoppers = true → words = hdr :: rest →
      hdr.toNat / 2 ^ 19 % 64 = rest.length → hdr.toNat / 256 % 2048 ≠ 0 → hdr.toNat / 256 % 2048 ≠ 0x7FF →
      (d.hop n).part 65 = none → ∀ k, d.hopAcct n 65 = some k → words.length ≤ d.hopAvail n k →
        Answers s (.pushPacket p) fun e => (∃ i ∈ (e.hop n).ready, i.words = words.map fun w => (w, .good)) ∧
          (e.hop n).fill = (d.hop n).fill + words.length) ∧
    (s.dev.linkFree → goodPkt p 5 → 16 ≤ n → Answers s (.pushPacket p) fun e =>
      (∀ m, m ≠ 4 → m ≠ 5 → (e.hop m).fill = (d.hop m).fill) ∧ e.get Reg.HOSTLINK.NAK_LAST.CODE = 4 ∧ e.hasEvent 0x080 3) ∧
    (s.dev.linkActive = true → goodPkt p 8 → reads d (pktTag p) →
      (pktCode p ≠ 0 → c.typ = 0x010 → d.CanReport (doneHop r.hop) → Answers s (.cpl p)
        (·.Completed c.hop c.tag c.prio c.typ .failed 0x85 0)) ∧
      (pktCode p = 0 → p.payload.length = r.len / 4 → c.typ = 0x010 → c.stage = .data → c.ahead = [] → r.off = c.moved →
        c.moved + bytes.length < c.need → Answers s (.cpl p) fun e => ∃ m, e.cmd c.hop c.tag =
          some { c with moved := c.moved + bytes.length, data := c.data ++ bytes, asked := m })) ∧
    (s.dev.linkActive = true → goodPkt p 8 → d.link.reads.find? (·.tag = pktTag p) = some r → r.closed = true →
      (∀ x ∈ d.cmds, x.wants = none) → Answers s (.cpl p) fun e =>
        e.cmds = d.cmds ∧ e.link.reads = d.link.reads.filter (·.tag ≠ pktTag p)) ∧
    (s.dev.linkActive = true → goodPkt p 8 → (∀ x ∈ d.link.reads, x.tag ≠ pktTag p) → Answers s (.cpl p) fun e =>
      e.cmds = d.cmds ∧ e.get Reg.HOSTLINK.NAK_LAST.CODE = 3 ∧ e.hasEvent 0x080 3) ∧
    (s.dev.linkActive = true → goodPkt p 11 → pktLen p = 2 → Answers s (.nak p late) fun e =>
      (cnt < 0xFFFF → e.get Reg.HOSTLINK.NAK_RX_CNT.COUNT = cnt + 1) ∧ e.hasEvent 0x080 4) ∧
    (reads s.dev tag.toNat → s.dev.CanReport (doneHop r.hop) → c.typ = 0x010 → Answers s (.cplTimeout tag) fun e =>
      e.Completed c.hop c.tag c.prio c.typ .failed 0x86 0 ∧ e.hasEvent 0x080 5) ∧
    ((∀ x ∈ s.dev.link.reads, x.tag = tag.toNat → x.closed = true) → Leads s (.cplTimeout tag) s.dev)

/-- R356, R369, R372, R378 to R383: the states of the link, and the hold of HRB_N.
The model's choices in it: log 10, 37, 39, 40, 186. -/
def Obligations.LinkStates : Prop :=
  ∀ (s : State) (rates : BitVec 6) (lo hi l2 : Bool) (r : Nat),
    let d := s.dev
    let on : Prop := d.isOn domLink = true
    let moved (d : Dev) (n : Nat) : Dev := d.put Reg.HOSTLINK.STATUS.STATE n
    let trained (n : Nat) : Dev := (moved d 2).put Reg.HOSTLINK.STATUS.RATE n
    let width (d : Dev) (w h : Nat) : Dev := (d.put Reg.HOSTLINK.STATUS.WIDTH w).put Reg.HOSTLINK.STATUS.HALF h
    let quiet : Prop := d.link.readWaits = false ∧ d.link.reads = []
    let en := if l2 then Reg.HOSTLINK.CFG.L2_EN else Reg.HOSTLINK.CFG.L1_EN
    (on → d.power.held.contains 12 = false → (d.linkSt = 1 ∨ d.linkSt = 2 ∨ d.linkSt = 6) → d.linkRate rates.toNat = some r →
      Leads s (.linkTraining rates true lo hi) (width (trained r) 0 0) ∧
      Leads s (.linkTraining rates false true false) (width (trained r) 1 0) (·.hasEvent 0x080 2) ∧
      Leads s (.linkTraining rates false false true) (width (trained r) 1 1) (·.hasEvent 0x080 2) ∧
      Answers s (.linkTraining rates false true true) fun e => e.linkSt = 2 ∧ e.get Reg.HOSTLINK.STATUS.WIDTH = 1) ∧
    Leads s (.linkTraining rates false false false) d ∧
    (on → (d.linkSt = 2 ∨ d.linkSt = 4 ∨ d.linkSt = 5) → Answers s .linkUp fun e => e.linkSt = 3 ∧ e.hasEvent 0x080 0 ∧
      ∀ n k, n < 16 → d.isOn domHoppers = true → d.hopAcct n 65 = some k →
        e.Sent (mkPacket n 2 0 0 9 [BitVec.ofNat 32 (d.hop n).charged, BitVec.ofNat 32 (d.hopAvail n k)])) ∧
    (d.linkSt = 3 → Leads s .linkUp d) ∧
    (on → d.linkSt = 3 → d.hostIdle → d.link.stalled = [] →
      (d.link.reads = [] → Leads s .linkDown (moved d 6) (·.hasEvent 0x080 1)) ∧
      (∀ x ∈ d.link.reads, x.closed = false → d.link.out.any (·.writes x.hop x.cmdTag) = false →
        ∀ c, d.cmd x.hop x.cmdTag = some c → c.typ = 0x010 → d.CanReport (doneHop x.hop) →
        (∀ y ∈ d.link.reads, y.hop = x.hop ∧ y.cmdTag = x.cmdTag) → Answers s .linkDown fun e =>
          e.linkSt = 6 ∧ e.Completed c.hop c.tag c.prio c.typ .failed 0x84 0)) ∧
    (on → d.linkSt = 3 → d.flag en = true → quiet → Leads s (.linkPowerRequest l2) (moved d (if l2 then 5 else 4))) ∧
    ((d.linkSt ≠ 3 ∨ d.flag en = false ∨ ¬quiet) → Leads s (.linkPowerRequest l2) d) ∧
    (on → d.attnW ≠ 0 → d.flag Reg.ATTN.CFG.EN = true → d.attn.hrb ≠ some true → Answers s .attnHoldExpiry fun e =>
      e.attn.hrb = some true ∧ d.get Reg.ATTN.CFG.HOLD ≤ e.attn.hold ∧ e.hasEvent 0x081 0) ∧
    (d.attnW = 0 → Leads s .attnHoldExpiry d)

/-! ### Power -/

/-- R392 to R396: a request is refused with its reason or begins an entry; an entry goes from stage to stage, is abandoned
before its commit point, and ends with its domains lowered. The model's choices in it: log 85, 88, 178. -/
def Obligations.PowerEntry : Prop :=
  ∀ (s : State) (x : EntryRec) (v : DW),
    let d := s.dev
    let go : Instr := .go 1#28
    let p := d.power
    let free : Prop := p.entry = none ∧ p.exit = none ∧ p.bankInit = none
    let leave := d.entryDoms.map (·.1)
    let result (e : Dev) (st reason stage : Nat) : Prop := e.get Reg.POWER.RESULT.STATUS = st ∧
      e.get Reg.POWER.RESULT.REASON = reason ∧ e.get Reg.POWER.RESULT.STAGE = stage ∧ e.hasEvent 0x090 0
    let refused (reason : Nat) : Prop := Answers s go fun e => result e 3 reason 0 ∧ e.power.dom = p.dom
    let fits : Prop := d.reqStateBad = false ∧ d.reqOrderBad leave = false
    let stage (e : Dev) (P : EntryRec → Prop) : Prop := ∃ y, e.power.entry = some y ∧ y.doms = x.doms ∧ P y
    let on : Prop := p.entry = some x ∧ x.undoing = false ∧ d.hostQuiet
    let going : Prop := on ∧ x.aborted = false ∧ x.abandoned = none
    (¬free → refused 0x04) ∧ (free → d.reqStateBad = true → refused 0x01) ∧
    (free → d.reqStateBad = false → d.reqOrderBad leave = true → refused 0x02) ∧
    (free → fits → d.reqStreamsBad leave = true → refused 0x03) ∧
    (free → fits → d.reqStreamsBad leave = false → d.reqBarrierBad leave = true → refused 0x05) ∧
    (free → fits → d.reqStreamsBad leave = false → d.reqBarrierBad leave = false → leave ≠ [] → Answers s go fun e =>
      ∃ y, e.power.entry = some y ∧ y.doms = d.entryDoms ∧ y.lower = d.entryLower ∧ y.stage = 1 ∧ y.done = 0 ∧ y.undoing = false) ∧
    (bitOf v.toNat 0 = false → bitOf v.toNat 1 = false → Leads s (.go v) d) ∧
    (on → x.stage < 5 → Answers s .powerAbort fun e => stage e fun y => y.aborted = true ∧ y.stage = x.stage) ∧
    (on → 5 ≤ x.stage → Answers s .powerAbort fun e => stage e fun y => y.late = true ∧ y.stage = x.stage) ∧
    (p.entry = none → Leads s .powerAbort d ∧
      (d.hostQuiet → Leads s .entryStageEnd d ∧ Leads s .drainTimeout d)) ∧
    (going → 1 ≤ x.stage → x.stage < 6 → (x.stage = 2 → d.drained x = true) → Answers s .entryStageEnd fun e =>
      stage e fun y => y.stage = x.stage + 1 ∧ y.done = x.stage ∧ y.undoing = false) ∧
    (going → x.stage = 2 → d.drained x = false → Leads s .entryStageEnd d) ∧
    (on → x.stage < 5 → 1 ≤ x.stage → (x.stage = 2 → d.drained x = true) → x.aborted = true → Answers s .entryStageEnd fun e =>
      stage e fun y => y.undoing = true ∧ y.done = x.stage) ∧
    (going → x.stage = 6 → x.lower = [] → (x.doms.map (·.1)).Nodup → Answers s .entryStageEnd fun e => result e 1 0 6 ∧
      (e.get Reg.POWER.RESULT.ABORT_LATE = 1 ↔ x.late = true) ∧
      ∀ n off, (n, off) ∈ x.doms → e.domSt n = (if off then .off else .retain)) ∧
    (going → x.stage = 2 → Answers s .drainTimeout fun e => stage e fun y => y.undoing = true ∧ y.done = 1 ∧ y.abandoned = some 0x07)

/-- R387 and R396 to R402: wakes begin an exit and are recorded; the tick compare is armed, fires and is disarmed; a domain
whose needs are ON comes ON. The model's choices in it: log 45, 83, 84, 87. -/
def Obligations.WakesAndExit : Prop :=
  ∀ (s : State) (k : Fin 13) (levels : BitVec 13) (v : DW) (n : BitVec 7) (vio : BitVec 2),
    let d := s.dev
    let src : BitVec 13 := 1#13 <<< k.val
    let new (j : Nat) : List Nat := d.notOn (d.implied (setUnion [] (d.wakeSet (d.wakeJ j))))
    let free : Prop := d.power.entry = none ∧ d.power.exit = none
    let first : Prop := d.flag Reg.AON.WAKE_LAST.VALID = false
    let woken (j : Nat) (e : Dev) : Prop := ∃ y, e.power.exit = some y ∧ y.wake = true ∧ (∀ m ∈ new j, m ∈ y.todo) ∧
      e.flag Reg.AON.WAKE_LAST.VALID = true ∧ (first → e.get Reg.AON.WAKE_LAST.SOURCE = j ∧
        e.get Reg.AON.WAKE_LAST.SET = d.wakeJ j)
    (d.wakeFires k.val (levels.getLsbD k.val) = false → Leads s (.wake src levels) d) ∧
    (d.wakeFires k.val (levels.getLsbD k.val) = true → free → new k.val ≠ [] → Answers s (.wake src levels) (woken k.val)) ∧
    (d.wakeEn 12 = true → d.tickReached = true → free → new 12 ≠ [] →
      Answers s .tickCompare fun e => woken 12 e ∧ e.power.tickCmp = none) ∧
    (d.tickReached = false → Leads s .tickCompare d) ∧
    Leads s (.tickCmpLo v) { d.put Reg.POWER.TICK_CMP_LO.CMP v.toNat with
      power := { d.power with tickCmp := some (v.toNat + d.get Reg.POWER.TICK_CMP_HI.CMP * 2 ^ 28) } } ∧
    (∀ x, d.power.exit = some x → n.toNat ∈ x.todo → (∀ m ∈ d.needs n.toNat, d.domSt m = .on) →
      Answers s (.domainOn n vio) fun e => e.domSt n.toNat = .on ∧ ∀ m, m ≠ n.toNat → e.domSt m = d.domSt m) ∧
    (∀ x, d.power.exit = some x → (n.toNat ∉ x.todo ∨ ∃ m ∈ d.needs n.toNat, d.domSt m ≠ .on) → Leads s (.domainOn n vio) d) ∧
    (d.power.exit = none → Leads s (.domainOn n vio) d)

/-- R391 and R404: a cold bank is initialised with zeros and is then warm; a request that names none is refused; pads are
released. The model's choices in it: log 7, 86. -/
def Obligations.BanksAndPads : Prop :=
  ∀ (s : State) (v : DW) (dom bank : Nat) (g : Fin 13),
    let d := s.dev
    let named : Prop := v.toNat / 2 ^ 16 % 128 = dom ∧ v.toNat % 32 = bank ∧ v.getLsbD 27 = true
    let spare : Prop := 17 ≤ dom ∧ dom ≤ 32
    let kept (e : Dev) : Prop := e.mem = d.mem ∧ e.warm = d.warm
    (named → d.power.bankInit = none → (spare ∨ 68 ≤ dom ∨ keepBits dom ≤ bank ∨ d.memOn dom = false) →
      Answers s (.bankInit v) fun e => e.get Reg.POWER.BANK_INIT.REFUSED = 1 ∧ e.power.bankInit = none ∧ kept e) ∧
    (named → d.power.bankInit = none → ¬spare → dom < 68 → bank < keepBits dom → d.memOn dom = true →
      (bankRange dom bank).isSome = true → bankKey dom bank ∉ d.warm → Answers s (.bankInit v) fun e =>
        e.get Reg.POWER.BANK_INIT.REFUSED = 0 ∧ e.power.bankInit = some (dom, bank) ∧ kept e) ∧
    (d.power.bankInit ≠ none → Answers s (.bankInit v) fun e => e.power.bankInit = d.power.bankInit ∧ kept e) ∧
    (∀ lo hi, d.power.bankInit = some (dom, bank) → bankRange dom bank = some (lo, hi) → Answers s .bankInitDone fun e =>
      e.power.bankInit = none ∧ bankKey dom bank ∈ e.warm ∧ e.hasEvent 0x090 3 ∧
      (∀ a, lo ≤ a → a < hi → e.wAt a = 0#14 ∧ e.tagAt a = .good) ∧ ∀ a, (a < lo ∨ hi ≤ a) → e.wAt a = d.wAt a) ∧
    (d.power.bankInit = none → Leads s .bankInitDone d) ∧
    (d.power.entry = none → Answers s (.padRelease (1#28 <<< g.val)) fun e =>
      (d.domSt (padDom g) = .on → g.val ∉ e.power.held) ∧
      (d.domSt (padDom g) ≠ .on → g.val ∈ e.power.release ∧ e.power.held = d.power.held))

/-! ### Reset and start-up -/

/-- R419 to R421, R424, R425, R450 and R471: PORST_N, SYSRST_N, TRST_N, the fuses, and soft resets.
The model's choices in it: log 4, 42, 49, 50. -/
def Obligations.Resets : Prop :=
  ∀ (s : State) (f : FuseSense) (page : BitVec 12),
    let d := s.dev
    let n := page.toNat
    let blown (b : BitVec 3) : Nat := (bitList b.toNat 3).length
    let after (i : Instr) (e : Dev) : Prop := exec i s = .next { s with dev := e }
    let starts : Prop := d.aon.stage = .starting ∨ d.aon.stage = .ready
    after (.porst false) { Dev.reset with free := d.free, nand := d.nand } ∧
    (d.aon.stage = .held → Answers s (.porst true) fun e => e.aon.stage = .sensing ∧ e.aon.sinceReset = 0 ∧
      e.get Reg.CLOCKS.STATUS.PILOT_RUN = 1) ∧
    (d.aon.stage ≠ .held → Leads s (.porst true) d) ∧
    (starts → Answers s (.sysrst false) fun e => e.aon.stage = .sysHeld ∧ (∀ m, m ≠ 0 → m < 68 → e.domSt m = .off) ∧
      e.cores = [] ∧ e.loader.run = none ∧ e.aon.ticks = d.aon.ticks ∧ e.aon.frame = d.aon.frame ∧
      e.get Reg.AON.RESET_CAUSE.SYSRST = 1 ∧ e.hasEvent 0x001 1) ∧
    (¬starts → Leads s (.sysrst false) d) ∧
    (d.aon.stage = .sysHeld → Answers s (.sysrst true) fun e => e.aon.stage = .starting ∧ e.power.exit.isSome = true ∧
      e.power.dom = d.power.dom) ∧
    after .trst { d with tap := Tap.reset } ∧
    (d.aon.stage = .sensing → Answers s (.fuseSenseDone f) fun e => e.aon.stage = .starting ∧ e.aon.bootsel = f.bootsel.toNat ∧
      e.chipId = f.chipId.toNat ∧ e.keyHash = f.keyHash.toNat ∧ (e.isSealed = true ↔ 2 ≤ blown f.sealed3) ∧
      e.get Reg.FUSE.FLOOR.FLOOR = (bitList f.floor.toNat 32).length ∧ e.power.exit.isSome = true) ∧
    (takesSrst n = true → d.pageOn n = true → (d.page n).inReset = false → n ≠ 0x080 → Answers s (.srst page) fun e =>
      (e.page n).inReset = true ∧ (e.get Reg.CLOCKS.XRESET.GROUP).testBit (srstGroup n) = true ∧ e.hasEvent 0x091 5 ∧
      ∀ m, m ≠ n → (e.page m).inReset = (d.page m).inReset) ∧
    ((d.page n).inReset = true → n ≠ 0x080 → d.link.regQ = [] → d.link.memQ = [] → Leads s (.srstDone page)
      { d with pages := tabSet d.pages n { d.page n with inReset := false } }) ∧
    ((d.page n).inReset = false → Leads s (.srstDone page) d)

/-- R319, R403, R424, R425 and R427: the control cores take their roles, the boot copy is loaded, and BOOT_READY is
pushed. The model's choices in it: log 44, 47, 51. -/
def Obligations.StartUp : Prop :=
  ∀ (s : State) (copies : List BootCopy) (c : BootCopy) (health : List HealthRec),
    let d := s.dev
    let stage : Prop := d.aon.stage = .starting ∨ d.aon.stage = .ready
    let read := copies.zipIdx.map fun x => (tabFind d.nand.boot x.2).getD x.1
    let booting : Prop := d.booting = true ∧ d.aon.bootOutcome = 0 ∧ d.aon.bootLoad = false ∧
      (d.mountSt = 2 ∨ d.mountSt = 3)
    let header : DW := 7#3 ++ 2#6 ++ 0x102#11 ++ 0#8
    (d.ctrl.serving = false → stage → d.power.exit = none → d.active < 3 → d.isOn (domCtrl d.active) = true →
      Answers s .ctrlRoleResumed fun e =>
        e.ctrl.serving = true ∧ e.active = d.active ∧ e.standby = d.standby ∧ e.aon.stage = d.aon.stage) ∧
    (d.ctrl.serving = true → Leads s .ctrlRoleResumed d) ∧
    (booting → (∀ x ∈ read, bootValid x = false) → Answers s (.flashBoot copies) fun e => e.aon.bootOutcome = 2 ∧
      e.loader = d.loader) ∧
    (booting → read = [c] → bootValid c = true → c.patch = [] → Answers s (.flashBoot copies) fun e =>
      e.pend = 1 ∧ e.loader.load = some ⟨none, c.image⟩ ∧ e.aon.bootSeq = c.seq.toNat ∧ e.flash.bootSeq = c.seq.toNat ∧
      e.aon.bootOutcome = 0 ∧ e.aon.bootLoad = true) ∧
    (d.booting = false → Leads s (.flashBoot copies) d) ∧
    (d.aon.stage = .starting → d.ctrl.serving = true → (d.bootsFlash = false ∨ d.aon.bootOutcome ≠ 0) → d.CanReport .hop4 →
      d.aon.bootOutcome < 16 → d.aon.bootDetail < 256 → d.aon.bootsel < 4 → Answers s (.bootReady health) fun e =>
        e.aon.stage = .ready ∧ e.get Reg.AON.BOOT.OUTCOME = d.aon.bootOutcome ∧
        e.Reported .hop4 [header, BitVec.ofNat 4 d.aon.bootOutcome ++ BitVec.ofNat 8 d.aon.bootDetail ++
          BitVec.ofNat 2 d.aon.bootsel ++ 0#14, BitVec.ofNat 28 d.aon.bootSeq]) ∧
    (d.aon.stage ≠ .starting → Leads s (.bootReady health) d)

/-- R51, R77, R78, R82 and R448: a check of an image ends its load, COMMIT arms a loaded image, ABORT drops it; STANDBY with a
patch is ready for the handover. The model's choices in it: log 79, 115, 169, 170, 171. -/
def Obligations.ImageAndPatch : Prop :=
  ∀ (s : State) (v : DW),
    let d := s.dev
    let checked (bytes : List Byte) := { d with loader := { d.loader with load := none } }.checkImage bytes
    let ctl (e : Dev) : Prop := e.loader.run = d.loader.run ∧ e.aon.frame = d.aon.frame
    let loading (h n : Nat) (c : Cmd) (bytes : List Byte) : Prop := d.loader.load = some ⟨some (h, n), bytes⟩ ∧
      d.pend = 1 ∧ d.anyCtrl = true ∧ d.cmd h n = some c ∧ c.stage = .work ∧ c.typ = 0x010 ∧ c.aborted = false ∧
      d.CanReport (doneHop h) ∧ d.booting = false
    (∀ h n c bytes r, loading h n c bytes → checked bytes = .failed r → r.reason < 256 → Answers s .imageCheckDone fun e =>
      e.pend = 4 ∧ e.hasEvent 0x0A0 1 ∧ e.get Reg.IMAGE.REJECT.REASON = r.reason ∧
      e.Completed c.hop c.tag c.prio c.typ .failed r.reason e.rejectValue ∧ ctl e ∧ e.mem = d.mem) ∧
    (∀ h n c bytes i secs, loading h n c bytes → checked bytes = .passed i secs → Answers s .imageCheckDone fun e =>
      e.pend = 2 ∧ e.hasEvent 0x0A0 0 ∧ e.loader.loaded = some i ∧ e.cmd h n = none ∧ ctl e) ∧
    (d.loader.load = none → d.booting = false → Leads s .imageCheckDone d) ∧
    (d.pageOn 0x0A0 = true → bitOf v.toNat 0 = true → bitOf v.toNat 1 = false → Answers s (.commit v) fun e =>
      e.get Reg.IMAGE.CTRL.WHEN = bitsOf v.toNat 4 4 ∧ e.get Reg.IMAGE.CTRL.TARGET = bitsOf v.toNat 27 16 ∧ ctl e ∧
      (d.pend = 2 → e.pend = 3 ∧ e.loader.armed = some (decide (bitsOf v.toNat 4 4 = 1), bitsOf v.toNat 27 16)) ∧
      (d.pend ≠ 2 → e.pend = d.pend ∧ e.get Reg.IMAGE.RESULT.STATUS = 3 ∧ e.hasEvent 0x0A0 2)) ∧
    (d.pageOn 0x0A0 = true → d.pend = 1 → Answers s .imageAbort fun e => e.pend = 0 ∧ e.loader.loaded = none ∧ ctl e) ∧
    (d.ctrl.patch ≠ none → d.ctrl.handover = false → d.standby < 3 → d.clockRuns = true →
      Leads s .patchStandbyReady { d with ctrl := { d.ctrl with ready := true, handover := true } }) ∧
    (d.ctrl.patch = none → Leads s .patchStandbyReady d)

/-! ### Service life, fuses and debug -/

/-- R433, R435 to R438, R443 and R455: the second, the hour, the day and the health record.
The model's choices in it: log 125, 126, 127. -/
def Obligations.HealthUpkeep : Prop :=
  ∀ (s : State) (temps : List Int) (ok : Bool),
    let d := s.dev
    let served : Prop := d.served = true
    let x := d.health
    (d.served = false → Leads s (.tempSample temps) d ∧ Leads s .hourRollover d ∧ Leads s .dayRollover d ∧
      Leads s (.healthRecordWrite ok) d) ∧
    (served → ∀ t, t ∈ temps → (∀ u ∈ temps, u ≤ t) → Answers s (.tempSample temps) fun e =>
      e.get Reg.HEALTH.TJ.NOW = (BitVec.ofInt 9 t).toNat ∧
      (d.anyHearth = true → e.health.tjSum = x.tjSum + t ∧ e.health.tjSecs = x.tjSecs + 1) ∧
      (d.anyHearth = false → e.health = x)) ∧
    (served → Answers s .hourRollover fun e => e.health.recDue = true ∧
      ∀ h, h < 16 → d.folded h = false → tabGet 0 x.vCnt h ≠ 0 →
        e.getAt Reg.HEALTH.HEAD.NOW 0 h = headroomOf (tabGet 0 x.vSum h) (tabGet 0 x.vCnt h) % 128 ∧
        tabGet 0 e.health.vCnt h = 0 ∧ tabGet 0 e.health.vSum h = 0) ∧
    (served → Answers s .dayRollover fun e => e.get Reg.HEALTH.SR_DAY.COUNT = min x.srToday 0xFFFF ∧
      e.health.srToday = 0 ∧ e.health.ceToday = [] ∧ e.health.ueToday = [] ∧
      ∀ c, c < 5 → e.getAt Reg.HEALTH.CE_DAY.CE 0 c = min (tabGet 0 x.ceToday c) 0xFFFF ∧
        e.getAt Reg.HEALTH.CE_DAY.UE 0 c = min (tabGet 0 x.ueToday c) 0xFFF) ∧
    (served → d.isOn (domFlash 0) = true → d.mountSt = 2 → Answers s (.healthRecordWrite ok) fun e =>
      e.health.recStripe = 1 - x.recStripe ∧ e.health.recDue = !ok ∧
      (ok = true → e.get Reg.HEALTH.REC_SEQ.SEQ = (d.get Reg.HEALTH.REC_SEQ.SEQ + 1) % 2 ^ 28) ∧
      (ok = false → e.get Reg.HEALTH.REC_SEQ.SEQ = d.get Reg.HEALTH.REC_SEQ.SEQ ∧ e.hasEvent 0x003 2))

/-- R450 to R455: the seal takes two writes, and closes debug; a halted slot is stepped, read and written; after the seal
the page reads 0xF000_0000. The model's choices in it: log 21, 128, 129, 151, 152. -/
def Obligations.SealAndDebug : Prop :=
  ∀ (s : State) (v : DW) (near ok : Bool) (w : DW),
    let d := s.dev
    let n := d.dbgSlot
    let c := d.core n
    let a := BitVec.ofNat 28 (d.get Reg.DEBUG.MADDR.ADDR)
    let m := memAddr n a.toNat
    let opened : Prop := d.isSealed = false ∧ c.halted = true
    let reach (write : Bool) : Prop := d.accCheck n 3 write a 2 = none ∧ regionOf false a.toNat = .mem ∧ d.inRunning m = false
    let reg (e : Dev) (f : RegFld) : Nat := e.get f
    let aon (f : Aon → Aon) : Dev := { d with aon := f d.aon }
    let still : Prop := d.heldOf n = []
    (d.aon.blow ≠ none ∨ d.aon.sealStep = false ∨ near = false ∨ v ≠ 0x05A5A5A#28 →
      Leads s (.sealCmd v near) (aon fun y => { y with sealStep := decide (v = 0x0A5A5A5#28) })) ∧
    (d.aon.blow = none → d.aon.sealStep = true → Answers s (.sealCmd 0x05A5A5A#28 true) fun e =>
      e.aon.blow = some .seal ∧ e.aon.sealStep = false ∧ reg e Reg.FUSE.STATUS.BLOWING = 1) ∧
    (d.aon.blow = some .seal → Answers s (.fuseBlowDone true) fun e => e.isSealed = true ∧ e.aon.blow = none ∧
      reg e Reg.FUSE.STATUS.BLOWING = 0 ∧ ∀ j, j < 64 → (e.core j).halted = false) ∧
    (d.aon.blow ≠ none → Answers s (.fuseBlowDone false) fun e => e.isSealed = d.isSealed ∧ e.aon.blow = none ∧
      reg e Reg.FUSE.STATUS.BLOW_FAIL = 1) ∧
    (d.aon.blow = none → Leads s (.fuseBlowDone ok) d) ∧
    (d.isSealed = true → Leads s .halt d ∧ (d.hostIdle → Leads s .step d) ∧ Leads s .resume d ∧ Leads s (.rdata (some v)) d ∧
      Leads s (.mdata (some v)) d ∧ Leads s (.rdata none) { d with busHost := 0xF0000000#32 } ∧
      Leads s (.mdata none) { d with busHost := 0xF0000000#32 }) ∧
    (d.isSealed = false → d.mate n = none → still →
      Leads s .halt (d.setCore n { c with halted := true, bundle := [] }) ∧
      Leads s .resume (d.setCore n { c with halted := false, parked := false })) ∧
    (opened → still → d.hostIdle → c.run = .running → d.hasProgram n = true → d.mate n = none → c.priv ≤ 1 → c.fetch.toNat ≤ 0x3FFF → c.midLoop →
      d.bundleAt n c.fetch.toNat 5 = ([w], false) → decodeSyll (Fin.ofNat 67 n) 0#10 w = some (.nop ⟨Fin.ofNat 67 n, true, 0#10⟩) →
      Answers s .step fun e => (e.core n).halted = true ∧ (e.core n).fetch = c.fetch + 1 ∧ (e.core n).gr = c.gr) ∧
    (opened → still → reg d Reg.DEBUG.RSEL.SYS = 0 →
      (Answers s (.rdata none) fun e => e.busHost = (c.g (reg d Reg.DEBUG.RSEL.NUM)).setWidth 32 ∧ (e.core n).gr = c.gr ∧
        reg e Reg.DEBUG.MSTAT.CAUSE = 0) ∧
      (Answers s (.rdata (some v)) fun e => (e.core n).g (reg d Reg.DEBUG.RSEL.NUM) = v ∧ reg e Reg.DEBUG.MSTAT.CAUSE = 0)) ∧
    (opened → still → n < 64 → reach false → d.tagAt m = .good → Answers s (.mdata none) fun e =>
      e.busHost = contOf (d.dwAt m) ∧ e.mem = d.mem ∧ reg e Reg.DEBUG.MSTAT.CAUSE = 0) ∧
    (opened → still → n < 64 → reach true → Answers s (.mdata (some v)) fun e => e.dwAt m = v ∧ reg e Reg.DEBUG.MSTAT.CAUSE = 0 ∧
      ∀ k, k ≠ m → k ≠ m + 1 → e.wAt k = d.wAt k) ∧
    (opened → still → ∀ x, d.accCheck n 3 false a 2 = some x → x.cause < 256 → Answers s (.mdata none) fun e =>
      reg e Reg.DEBUG.MSTAT.CAUSE = x.cause ∧ e.mem = d.mem)

/-- R452 and R453: the instructions of the TAP; after the seal those of debug act as BYPASS.
The model's choices in it: log 14, 153. -/
def Obligations.TapInstructions : Prop :=
  ∀ (s : State) (a : BitVec 12) (c : BitVec 2) (v : DW),
    let d := s.dev
    let tap (t : Tap) (i : Instr) : Prop := exec i s = .next { s with dev := { d with tap := t } }
    let t := d.tap
    tap { t with ir := .idcode, out := 0x15C8096B#32 } .idcode ∧ tap { t with ir := .bypass, out := 0#32 } .bypass ∧
    tap { t with ir := .extest } .extest ∧ tap { t with ir := .samplePreload } .samplePreload ∧
    tap { t with ir := .clamp, out := 0#32 } .clamp ∧ tap { t with ir := .highz, out := 0#32 } .highz ∧
    (d.isSealed = true → tap { t with ir := .bypass, out := 0#32 } (.dbgAddr a) ∧
      tap { t with ir := .bypass, out := 0#32 } (.dbgCtrl c) ∧ Leads s (.dbgData v) { d with tap := { t with ir := .bypass, out := 0#32 } }) ∧
    (d.isSealed = false → tap { t with ir := .dbgAddr, addr := a, out := a.setWidth 32 } (.dbgAddr a) ∧
      tap { t with ir := .dbgCtrl, ctrl := c &&& 1#2, out := (c &&& 1#2).setWidth 32 } (.dbgCtrl c) ∧
      (t.ctrl.getLsbD 0 = true → t.addr = 0x034#12 → Leads s (.dbgData v)
        { d.regSet 0x0F0034 v with tap := { t with ir := .dbgData, data := v, out := v.setWidth 32 } }) ∧
      (t.ctrl.getLsbD 0 = false → t.addr = 0x034#12 → Leads s (.dbgData v)
        { d with tap := { t with ir := .dbgData, data := d.regGet 0x0F0034, out := (d.regGet 0x0F0034).setWidth 32 } }))

/-! ### Pages -/

/-- R10 to R13, R23, R459 to R464: accesses of register pages. The model's choices in it: log 8, 15, 27, 35. -/
def Obligations.RegisterPages : Prop :=
  ∀ (s : State) (req : Req) (page off : BitVec 12) (v : DW) (r : RegRow),
    let d := s.dev
    let p := page.toNat
    let o := off.toNat
    let key := regKey p o
    let plain : Prop := plainReg p o = true ∧ d.pageOn p = true ∧ regRow p o = some r
    let stages : Prop := stageable p = true ∧ d.pageOn p = true
    let hdr (f : PageHdr → PageHdr) : Dev := { d with pages := tabSet d.pages p (f (d.page p)) }
    let bus (x : DW) (d : Dev) : Dev := match req with | .host => { d with busHost := contOf x } | .ctrl _ => { d with busCtrl := x }
    let latch (key : Nat) : DW := match req with
      | .host => tabGet 0#28 d.latchHost key
      | .ctrl k => tabGet 0#28 d.latchCtrl (4 * key + k.val)
    let latched (key : Nat) (x : DW) (d : Dev) : Dev := match req with
      | .host => { d with latchHost := tabSet d.latchHost key x }
      | .ctrl k => { d with latchCtrl := tabSet d.latchCtrl (4 * key + k.val) x }
    let value := d.regGet key
    let rc := r.mask fun a => decide (a = .rc)
    (plain → Leads s (.registerWrite req page off v) (d.regSet key (r.write value v))) ∧
    (plain → d.view p o = none → ¬(p = 0x001 ∧ (o = 0x020 ∨ o = 0x024 ∨ o = 0x028 ∨ o = 0x02C ∨ o = 0x110 ∨ o = 0x114)) →
      ¬(p = 0x091 ∧ o = 0x024) → Leads s (.rcRead req page off)
        (bus (value &&& r.mask fun a => decide (a ≠ .wo)) (if rc = 0#28 then d else d.regSet key (value &&& ~~~rc)))) ∧
    (page = 0x001#12 → off = 0x028#12 → Leads s (.counterLowRead req page off)
      (bus (d.aon.ticks.extractLsb' 0 28) (latched (regKey 0x001 0x02C) ((d.aon.ticks.extractLsb' 28 20).setWidth 28) d))) ∧
    (page = 0x001#12 → off = 0x02C#12 → Leads s (.rcRead req page off) (bus (latch (regKey 0x001 0x02C)) d)) ∧
    ((pageInfo p).isSome = true → d.pageOn p = true → p ≠ 0x0F0 → p ≠ 0x002 →
      Leads s (.registerWrite req page 0x00C#12 v) (hdr fun h => { h with event := h.event &&& ~~~v }) ∧
      Leads s (.registerWrite req page 0x010#12 v) (hdr fun h => { h with eventEn := v &&& BitVec.ofNat 28 (2 ^ eventBits p - 1) })) ∧
    (stages → Leads s (.armStage page) (hdr fun h => { h with armed := true })) ∧
    (stages → 0x820 ≤ o → mirrorMask p (o - 0x800) ≠ 0 → ¬(p = 0x078 ∧ o = 0x824) → Leads s (.stagedWrite req page off v)
      { hdr (fun h => { h with dirty := setInsert h.dirty (o - 0x800) }) with
        mirror := tabSet d.mirror (regKey p (o - 0x800)) (v &&& BitVec.ofNat 28 (mirrorMask p (o - 0x800))) }) ∧
    (stages → Answers s (.discard page) fun e => (e.page p).armed = false ∧ (e.page p).dirty = [] ∧
      (∀ k, settleKey k = false → e.regGet k = d.regGet k) ∧ ∀ k, k < 0x800 → (∀ x, (regKey p k, x) ∈ d.regs → x = d.regGet (regKey p k)) → mirrorMask p k ≠ 0 →
        ¬(p = 0x078 ∧ k = 0x024) → e.mirrorGet p k = d.regGet (regKey p k) &&& BitVec.ofNat 28 (mirrorMask p k)) ∧
    ((pageInfo p).isSome = true → d.pageOn p = false →
      Answers s (.registerWrite req page off v) fun e => e.get Reg.AON.COLD_ADDR.ADDR = p * 0x1000 + o ∧
        e.get Reg.AON.COLD_ACCESS.WRITE = 1 ∧ e.get Reg.AON.COLD_ACCESS.DOMAIN = coldDom p ∧ e.hasEvent 0x001 0) ∧
    ((pageInfo p).isSome = false → Leads s (.registerWrite req page off v) d ∧ Leads s (.rcRead req page off) (bus 0#28 d))
end

