-- ==== Sys2Proof/Laws/State.lean ====
section
/-! SUPPORT. What each update of the device leaves as it was: one lemma per field per update. -/

namespace Sys2Proof.Machine

/-! regSet -/

@[simp] theorem Dev.regSet_pages (d : Dev) (k : Nat) (v : DW) : (d.regSet k v).pages = d.pages := rfl
@[simp] theorem Dev.regSet_mirror (d : Dev) (k : Nat) (v : DW) : (d.regSet k v).mirror = d.mirror := rfl
@[simp] theorem Dev.regSet_latchHost (d : Dev) (k : Nat) (v : DW) : (d.regSet k v).latchHost = d.latchHost := rfl
@[simp] theorem Dev.regSet_latchCtrl (d : Dev) (k : Nat) (v : DW) : (d.regSet k v).latchCtrl = d.latchCtrl := rfl
@[simp] theorem Dev.regSet_busHost (d : Dev) (k : Nat) (v : DW) : (d.regSet k v).busHost = d.busHost := rfl
@[simp] theorem Dev.regSet_busCtrl (d : Dev) (k : Nat) (v : DW) : (d.regSet k v).busCtrl = d.busCtrl := rfl
@[simp] theorem Dev.regSet_free (d : Dev) (k : Nat) (v : DW) : (d.regSet k v).free = d.free := rfl
@[simp] theorem Dev.regSet_mem (d : Dev) (k : Nat) (v : DW) : (d.regSet k v).mem = d.mem := rfl
@[simp] theorem Dev.regSet_tags (d : Dev) (k : Nat) (v : DW) : (d.regSet k v).tags = d.tags := rfl
@[simp] theorem Dev.regSet_warm (d : Dev) (k : Nat) (v : DW) : (d.regSet k v).warm = d.warm := rfl
@[simp] theorem Dev.regSet_router (d : Dev) (k : Nat) (v : DW) : (d.regSet k v).router = d.router := rfl
@[simp] theorem Dev.regSet_hops (d : Dev) (k : Nat) (v : DW) : (d.regSet k v).hops = d.hops := rfl
@[simp] theorem Dev.regSet_cores (d : Dev) (k : Nat) (v : DW) : (d.regSet k v).cores = d.cores := rfl
@[simp] theorem Dev.regSet_held (d : Dev) (k : Nat) (v : DW) : (d.regSet k v).held = d.held := rfl
@[simp] theorem Dev.regSet_hearths (d : Dev) (k : Nat) (v : DW) : (d.regSet k v).hearths = d.hearths := rfl
@[simp] theorem Dev.regSet_ctrl (d : Dev) (k : Nat) (v : DW) : (d.regSet k v).ctrl = d.ctrl := rfl
@[simp] theorem Dev.regSet_loader (d : Dev) (k : Nat) (v : DW) : (d.regSet k v).loader = d.loader := rfl
@[simp] theorem Dev.regSet_stoker (d : Dev) (k : Nat) (v : DW) : (d.regSet k v).stoker = d.stoker := rfl
@[simp] theorem Dev.regSet_flash (d : Dev) (k : Nat) (v : DW) : (d.regSet k v).flash = d.flash := rfl
@[simp] theorem Dev.regSet_nand (d : Dev) (k : Nat) (v : DW) : (d.regSet k v).nand = d.nand := rfl
@[simp] theorem Dev.regSet_ports (d : Dev) (k : Nat) (v : DW) : (d.regSet k v).ports = d.ports := rfl
@[simp] theorem Dev.regSet_link (d : Dev) (k : Nat) (v : DW) : (d.regSet k v).link = d.link := rfl
@[simp] theorem Dev.regSet_attn (d : Dev) (k : Nat) (v : DW) : (d.regSet k v).attn = d.attn := rfl
@[simp] theorem Dev.regSet_cmds (d : Dev) (k : Nat) (v : DW) : (d.regSet k v).cmds = d.cmds := rfl
@[simp] theorem Dev.regSet_power (d : Dev) (k : Nat) (v : DW) : (d.regSet k v).power = d.power := rfl
@[simp] theorem Dev.regSet_aon (d : Dev) (k : Nat) (v : DW) : (d.regSet k v).aon = d.aon := rfl
@[simp] theorem Dev.regSet_health (d : Dev) (k : Nat) (v : DW) : (d.regSet k v).health = d.health := rfl
@[simp] theorem Dev.regSet_tap (d : Dev) (k : Nat) (v : DW) : (d.regSet k v).tap = d.tap := rfl

/-! putAt -/

@[simp] theorem Dev.putAt_pages (d : Dev) (f : RegFld) (i j v : Nat) : (d.putAt f i j v).pages = d.pages := rfl
@[simp] theorem Dev.putAt_mirror (d : Dev) (f : RegFld) (i j v : Nat) : (d.putAt f i j v).mirror = d.mirror := rfl
@[simp] theorem Dev.putAt_latchHost (d : Dev) (f : RegFld) (i j v : Nat) : (d.putAt f i j v).latchHost = d.latchHost := rfl
@[simp] theorem Dev.putAt_latchCtrl (d : Dev) (f : RegFld) (i j v : Nat) : (d.putAt f i j v).latchCtrl = d.latchCtrl := rfl
@[simp] theorem Dev.putAt_busHost (d : Dev) (f : RegFld) (i j v : Nat) : (d.putAt f i j v).busHost = d.busHost := rfl
@[simp] theorem Dev.putAt_busCtrl (d : Dev) (f : RegFld) (i j v : Nat) : (d.putAt f i j v).busCtrl = d.busCtrl := rfl
@[simp] theorem Dev.putAt_free (d : Dev) (f : RegFld) (i j v : Nat) : (d.putAt f i j v).free = d.free := rfl
@[simp] theorem Dev.putAt_mem (d : Dev) (f : RegFld) (i j v : Nat) : (d.putAt f i j v).mem = d.mem := rfl
@[simp] theorem Dev.putAt_tags (d : Dev) (f : RegFld) (i j v : Nat) : (d.putAt f i j v).tags = d.tags := rfl
@[simp] theorem Dev.putAt_warm (d : Dev) (f : RegFld) (i j v : Nat) : (d.putAt f i j v).warm = d.warm := rfl
@[simp] theorem Dev.putAt_router (d : Dev) (f : RegFld) (i j v : Nat) : (d.putAt f i j v).router = d.router := rfl
@[simp] theorem Dev.putAt_hops (d : Dev) (f : RegFld) (i j v : Nat) : (d.putAt f i j v).hops = d.hops := rfl
@[simp] theorem Dev.putAt_cores (d : Dev) (f : RegFld) (i j v : Nat) : (d.putAt f i j v).cores = d.cores := rfl
@[simp] theorem Dev.putAt_held (d : Dev) (f : RegFld) (i j v : Nat) : (d.putAt f i j v).held = d.held := rfl
@[simp] theorem Dev.putAt_hearths (d : Dev) (f : RegFld) (i j v : Nat) : (d.putAt f i j v).hearths = d.hearths := rfl
@[simp] theorem Dev.putAt_ctrl (d : Dev) (f : RegFld) (i j v : Nat) : (d.putAt f i j v).ctrl = d.ctrl := rfl
@[simp] theorem Dev.putAt_loader (d : Dev) (f : RegFld) (i j v : Nat) : (d.putAt f i j v).loader = d.loader := rfl
@[simp] theorem Dev.putAt_stoker (d : Dev) (f : RegFld) (i j v : Nat) : (d.putAt f i j v).stoker = d.stoker := rfl
@[simp] theorem Dev.putAt_flash (d : Dev) (f : RegFld) (i j v : Nat) : (d.putAt f i j v).flash = d.flash := rfl
@[simp] theorem Dev.putAt_nand (d : Dev) (f : RegFld) (i j v : Nat) : (d.putAt f i j v).nand = d.nand := rfl
@[simp] theorem Dev.putAt_ports (d : Dev) (f : RegFld) (i j v : Nat) : (d.putAt f i j v).ports = d.ports := rfl
@[simp] theorem Dev.putAt_link (d : Dev) (f : RegFld) (i j v : Nat) : (d.putAt f i j v).link = d.link := rfl
@[simp] theorem Dev.putAt_attn (d : Dev) (f : RegFld) (i j v : Nat) : (d.putAt f i j v).attn = d.attn := rfl
@[simp] theorem Dev.putAt_cmds (d : Dev) (f : RegFld) (i j v : Nat) : (d.putAt f i j v).cmds = d.cmds := rfl
@[simp] theorem Dev.putAt_power (d : Dev) (f : RegFld) (i j v : Nat) : (d.putAt f i j v).power = d.power := rfl
@[simp] theorem Dev.putAt_aon (d : Dev) (f : RegFld) (i j v : Nat) : (d.putAt f i j v).aon = d.aon := rfl
@[simp] theorem Dev.putAt_health (d : Dev) (f : RegFld) (i j v : Nat) : (d.putAt f i j v).health = d.health := rfl
@[simp] theorem Dev.putAt_tap (d : Dev) (f : RegFld) (i j v : Nat) : (d.putAt f i j v).tap = d.tap := rfl

/-! put -/

@[simp] theorem Dev.put_pages (d : Dev) (f : RegFld) (v : Nat) : (d.put f v).pages = d.pages := rfl
@[simp] theorem Dev.put_mirror (d : Dev) (f : RegFld) (v : Nat) : (d.put f v).mirror = d.mirror := rfl
@[simp] theorem Dev.put_latchHost (d : Dev) (f : RegFld) (v : Nat) : (d.put f v).latchHost = d.latchHost := rfl
@[simp] theorem Dev.put_latchCtrl (d : Dev) (f : RegFld) (v : Nat) : (d.put f v).latchCtrl = d.latchCtrl := rfl
@[simp] theorem Dev.put_busHost (d : Dev) (f : RegFld) (v : Nat) : (d.put f v).busHost = d.busHost := rfl
@[simp] theorem Dev.put_busCtrl (d : Dev) (f : RegFld) (v : Nat) : (d.put f v).busCtrl = d.busCtrl := rfl
@[simp] theorem Dev.put_free (d : Dev) (f : RegFld) (v : Nat) : (d.put f v).free = d.free := rfl
@[simp] theorem Dev.put_mem (d : Dev) (f : RegFld) (v : Nat) : (d.put f v).mem = d.mem := rfl
@[simp] theorem Dev.put_tags (d : Dev) (f : RegFld) (v : Nat) : (d.put f v).tags = d.tags := rfl
@[simp] theorem Dev.put_warm (d : Dev) (f : RegFld) (v : Nat) : (d.put f v).warm = d.warm := rfl
@[simp] theorem Dev.put_router (d : Dev) (f : RegFld) (v : Nat) : (d.put f v).router = d.router := rfl
@[simp] theorem Dev.put_hops (d : Dev) (f : RegFld) (v : Nat) : (d.put f v).hops = d.hops := rfl
@[simp] theorem Dev.put_cores (d : Dev) (f : RegFld) (v : Nat) : (d.put f v).cores = d.cores := rfl
@[simp] theorem Dev.put_held (d : Dev) (f : RegFld) (v : Nat) : (d.put f v).held = d.held := rfl
@[simp] theorem Dev.put_hearths (d : Dev) (f : RegFld) (v : Nat) : (d.put f v).hearths = d.hearths := rfl
@[simp] theorem Dev.put_ctrl (d : Dev) (f : RegFld) (v : Nat) : (d.put f v).ctrl = d.ctrl := rfl
@[simp] theorem Dev.put_loader (d : Dev) (f : RegFld) (v : Nat) : (d.put f v).loader = d.loader := rfl
@[simp] theorem Dev.put_stoker (d : Dev) (f : RegFld) (v : Nat) : (d.put f v).stoker = d.stoker := rfl
@[simp] theorem Dev.put_flash (d : Dev) (f : RegFld) (v : Nat) : (d.put f v).flash = d.flash := rfl
@[simp] theorem Dev.put_nand (d : Dev) (f : RegFld) (v : Nat) : (d.put f v).nand = d.nand := rfl
@[simp] theorem Dev.put_ports (d : Dev) (f : RegFld) (v : Nat) : (d.put f v).ports = d.ports := rfl
@[simp] theorem Dev.put_link (d : Dev) (f : RegFld) (v : Nat) : (d.put f v).link = d.link := rfl
@[simp] theorem Dev.put_attn (d : Dev) (f : RegFld) (v : Nat) : (d.put f v).attn = d.attn := rfl
@[simp] theorem Dev.put_cmds (d : Dev) (f : RegFld) (v : Nat) : (d.put f v).cmds = d.cmds := rfl
@[simp] theorem Dev.put_power (d : Dev) (f : RegFld) (v : Nat) : (d.put f v).power = d.power := rfl
@[simp] theorem Dev.put_aon (d : Dev) (f : RegFld) (v : Nat) : (d.put f v).aon = d.aon := rfl
@[simp] theorem Dev.put_health (d : Dev) (f : RegFld) (v : Nat) : (d.put f v).health = d.health := rfl
@[simp] theorem Dev.put_tap (d : Dev) (f : RegFld) (v : Nat) : (d.put f v).tap = d.tap := rfl

/-! bumpP -/

@[simp] theorem Dev.bumpP_pages (d : Dev) (f : RegFld) (i j n : Nat) : (d.bumpP f i j n).pages = d.pages := rfl
@[simp] theorem Dev.bumpP_mirror (d : Dev) (f : RegFld) (i j n : Nat) : (d.bumpP f i j n).mirror = d.mirror := rfl
@[simp] theorem Dev.bumpP_latchHost (d : Dev) (f : RegFld) (i j n : Nat) : (d.bumpP f i j n).latchHost = d.latchHost := rfl
@[simp] theorem Dev.bumpP_latchCtrl (d : Dev) (f : RegFld) (i j n : Nat) : (d.bumpP f i j n).latchCtrl = d.latchCtrl := rfl
@[simp] theorem Dev.bumpP_busHost (d : Dev) (f : RegFld) (i j n : Nat) : (d.bumpP f i j n).busHost = d.busHost := rfl
@[simp] theorem Dev.bumpP_busCtrl (d : Dev) (f : RegFld) (i j n : Nat) : (d.bumpP f i j n).busCtrl = d.busCtrl := rfl
@[simp] theorem Dev.bumpP_free (d : Dev) (f : RegFld) (i j n : Nat) : (d.bumpP f i j n).free = d.free := rfl
@[simp] theorem Dev.bumpP_mem (d : Dev) (f : RegFld) (i j n : Nat) : (d.bumpP f i j n).mem = d.mem := rfl
@[simp] theorem Dev.bumpP_tags (d : Dev) (f : RegFld) (i j n : Nat) : (d.bumpP f i j n).tags = d.tags := rfl
@[simp] theorem Dev.bumpP_warm (d : Dev) (f : RegFld) (i j n : Nat) : (d.bumpP f i j n).warm = d.warm := rfl
@[simp] theorem Dev.bumpP_router (d : Dev) (f : RegFld) (i j n : Nat) : (d.bumpP f i j n).router = d.router := rfl
@[simp] theorem Dev.bumpP_hops (d : Dev) (f : RegFld) (i j n : Nat) : (d.bumpP f i j n).hops = d.hops := rfl
@[simp] theorem Dev.bumpP_cores (d : Dev) (f : RegFld) (i j n : Nat) : (d.bumpP f i j n).cores = d.cores := rfl
@[simp] theorem Dev.bumpP_held (d : Dev) (f : RegFld) (i j n : Nat) : (d.bumpP f i j n).held = d.held := rfl
@[simp] theorem Dev.bumpP_hearths (d : Dev) (f : RegFld) (i j n : Nat) : (d.bumpP f i j n).hearths = d.hearths := rfl
@[simp] theorem Dev.bumpP_ctrl (d : Dev) (f : RegFld) (i j n : Nat) : (d.bumpP f i j n).ctrl = d.ctrl := rfl
@[simp] theorem Dev.bumpP_loader (d : Dev) (f : RegFld) (i j n : Nat) : (d.bumpP f i j n).loader = d.loader := rfl
@[simp] theorem Dev.bumpP_stoker (d : Dev) (f : RegFld) (i j n : Nat) : (d.bumpP f i j n).stoker = d.stoker := rfl
@[simp] theorem Dev.bumpP_flash (d : Dev) (f : RegFld) (i j n : Nat) : (d.bumpP f i j n).flash = d.flash := rfl
@[simp] theorem Dev.bumpP_nand (d : Dev) (f : RegFld) (i j n : Nat) : (d.bumpP f i j n).nand = d.nand := rfl
@[simp] theorem Dev.bumpP_ports (d : Dev) (f : RegFld) (i j n : Nat) : (d.bumpP f i j n).ports = d.ports := rfl
@[simp] theorem Dev.bumpP_link (d : Dev) (f : RegFld) (i j n : Nat) : (d.bumpP f i j n).link = d.link := rfl
@[simp] theorem Dev.bumpP_attn (d : Dev) (f : RegFld) (i j n : Nat) : (d.bumpP f i j n).attn = d.attn := rfl
@[simp] theorem Dev.bumpP_cmds (d : Dev) (f : RegFld) (i j n : Nat) : (d.bumpP f i j n).cmds = d.cmds := rfl
@[simp] theorem Dev.bumpP_power (d : Dev) (f : RegFld) (i j n : Nat) : (d.bumpP f i j n).power = d.power := rfl
@[simp] theorem Dev.bumpP_aon (d : Dev) (f : RegFld) (i j n : Nat) : (d.bumpP f i j n).aon = d.aon := rfl
@[simp] theorem Dev.bumpP_health (d : Dev) (f : RegFld) (i j n : Nat) : (d.bumpP f i j n).health = d.health := rfl
@[simp] theorem Dev.bumpP_tap (d : Dev) (f : RegFld) (i j n : Nat) : (d.bumpP f i j n).tap = d.tap := rfl

/-! setCore -/

@[simp] theorem Dev.setCore_regs (d : Dev) (n : Nat) (c : Core) : (d.setCore n c).regs = d.regs := rfl
@[simp] theorem Dev.setCore_pages (d : Dev) (n : Nat) (c : Core) : (d.setCore n c).pages = d.pages := rfl
@[simp] theorem Dev.setCore_mirror (d : Dev) (n : Nat) (c : Core) : (d.setCore n c).mirror = d.mirror := rfl
@[simp] theorem Dev.setCore_latchHost (d : Dev) (n : Nat) (c : Core) : (d.setCore n c).latchHost = d.latchHost := rfl
@[simp] theorem Dev.setCore_latchCtrl (d : Dev) (n : Nat) (c : Core) : (d.setCore n c).latchCtrl = d.latchCtrl := rfl
@[simp] theorem Dev.setCore_busHost (d : Dev) (n : Nat) (c : Core) : (d.setCore n c).busHost = d.busHost := rfl
@[simp] theorem Dev.setCore_busCtrl (d : Dev) (n : Nat) (c : Core) : (d.setCore n c).busCtrl = d.busCtrl := rfl
@[simp] theorem Dev.setCore_free (d : Dev) (n : Nat) (c : Core) : (d.setCore n c).free = d.free := rfl
@[simp] theorem Dev.setCore_mem (d : Dev) (n : Nat) (c : Core) : (d.setCore n c).mem = d.mem := rfl
@[simp] theorem Dev.setCore_tags (d : Dev) (n : Nat) (c : Core) : (d.setCore n c).tags = d.tags := rfl
@[simp] theorem Dev.setCore_warm (d : Dev) (n : Nat) (c : Core) : (d.setCore n c).warm = d.warm := rfl
@[simp] theorem Dev.setCore_router (d : Dev) (n : Nat) (c : Core) : (d.setCore n c).router = d.router := rfl
@[simp] theorem Dev.setCore_hops (d : Dev) (n : Nat) (c : Core) : (d.setCore n c).hops = d.hops := rfl
@[simp] theorem Dev.setCore_held (d : Dev) (n : Nat) (c : Core) : (d.setCore n c).held = d.held := rfl
@[simp] theorem Dev.setCore_hearths (d : Dev) (n : Nat) (c : Core) : (d.setCore n c).hearths = d.hearths := rfl
@[simp] theorem Dev.setCore_ctrl (d : Dev) (n : Nat) (c : Core) : (d.setCore n c).ctrl = d.ctrl := rfl
@[simp] theorem Dev.setCore_loader (d : Dev) (n : Nat) (c : Core) : (d.setCore n c).loader = d.loader := rfl
@[simp] theorem Dev.setCore_stoker (d : Dev) (n : Nat) (c : Core) : (d.setCore n c).stoker = d.stoker := rfl
@[simp] theorem Dev.setCore_flash (d : Dev) (n : Nat) (c : Core) : (d.setCore n c).flash = d.flash := rfl
@[simp] theorem Dev.setCore_nand (d : Dev) (n : Nat) (c : Core) : (d.setCore n c).nand = d.nand := rfl
@[simp] theorem Dev.setCore_ports (d : Dev) (n : Nat) (c : Core) : (d.setCore n c).ports = d.ports := rfl
@[simp] theorem Dev.setCore_link (d : Dev) (n : Nat) (c : Core) : (d.setCore n c).link = d.link := rfl
@[simp] theorem Dev.setCore_attn (d : Dev) (n : Nat) (c : Core) : (d.setCore n c).attn = d.attn := rfl
@[simp] theorem Dev.setCore_cmds (d : Dev) (n : Nat) (c : Core) : (d.setCore n c).cmds = d.cmds := rfl
@[simp] theorem Dev.setCore_power (d : Dev) (n : Nat) (c : Core) : (d.setCore n c).power = d.power := rfl
@[simp] theorem Dev.setCore_aon (d : Dev) (n : Nat) (c : Core) : (d.setCore n c).aon = d.aon := rfl
@[simp] theorem Dev.setCore_health (d : Dev) (n : Nat) (c : Core) : (d.setCore n c).health = d.health := rfl
@[simp] theorem Dev.setCore_tap (d : Dev) (n : Nat) (c : Core) : (d.setCore n c).tap = d.tap := rfl

/-! modCore -/

@[simp] theorem Dev.modCore_regs (d : Dev) (n : Nat) (f : Core → Core) : (d.modCore n f).regs = d.regs := rfl
@[simp] theorem Dev.modCore_pages (d : Dev) (n : Nat) (f : Core → Core) : (d.modCore n f).pages = d.pages := rfl
@[simp] theorem Dev.modCore_mirror (d : Dev) (n : Nat) (f : Core → Core) : (d.modCore n f).mirror = d.mirror := rfl
@[simp] theorem Dev.modCore_latchHost (d : Dev) (n : Nat) (f : Core → Core) : (d.modCore n f).latchHost = d.latchHost := rfl
@[simp] theorem Dev.modCore_latchCtrl (d : Dev) (n : Nat) (f : Core → Core) : (d.modCore n f).latchCtrl = d.latchCtrl := rfl
@[simp] theorem Dev.modCore_busHost (d : Dev) (n : Nat) (f : Core → Core) : (d.modCore n f).busHost = d.busHost := rfl
@[simp] theorem Dev.modCore_busCtrl (d : Dev) (n : Nat) (f : Core → Core) : (d.modCore n f).busCtrl = d.busCtrl := rfl
@[simp] theorem Dev.modCore_free (d : Dev) (n : Nat) (f : Core → Core) : (d.modCore n f).free = d.free := rfl
@[simp] theorem Dev.modCore_mem (d : Dev) (n : Nat) (f : Core → Core) : (d.modCore n f).mem = d.mem := rfl
@[simp] theorem Dev.modCore_tags (d : Dev) (n : Nat) (f : Core → Core) : (d.modCore n f).tags = d.tags := rfl
@[simp] theorem Dev.modCore_warm (d : Dev) (n : Nat) (f : Core → Core) : (d.modCore n f).warm = d.warm := rfl
@[simp] theorem Dev.modCore_router (d : Dev) (n : Nat) (f : Core → Core) : (d.modCore n f).router = d.router := rfl
@[simp] theorem Dev.modCore_hops (d : Dev) (n : Nat) (f : Core → Core) : (d.modCore n f).hops = d.hops := rfl
@[simp] theorem Dev.modCore_held (d : Dev) (n : Nat) (f : Core → Core) : (d.modCore n f).held = d.held := rfl
@[simp] theorem Dev.modCore_hearths (d : Dev) (n : Nat) (f : Core → Core) : (d.modCore n f).hearths = d.hearths := rfl
@[simp] theorem Dev.modCore_ctrl (d : Dev) (n : Nat) (f : Core → Core) : (d.modCore n f).ctrl = d.ctrl := rfl
@[simp] theorem Dev.modCore_loader (d : Dev) (n : Nat) (f : Core → Core) : (d.modCore n f).loader = d.loader := rfl
@[simp] theorem Dev.modCore_stoker (d : Dev) (n : Nat) (f : Core → Core) : (d.modCore n f).stoker = d.stoker := rfl
@[simp] theorem Dev.modCore_flash (d : Dev) (n : Nat) (f : Core → Core) : (d.modCore n f).flash = d.flash := rfl
@[simp] theorem Dev.modCore_nand (d : Dev) (n : Nat) (f : Core → Core) : (d.modCore n f).nand = d.nand := rfl
@[simp] theorem Dev.modCore_ports (d : Dev) (n : Nat) (f : Core → Core) : (d.modCore n f).ports = d.ports := rfl
@[simp] theorem Dev.modCore_link (d : Dev) (n : Nat) (f : Core → Core) : (d.modCore n f).link = d.link := rfl
@[simp] theorem Dev.modCore_attn (d : Dev) (n : Nat) (f : Core → Core) : (d.modCore n f).attn = d.attn := rfl
@[simp] theorem Dev.modCore_cmds (d : Dev) (n : Nat) (f : Core → Core) : (d.modCore n f).cmds = d.cmds := rfl
@[simp] theorem Dev.modCore_power (d : Dev) (n : Nat) (f : Core → Core) : (d.modCore n f).power = d.power := rfl
@[simp] theorem Dev.modCore_aon (d : Dev) (n : Nat) (f : Core → Core) : (d.modCore n f).aon = d.aon := rfl
@[simp] theorem Dev.modCore_health (d : Dev) (n : Nat) (f : Core → Core) : (d.modCore n f).health = d.health := rfl
@[simp] theorem Dev.modCore_tap (d : Dev) (n : Nat) (f : Core → Core) : (d.modCore n f).tap = d.tap := rfl

/-! modHop -/

@[simp] theorem Dev.modHop_regs (d : Dev) (n : Nat) (f : Hopper → Hopper) : (d.modHop n f).regs = d.regs := rfl
@[simp] theorem Dev.modHop_pages (d : Dev) (n : Nat) (f : Hopper → Hopper) : (d.modHop n f).pages = d.pages := rfl
@[simp] theorem Dev.modHop_mirror (d : Dev) (n : Nat) (f : Hopper → Hopper) : (d.modHop n f).mirror = d.mirror := rfl
@[simp] theorem Dev.modHop_latchHost (d : Dev) (n : Nat) (f : Hopper → Hopper) : (d.modHop n f).latchHost = d.latchHost := rfl
@[simp] theorem Dev.modHop_latchCtrl (d : Dev) (n : Nat) (f : Hopper → Hopper) : (d.modHop n f).latchCtrl = d.latchCtrl := rfl
@[simp] theorem Dev.modHop_busHost (d : Dev) (n : Nat) (f : Hopper → Hopper) : (d.modHop n f).busHost = d.busHost := rfl
@[simp] theorem Dev.modHop_busCtrl (d : Dev) (n : Nat) (f : Hopper → Hopper) : (d.modHop n f).busCtrl = d.busCtrl := rfl
@[simp] theorem Dev.modHop_free (d : Dev) (n : Nat) (f : Hopper → Hopper) : (d.modHop n f).free = d.free := rfl
@[simp] theorem Dev.modHop_mem (d : Dev) (n : Nat) (f : Hopper → Hopper) : (d.modHop n f).mem = d.mem := rfl
@[simp] theorem Dev.modHop_tags (d : Dev) (n : Nat) (f : Hopper → Hopper) : (d.modHop n f).tags = d.tags := rfl
@[simp] theorem Dev.modHop_warm (d : Dev) (n : Nat) (f : Hopper → Hopper) : (d.modHop n f).warm = d.warm := rfl
@[simp] theorem Dev.modHop_router (d : Dev) (n : Nat) (f : Hopper → Hopper) : (d.modHop n f).router = d.router := rfl
@[simp] theorem Dev.modHop_cores (d : Dev) (n : Nat) (f : Hopper → Hopper) : (d.modHop n f).cores = d.cores := rfl
@[simp] theorem Dev.modHop_held (d : Dev) (n : Nat) (f : Hopper → Hopper) : (d.modHop n f).held = d.held := rfl
@[simp] theorem Dev.modHop_hearths (d : Dev) (n : Nat) (f : Hopper → Hopper) : (d.modHop n f).hearths = d.hearths := rfl
@[simp] theorem Dev.modHop_ctrl (d : Dev) (n : Nat) (f : Hopper → Hopper) : (d.modHop n f).ctrl = d.ctrl := rfl
@[simp] theorem Dev.modHop_loader (d : Dev) (n : Nat) (f : Hopper → Hopper) : (d.modHop n f).loader = d.loader := rfl
@[simp] theorem Dev.modHop_stoker (d : Dev) (n : Nat) (f : Hopper → Hopper) : (d.modHop n f).stoker = d.stoker := rfl
@[simp] theorem Dev.modHop_flash (d : Dev) (n : Nat) (f : Hopper → Hopper) : (d.modHop n f).flash = d.flash := rfl
@[simp] theorem Dev.modHop_nand (d : Dev) (n : Nat) (f : Hopper → Hopper) : (d.modHop n f).nand = d.nand := rfl
@[simp] theorem Dev.modHop_ports (d : Dev) (n : Nat) (f : Hopper → Hopper) : (d.modHop n f).ports = d.ports := rfl
@[simp] theorem Dev.modHop_link (d : Dev) (n : Nat) (f : Hopper → Hopper) : (d.modHop n f).link = d.link := rfl
@[simp] theorem Dev.modHop_attn (d : Dev) (n : Nat) (f : Hopper → Hopper) : (d.modHop n f).attn = d.attn := rfl
@[simp] theorem Dev.modHop_cmds (d : Dev) (n : Nat) (f : Hopper → Hopper) : (d.modHop n f).cmds = d.cmds := rfl
@[simp] theorem Dev.modHop_power (d : Dev) (n : Nat) (f : Hopper → Hopper) : (d.modHop n f).power = d.power := rfl
@[simp] theorem Dev.modHop_aon (d : Dev) (n : Nat) (f : Hopper → Hopper) : (d.modHop n f).aon = d.aon := rfl
@[simp] theorem Dev.modHop_health (d : Dev) (n : Nat) (f : Hopper → Hopper) : (d.modHop n f).health = d.health := rfl
@[simp] theorem Dev.modHop_tap (d : Dev) (n : Nat) (f : Hopper → Hopper) : (d.modHop n f).tap = d.tap := rfl

/-! modHearth -/

@[simp] theorem Dev.modHearth_regs (d : Dev) (n : Nat) (f : Hearth → Hearth) : (d.modHearth n f).regs = d.regs := rfl
@[simp] theorem Dev.modHearth_pages (d : Dev) (n : Nat) (f : Hearth → Hearth) : (d.modHearth n f).pages = d.pages := rfl
@[simp] theorem Dev.modHearth_mirror (d : Dev) (n : Nat) (f : Hearth → Hearth) : (d.modHearth n f).mirror = d.mirror := rfl
@[simp] theorem Dev.modHearth_latchHost (d : Dev) (n : Nat) (f : Hearth → Hearth) : (d.modHearth n f).latchHost = d.latchHost := rfl
@[simp] theorem Dev.modHearth_latchCtrl (d : Dev) (n : Nat) (f : Hearth → Hearth) : (d.modHearth n f).latchCtrl = d.latchCtrl := rfl
@[simp] theorem Dev.modHearth_busHost (d : Dev) (n : Nat) (f : Hearth → Hearth) : (d.modHearth n f).busHost = d.busHost := rfl
@[simp] theorem Dev.modHearth_busCtrl (d : Dev) (n : Nat) (f : Hearth → Hearth) : (d.modHearth n f).busCtrl = d.busCtrl := rfl
@[simp] theorem Dev.modHearth_free (d : Dev) (n : Nat) (f : Hearth → Hearth) : (d.modHearth n f).free = d.free := rfl
@[simp] theorem Dev.modHearth_mem (d : Dev) (n : Nat) (f : Hearth → Hearth) : (d.modHearth n f).mem = d.mem := rfl
@[simp] theorem Dev.modHearth_tags (d : Dev) (n : Nat) (f : Hearth → Hearth) : (d.modHearth n f).tags = d.tags := rfl
@[simp] theorem Dev.modHearth_warm (d : Dev) (n : Nat) (f : Hearth → Hearth) : (d.modHearth n f).warm = d.warm := rfl
@[simp] theorem Dev.modHearth_router (d : Dev) (n : Nat) (f : Hearth → Hearth) : (d.modHearth n f).router = d.router := rfl
@[simp] theorem Dev.modHearth_hops (d : Dev) (n : Nat) (f : Hearth → Hearth) : (d.modHearth n f).hops = d.hops := rfl
@[simp] theorem Dev.modHearth_cores (d : Dev) (n : Nat) (f : Hearth → Hearth) : (d.modHearth n f).cores = d.cores := rfl
@[simp] theorem Dev.modHearth_held (d : Dev) (n : Nat) (f : Hearth → Hearth) : (d.modHearth n f).held = d.held := rfl
@[simp] theorem Dev.modHearth_ctrl (d : Dev) (n : Nat) (f : Hearth → Hearth) : (d.modHearth n f).ctrl = d.ctrl := rfl
@[simp] theorem Dev.modHearth_loader (d : Dev) (n : Nat) (f : Hearth → Hearth) : (d.modHearth n f).loader = d.loader := rfl
@[simp] theorem Dev.modHearth_stoker (d : Dev) (n : Nat) (f : Hearth → Hearth) : (d.modHearth n f).stoker = d.stoker := rfl
@[simp] theorem Dev.modHearth_flash (d : Dev) (n : Nat) (f : Hearth → Hearth) : (d.modHearth n f).flash = d.flash := rfl
@[simp] theorem Dev.modHearth_nand (d : Dev) (n : Nat) (f : Hearth → Hearth) : (d.modHearth n f).nand = d.nand := rfl
@[simp] theorem Dev.modHearth_ports (d : Dev) (n : Nat) (f : Hearth → Hearth) : (d.modHearth n f).ports = d.ports := rfl
@[simp] theorem Dev.modHearth_link (d : Dev) (n : Nat) (f : Hearth → Hearth) : (d.modHearth n f).link = d.link := rfl
@[simp] theorem Dev.modHearth_attn (d : Dev) (n : Nat) (f : Hearth → Hearth) : (d.modHearth n f).attn = d.attn := rfl
@[simp] theorem Dev.modHearth_cmds (d : Dev) (n : Nat) (f : Hearth → Hearth) : (d.modHearth n f).cmds = d.cmds := rfl
@[simp] theorem Dev.modHearth_power (d : Dev) (n : Nat) (f : Hearth → Hearth) : (d.modHearth n f).power = d.power := rfl
@[simp] theorem Dev.modHearth_aon (d : Dev) (n : Nat) (f : Hearth → Hearth) : (d.modHearth n f).aon = d.aon := rfl
@[simp] theorem Dev.modHearth_health (d : Dev) (n : Nat) (f : Hearth → Hearth) : (d.modHearth n f).health = d.health := rfl
@[simp] theorem Dev.modHearth_tap (d : Dev) (n : Nat) (f : Hearth → Hearth) : (d.modHearth n f).tap = d.tap := rfl

/-! modRouter -/

@[simp] theorem Dev.modRouter_regs (d : Dev) (f : Router → Router) : (d.modRouter f).regs = d.regs := rfl
@[simp] theorem Dev.modRouter_pages (d : Dev) (f : Router → Router) : (d.modRouter f).pages = d.pages := rfl
@[simp] theorem Dev.modRouter_mirror (d : Dev) (f : Router → Router) : (d.modRouter f).mirror = d.mirror := rfl
@[simp] theorem Dev.modRouter_latchHost (d : Dev) (f : Router → Router) : (d.modRouter f).latchHost = d.latchHost := rfl
@[simp] theorem Dev.modRouter_latchCtrl (d : Dev) (f : Router → Router) : (d.modRouter f).latchCtrl = d.latchCtrl := rfl
@[simp] theorem Dev.modRouter_busHost (d : Dev) (f : Router → Router) : (d.modRouter f).busHost = d.busHost := rfl
@[simp] theorem Dev.modRouter_busCtrl (d : Dev) (f : Router → Router) : (d.modRouter f).busCtrl = d.busCtrl := rfl
@[simp] theorem Dev.modRouter_free (d : Dev) (f : Router → Router) : (d.modRouter f).free = d.free := rfl
@[simp] theorem Dev.modRouter_mem (d : Dev) (f : Router → Router) : (d.modRouter f).mem = d.mem := rfl
@[simp] theorem Dev.modRouter_tags (d : Dev) (f : Router → Router) : (d.modRouter f).tags = d.tags := rfl
@[simp] theorem Dev.modRouter_warm (d : Dev) (f : Router → Router) : (d.modRouter f).warm = d.warm := rfl
@[simp] theorem Dev.modRouter_hops (d : Dev) (f : Router → Router) : (d.modRouter f).hops = d.hops := rfl
@[simp] theorem Dev.modRouter_cores (d : Dev) (f : Router → Router) : (d.modRouter f).cores = d.cores := rfl
@[simp] theorem Dev.modRouter_held (d : Dev) (f : Router → Router) : (d.modRouter f).held = d.held := rfl
@[simp] theorem Dev.modRouter_hearths (d : Dev) (f : Router → Router) : (d.modRouter f).hearths = d.hearths := rfl
@[simp] theorem Dev.modRouter_ctrl (d : Dev) (f : Router → Router) : (d.modRouter f).ctrl = d.ctrl := rfl
@[simp] theorem Dev.modRouter_loader (d : Dev) (f : Router → Router) : (d.modRouter f).loader = d.loader := rfl
@[simp] theorem Dev.modRouter_stoker (d : Dev) (f : Router → Router) : (d.modRouter f).stoker = d.stoker := rfl
@[simp] theorem Dev.modRouter_flash (d : Dev) (f : Router → Router) : (d.modRouter f).flash = d.flash := rfl
@[simp] theorem Dev.modRouter_nand (d : Dev) (f : Router → Router) : (d.modRouter f).nand = d.nand := rfl
@[simp] theorem Dev.modRouter_ports (d : Dev) (f : Router → Router) : (d.modRouter f).ports = d.ports := rfl
@[simp] theorem Dev.modRouter_link (d : Dev) (f : Router → Router) : (d.modRouter f).link = d.link := rfl
@[simp] theorem Dev.modRouter_attn (d : Dev) (f : Router → Router) : (d.modRouter f).attn = d.attn := rfl
@[simp] theorem Dev.modRouter_cmds (d : Dev) (f : Router → Router) : (d.modRouter f).cmds = d.cmds := rfl
@[simp] theorem Dev.modRouter_power (d : Dev) (f : Router → Router) : (d.modRouter f).power = d.power := rfl
@[simp] theorem Dev.modRouter_aon (d : Dev) (f : Router → Router) : (d.modRouter f).aon = d.aon := rfl
@[simp] theorem Dev.modRouter_health (d : Dev) (f : Router → Router) : (d.modRouter f).health = d.health := rfl
@[simp] theorem Dev.modRouter_tap (d : Dev) (f : Router → Router) : (d.modRouter f).tap = d.tap := rfl

/-! modPower -/

@[simp] theorem Dev.modPower_regs (d : Dev) (f : Power → Power) : (d.modPower f).regs = d.regs := rfl
@[simp] theorem Dev.modPower_pages (d : Dev) (f : Power → Power) : (d.modPower f).pages = d.pages := rfl
@[simp] theorem Dev.modPower_mirror (d : Dev) (f : Power → Power) : (d.modPower f).mirror = d.mirror := rfl
@[simp] theorem Dev.modPower_latchHost (d : Dev) (f : Power → Power) : (d.modPower f).latchHost = d.latchHost := rfl
@[simp] theorem Dev.modPower_latchCtrl (d : Dev) (f : Power → Power) : (d.modPower f).latchCtrl = d.latchCtrl := rfl
@[simp] theorem Dev.modPower_busHost (d : Dev) (f : Power → Power) : (d.modPower f).busHost = d.busHost := rfl
@[simp] theorem Dev.modPower_busCtrl (d : Dev) (f : Power → Power) : (d.modPower f).busCtrl = d.busCtrl := rfl
@[simp] theorem Dev.modPower_free (d : Dev) (f : Power → Power) : (d.modPower f).free = d.free := rfl
@[simp] theorem Dev.modPower_mem (d : Dev) (f : Power → Power) : (d.modPower f).mem = d.mem := rfl
@[simp] theorem Dev.modPower_tags (d : Dev) (f : Power → Power) : (d.modPower f).tags = d.tags := rfl
@[simp] theorem Dev.modPower_warm (d : Dev) (f : Power → Power) : (d.modPower f).warm = d.warm := rfl
@[simp] theorem Dev.modPower_router (d : Dev) (f : Power → Power) : (d.modPower f).router = d.router := rfl
@[simp] theorem Dev.modPower_hops (d : Dev) (f : Power → Power) : (d.modPower f).hops = d.hops := rfl
@[simp] theorem Dev.modPower_cores (d : Dev) (f : Power → Power) : (d.modPower f).cores = d.cores := rfl
@[simp] theorem Dev.modPower_held (d : Dev) (f : Power → Power) : (d.modPower f).held = d.held := rfl
@[simp] theorem Dev.modPower_hearths (d : Dev) (f : Power → Power) : (d.modPower f).hearths = d.hearths := rfl
@[simp] theorem Dev.modPower_ctrl (d : Dev) (f : Power → Power) : (d.modPower f).ctrl = d.ctrl := rfl
@[simp] theorem Dev.modPower_loader (d : Dev) (f : Power → Power) : (d.modPower f).loader = d.loader := rfl
@[simp] theorem Dev.modPower_stoker (d : Dev) (f : Power → Power) : (d.modPower f).stoker = d.stoker := rfl
@[simp] theorem Dev.modPower_flash (d : Dev) (f : Power → Power) : (d.modPower f).flash = d.flash := rfl
@[simp] theorem Dev.modPower_nand (d : Dev) (f : Power → Power) : (d.modPower f).nand = d.nand := rfl
@[simp] theorem Dev.modPower_ports (d : Dev) (f : Power → Power) : (d.modPower f).ports = d.ports := rfl
@[simp] theorem Dev.modPower_link (d : Dev) (f : Power → Power) : (d.modPower f).link = d.link := rfl
@[simp] theorem Dev.modPower_attn (d : Dev) (f : Power → Power) : (d.modPower f).attn = d.attn := rfl
@[simp] theorem Dev.modPower_cmds (d : Dev) (f : Power → Power) : (d.modPower f).cmds = d.cmds := rfl
@[simp] theorem Dev.modPower_aon (d : Dev) (f : Power → Power) : (d.modPower f).aon = d.aon := rfl
@[simp] theorem Dev.modPower_health (d : Dev) (f : Power → Power) : (d.modPower f).health = d.health := rfl
@[simp] theorem Dev.modPower_tap (d : Dev) (f : Power → Power) : (d.modPower f).tap = d.tap := rfl

/-! setDom -/

@[simp] theorem Dev.setDom_regs (d : Dev) (n : Nat) (v : DomSt) : (d.setDom n v).regs = d.regs := rfl
@[simp] theorem Dev.setDom_pages (d : Dev) (n : Nat) (v : DomSt) : (d.setDom n v).pages = d.pages := rfl
@[simp] theorem Dev.setDom_mirror (d : Dev) (n : Nat) (v : DomSt) : (d.setDom n v).mirror = d.mirror := rfl
@[simp] theorem Dev.setDom_latchHost (d : Dev) (n : Nat) (v : DomSt) : (d.setDom n v).latchHost = d.latchHost := rfl
@[simp] theorem Dev.setDom_latchCtrl (d : Dev) (n : Nat) (v : DomSt) : (d.setDom n v).latchCtrl = d.latchCtrl := rfl
@[simp] theorem Dev.setDom_busHost (d : Dev) (n : Nat) (v : DomSt) : (d.setDom n v).busHost = d.busHost := rfl
@[simp] theorem Dev.setDom_busCtrl (d : Dev) (n : Nat) (v : DomSt) : (d.setDom n v).busCtrl = d.busCtrl := rfl
@[simp] theorem Dev.setDom_free (d : Dev) (n : Nat) (v : DomSt) : (d.setDom n v).free = d.free := rfl
@[simp] theorem Dev.setDom_mem (d : Dev) (n : Nat) (v : DomSt) : (d.setDom n v).mem = d.mem := rfl
@[simp] theorem Dev.setDom_tags (d : Dev) (n : Nat) (v : DomSt) : (d.setDom n v).tags = d.tags := rfl
@[simp] theorem Dev.setDom_warm (d : Dev) (n : Nat) (v : DomSt) : (d.setDom n v).warm = d.warm := rfl
@[simp] theorem Dev.setDom_router (d : Dev) (n : Nat) (v : DomSt) : (d.setDom n v).router = d.router := rfl
@[simp] theorem Dev.setDom_hops (d : Dev) (n : Nat) (v : DomSt) : (d.setDom n v).hops = d.hops := rfl
@[simp] theorem Dev.setDom_cores (d : Dev) (n : Nat) (v : DomSt) : (d.setDom n v).cores = d.cores := rfl
@[simp] theorem Dev.setDom_held (d : Dev) (n : Nat) (v : DomSt) : (d.setDom n v).held = d.held := rfl
@[simp] theorem Dev.setDom_hearths (d : Dev) (n : Nat) (v : DomSt) : (d.setDom n v).hearths = d.hearths := rfl
@[simp] theorem Dev.setDom_ctrl (d : Dev) (n : Nat) (v : DomSt) : (d.setDom n v).ctrl = d.ctrl := rfl
@[simp] theorem Dev.setDom_loader (d : Dev) (n : Nat) (v : DomSt) : (d.setDom n v).loader = d.loader := rfl
@[simp] theorem Dev.setDom_stoker (d : Dev) (n : Nat) (v : DomSt) : (d.setDom n v).stoker = d.stoker := rfl
@[simp] theorem Dev.setDom_flash (d : Dev) (n : Nat) (v : DomSt) : (d.setDom n v).flash = d.flash := rfl
@[simp] theorem Dev.setDom_nand (d : Dev) (n : Nat) (v : DomSt) : (d.setDom n v).nand = d.nand := rfl
@[simp] theorem Dev.setDom_ports (d : Dev) (n : Nat) (v : DomSt) : (d.setDom n v).ports = d.ports := rfl
@[simp] theorem Dev.setDom_link (d : Dev) (n : Nat) (v : DomSt) : (d.setDom n v).link = d.link := rfl
@[simp] theorem Dev.setDom_attn (d : Dev) (n : Nat) (v : DomSt) : (d.setDom n v).attn = d.attn := rfl
@[simp] theorem Dev.setDom_cmds (d : Dev) (n : Nat) (v : DomSt) : (d.setDom n v).cmds = d.cmds := rfl
@[simp] theorem Dev.setDom_aon (d : Dev) (n : Nat) (v : DomSt) : (d.setDom n v).aon = d.aon := rfl
@[simp] theorem Dev.setDom_health (d : Dev) (n : Nat) (v : DomSt) : (d.setDom n v).health = d.health := rfl
@[simp] theorem Dev.setDom_tap (d : Dev) (n : Nat) (v : DomSt) : (d.setDom n v).tap = d.tap := rfl

/-! modLoader -/

@[simp] theorem Dev.modLoader_regs (d : Dev) (f : Loader → Loader) : (d.modLoader f).regs = d.regs := rfl
@[simp] theorem Dev.modLoader_pages (d : Dev) (f : Loader → Loader) : (d.modLoader f).pages = d.pages := rfl
@[simp] theorem Dev.modLoader_mirror (d : Dev) (f : Loader → Loader) : (d.modLoader f).mirror = d.mirror := rfl
@[simp] theorem Dev.modLoader_latchHost (d : Dev) (f : Loader → Loader) : (d.modLoader f).latchHost = d.latchHost := rfl
@[simp] theorem Dev.modLoader_latchCtrl (d : Dev) (f : Loader → Loader) : (d.modLoader f).latchCtrl = d.latchCtrl := rfl
@[simp] theorem Dev.modLoader_busHost (d : Dev) (f : Loader → Loader) : (d.modLoader f).busHost = d.busHost := rfl
@[simp] theorem Dev.modLoader_busCtrl (d : Dev) (f : Loader → Loader) : (d.modLoader f).busCtrl = d.busCtrl := rfl
@[simp] theorem Dev.modLoader_free (d : Dev) (f : Loader → Loader) : (d.modLoader f).free = d.free := rfl
@[simp] theorem Dev.modLoader_mem (d : Dev) (f : Loader → Loader) : (d.modLoader f).mem = d.mem := rfl
@[simp] theorem Dev.modLoader_tags (d : Dev) (f : Loader → Loader) : (d.modLoader f).tags = d.tags := rfl
@[simp] theorem Dev.modLoader_warm (d : Dev) (f : Loader → Loader) : (d.modLoader f).warm = d.warm := rfl
@[simp] theorem Dev.modLoader_router (d : Dev) (f : Loader → Loader) : (d.modLoader f).router = d.router := rfl
@[simp] theorem Dev.modLoader_hops (d : Dev) (f : Loader → Loader) : (d.modLoader f).hops = d.hops := rfl
@[simp] theorem Dev.modLoader_cores (d : Dev) (f : Loader → Loader) : (d.modLoader f).cores = d.cores := rfl
@[simp] theorem Dev.modLoader_held (d : Dev) (f : Loader → Loader) : (d.modLoader f).held = d.held := rfl
@[simp] theorem Dev.modLoader_hearths (d : Dev) (f : Loader → Loader) : (d.modLoader f).hearths = d.hearths := rfl
@[simp] theorem Dev.modLoader_ctrl (d : Dev) (f : Loader → Loader) : (d.modLoader f).ctrl = d.ctrl := rfl
@[simp] theorem Dev.modLoader_stoker (d : Dev) (f : Loader → Loader) : (d.modLoader f).stoker = d.stoker := rfl
@[simp] theorem Dev.modLoader_flash (d : Dev) (f : Loader → Loader) : (d.modLoader f).flash = d.flash := rfl
@[simp] theorem Dev.modLoader_nand (d : Dev) (f : Loader → Loader) : (d.modLoader f).nand = d.nand := rfl
@[simp] theorem Dev.modLoader_ports (d : Dev) (f : Loader → Loader) : (d.modLoader f).ports = d.ports := rfl
@[simp] theorem Dev.modLoader_link (d : Dev) (f : Loader → Loader) : (d.modLoader f).link = d.link := rfl
@[simp] theorem Dev.modLoader_attn (d : Dev) (f : Loader → Loader) : (d.modLoader f).attn = d.attn := rfl
@[simp] theorem Dev.modLoader_cmds (d : Dev) (f : Loader → Loader) : (d.modLoader f).cmds = d.cmds := rfl
@[simp] theorem Dev.modLoader_power (d : Dev) (f : Loader → Loader) : (d.modLoader f).power = d.power := rfl
@[simp] theorem Dev.modLoader_aon (d : Dev) (f : Loader → Loader) : (d.modLoader f).aon = d.aon := rfl
@[simp] theorem Dev.modLoader_health (d : Dev) (f : Loader → Loader) : (d.modLoader f).health = d.health := rfl
@[simp] theorem Dev.modLoader_tap (d : Dev) (f : Loader → Loader) : (d.modLoader f).tap = d.tap := rfl

/-! modStoker -/

@[simp] theorem Dev.modStoker_regs (d : Dev) (f : Stoker → Stoker) : (d.modStoker f).regs = d.regs := rfl
@[simp] theorem Dev.modStoker_pages (d : Dev) (f : Stoker → Stoker) : (d.modStoker f).pages = d.pages := rfl
@[simp] theorem Dev.modStoker_mirror (d : Dev) (f : Stoker → Stoker) : (d.modStoker f).mirror = d.mirror := rfl
@[simp] theorem Dev.modStoker_latchHost (d : Dev) (f : Stoker → Stoker) : (d.modStoker f).latchHost = d.latchHost := rfl
@[simp] theorem Dev.modStoker_latchCtrl (d : Dev) (f : Stoker → Stoker) : (d.modStoker f).latchCtrl = d.latchCtrl := rfl
@[simp] theorem Dev.modStoker_busHost (d : Dev) (f : Stoker → Stoker) : (d.modStoker f).busHost = d.busHost := rfl
@[simp] theorem Dev.modStoker_busCtrl (d : Dev) (f : Stoker → Stoker) : (d.modStoker f).busCtrl = d.busCtrl := rfl
@[simp] theorem Dev.modStoker_free (d : Dev) (f : Stoker → Stoker) : (d.modStoker f).free = d.free := rfl
@[simp] theorem Dev.modStoker_mem (d : Dev) (f : Stoker → Stoker) : (d.modStoker f).mem = d.mem := rfl
@[simp] theorem Dev.modStoker_tags (d : Dev) (f : Stoker → Stoker) : (d.modStoker f).tags = d.tags := rfl
@[simp] theorem Dev.modStoker_warm (d : Dev) (f : Stoker → Stoker) : (d.modStoker f).warm = d.warm := rfl
@[simp] theorem Dev.modStoker_router (d : Dev) (f : Stoker → Stoker) : (d.modStoker f).router = d.router := rfl
@[simp] theorem Dev.modStoker_hops (d : Dev) (f : Stoker → Stoker) : (d.modStoker f).hops = d.hops := rfl
@[simp] theorem Dev.modStoker_cores (d : Dev) (f : Stoker → Stoker) : (d.modStoker f).cores = d.cores := rfl
@[simp] theorem Dev.modStoker_held (d : Dev) (f : Stoker → Stoker) : (d.modStoker f).held = d.held := rfl
@[simp] theorem Dev.modStoker_hearths (d : Dev) (f : Stoker → Stoker) : (d.modStoker f).hearths = d.hearths := rfl
@[simp] theorem Dev.modStoker_ctrl (d : Dev) (f : Stoker → Stoker) : (d.modStoker f).ctrl = d.ctrl := rfl
@[simp] theorem Dev.modStoker_loader (d : Dev) (f : Stoker → Stoker) : (d.modStoker f).loader = d.loader := rfl
@[simp] theorem Dev.modStoker_flash (d : Dev) (f : Stoker → Stoker) : (d.modStoker f).flash = d.flash := rfl
@[simp] theorem Dev.modStoker_nand (d : Dev) (f : Stoker → Stoker) : (d.modStoker f).nand = d.nand := rfl
@[simp] theorem Dev.modStoker_ports (d : Dev) (f : Stoker → Stoker) : (d.modStoker f).ports = d.ports := rfl
@[simp] theorem Dev.modStoker_link (d : Dev) (f : Stoker → Stoker) : (d.modStoker f).link = d.link := rfl
@[simp] theorem Dev.modStoker_attn (d : Dev) (f : Stoker → Stoker) : (d.modStoker f).attn = d.attn := rfl
@[simp] theorem Dev.modStoker_cmds (d : Dev) (f : Stoker → Stoker) : (d.modStoker f).cmds = d.cmds := rfl
@[simp] theorem Dev.modStoker_power (d : Dev) (f : Stoker → Stoker) : (d.modStoker f).power = d.power := rfl
@[simp] theorem Dev.modStoker_aon (d : Dev) (f : Stoker → Stoker) : (d.modStoker f).aon = d.aon := rfl
@[simp] theorem Dev.modStoker_health (d : Dev) (f : Stoker → Stoker) : (d.modStoker f).health = d.health := rfl
@[simp] theorem Dev.modStoker_tap (d : Dev) (f : Stoker → Stoker) : (d.modStoker f).tap = d.tap := rfl

/-! modFlash -/

@[simp] theorem Dev.modFlash_regs (d : Dev) (f : Flash → Flash) : (d.modFlash f).regs = d.regs := rfl
@[simp] theorem Dev.modFlash_pages (d : Dev) (f : Flash → Flash) : (d.modFlash f).pages = d.pages := rfl
@[simp] theorem Dev.modFlash_mirror (d : Dev) (f : Flash → Flash) : (d.modFlash f).mirror = d.mirror := rfl
@[simp] theorem Dev.modFlash_latchHost (d : Dev) (f : Flash → Flash) : (d.modFlash f).latchHost = d.latchHost := rfl
@[simp] theorem Dev.modFlash_latchCtrl (d : Dev) (f : Flash → Flash) : (d.modFlash f).latchCtrl = d.latchCtrl := rfl
@[simp] theorem Dev.modFlash_busHost (d : Dev) (f : Flash → Flash) : (d.modFlash f).busHost = d.busHost := rfl
@[simp] theorem Dev.modFlash_busCtrl (d : Dev) (f : Flash → Flash) : (d.modFlash f).busCtrl = d.busCtrl := rfl
@[simp] theorem Dev.modFlash_free (d : Dev) (f : Flash → Flash) : (d.modFlash f).free = d.free := rfl
@[simp] theorem Dev.modFlash_mem (d : Dev) (f : Flash → Flash) : (d.modFlash f).mem = d.mem := rfl
@[simp] theorem Dev.modFlash_tags (d : Dev) (f : Flash → Flash) : (d.modFlash f).tags = d.tags := rfl
@[simp] theorem Dev.modFlash_warm (d : Dev) (f : Flash → Flash) : (d.modFlash f).warm = d.warm := rfl
@[simp] theorem Dev.modFlash_router (d : Dev) (f : Flash → Flash) : (d.modFlash f).router = d.router := rfl
@[simp] theorem Dev.modFlash_hops (d : Dev) (f : Flash → Flash) : (d.modFlash f).hops = d.hops := rfl
@[simp] theorem Dev.modFlash_cores (d : Dev) (f : Flash → Flash) : (d.modFlash f).cores = d.cores := rfl
@[simp] theorem Dev.modFlash_held (d : Dev) (f : Flash → Flash) : (d.modFlash f).held = d.held := rfl
@[simp] theorem Dev.modFlash_hearths (d : Dev) (f : Flash → Flash) : (d.modFlash f).hearths = d.hearths := rfl
@[simp] theorem Dev.modFlash_ctrl (d : Dev) (f : Flash → Flash) : (d.modFlash f).ctrl = d.ctrl := rfl
@[simp] theorem Dev.modFlash_loader (d : Dev) (f : Flash → Flash) : (d.modFlash f).loader = d.loader := rfl
@[simp] theorem Dev.modFlash_stoker (d : Dev) (f : Flash → Flash) : (d.modFlash f).stoker = d.stoker := rfl
@[simp] theorem Dev.modFlash_nand (d : Dev) (f : Flash → Flash) : (d.modFlash f).nand = d.nand := rfl
@[simp] theorem Dev.modFlash_ports (d : Dev) (f : Flash → Flash) : (d.modFlash f).ports = d.ports := rfl
@[simp] theorem Dev.modFlash_link (d : Dev) (f : Flash → Flash) : (d.modFlash f).link = d.link := rfl
@[simp] theorem Dev.modFlash_attn (d : Dev) (f : Flash → Flash) : (d.modFlash f).attn = d.attn := rfl
@[simp] theorem Dev.modFlash_cmds (d : Dev) (f : Flash → Flash) : (d.modFlash f).cmds = d.cmds := rfl
@[simp] theorem Dev.modFlash_power (d : Dev) (f : Flash → Flash) : (d.modFlash f).power = d.power := rfl
@[simp] theorem Dev.modFlash_aon (d : Dev) (f : Flash → Flash) : (d.modFlash f).aon = d.aon := rfl
@[simp] theorem Dev.modFlash_health (d : Dev) (f : Flash → Flash) : (d.modFlash f).health = d.health := rfl
@[simp] theorem Dev.modFlash_tap (d : Dev) (f : Flash → Flash) : (d.modFlash f).tap = d.tap := rfl

/-! modPorts -/

@[simp] theorem Dev.modPorts_regs (d : Dev) (f : Ports → Ports) : (d.modPorts f).regs = d.regs := rfl
@[simp] theorem Dev.modPorts_pages (d : Dev) (f : Ports → Ports) : (d.modPorts f).pages = d.pages := rfl
@[simp] theorem Dev.modPorts_mirror (d : Dev) (f : Ports → Ports) : (d.modPorts f).mirror = d.mirror := rfl
@[simp] theorem Dev.modPorts_latchHost (d : Dev) (f : Ports → Ports) : (d.modPorts f).latchHost = d.latchHost := rfl
@[simp] theorem Dev.modPorts_latchCtrl (d : Dev) (f : Ports → Ports) : (d.modPorts f).latchCtrl = d.latchCtrl := rfl
@[simp] theorem Dev.modPorts_busHost (d : Dev) (f : Ports → Ports) : (d.modPorts f).busHost = d.busHost := rfl
@[simp] theorem Dev.modPorts_busCtrl (d : Dev) (f : Ports → Ports) : (d.modPorts f).busCtrl = d.busCtrl := rfl
@[simp] theorem Dev.modPorts_free (d : Dev) (f : Ports → Ports) : (d.modPorts f).free = d.free := rfl
@[simp] theorem Dev.modPorts_mem (d : Dev) (f : Ports → Ports) : (d.modPorts f).mem = d.mem := rfl
@[simp] theorem Dev.modPorts_tags (d : Dev) (f : Ports → Ports) : (d.modPorts f).tags = d.tags := rfl
@[simp] theorem Dev.modPorts_warm (d : Dev) (f : Ports → Ports) : (d.modPorts f).warm = d.warm := rfl
@[simp] theorem Dev.modPorts_router (d : Dev) (f : Ports → Ports) : (d.modPorts f).router = d.router := rfl
@[simp] theorem Dev.modPorts_hops (d : Dev) (f : Ports → Ports) : (d.modPorts f).hops = d.hops := rfl
@[simp] theorem Dev.modPorts_cores (d : Dev) (f : Ports → Ports) : (d.modPorts f).cores = d.cores := rfl
@[simp] theorem Dev.modPorts_held (d : Dev) (f : Ports → Ports) : (d.modPorts f).held = d.held := rfl
@[simp] theorem Dev.modPorts_hearths (d : Dev) (f : Ports → Ports) : (d.modPorts f).hearths = d.hearths := rfl
@[simp] theorem Dev.modPorts_ctrl (d : Dev) (f : Ports → Ports) : (d.modPorts f).ctrl = d.ctrl := rfl
@[simp] theorem Dev.modPorts_loader (d : Dev) (f : Ports → Ports) : (d.modPorts f).loader = d.loader := rfl
@[simp] theorem Dev.modPorts_stoker (d : Dev) (f : Ports → Ports) : (d.modPorts f).stoker = d.stoker := rfl
@[simp] theorem Dev.modPorts_flash (d : Dev) (f : Ports → Ports) : (d.modPorts f).flash = d.flash := rfl
@[simp] theorem Dev.modPorts_nand (d : Dev) (f : Ports → Ports) : (d.modPorts f).nand = d.nand := rfl
@[simp] theorem Dev.modPorts_link (d : Dev) (f : Ports → Ports) : (d.modPorts f).link = d.link := rfl
@[simp] theorem Dev.modPorts_attn (d : Dev) (f : Ports → Ports) : (d.modPorts f).attn = d.attn := rfl
@[simp] theorem Dev.modPorts_cmds (d : Dev) (f : Ports → Ports) : (d.modPorts f).cmds = d.cmds := rfl
@[simp] theorem Dev.modPorts_power (d : Dev) (f : Ports → Ports) : (d.modPorts f).power = d.power := rfl
@[simp] theorem Dev.modPorts_aon (d : Dev) (f : Ports → Ports) : (d.modPorts f).aon = d.aon := rfl
@[simp] theorem Dev.modPorts_health (d : Dev) (f : Ports → Ports) : (d.modPorts f).health = d.health := rfl
@[simp] theorem Dev.modPorts_tap (d : Dev) (f : Ports → Ports) : (d.modPorts f).tap = d.tap := rfl

/-! modLink -/

@[simp] theorem Dev.modLink_regs (d : Dev) (f : Link → Link) : (d.modLink f).regs = d.regs := rfl
@[simp] theorem Dev.modLink_pages (d : Dev) (f : Link → Link) : (d.modLink f).pages = d.pages := rfl
@[simp] theorem Dev.modLink_mirror (d : Dev) (f : Link → Link) : (d.modLink f).mirror = d.mirror := rfl
@[simp] theorem Dev.modLink_latchHost (d : Dev) (f : Link → Link) : (d.modLink f).latchHost = d.latchHost := rfl
@[simp] theorem Dev.modLink_latchCtrl (d : Dev) (f : Link → Link) : (d.modLink f).latchCtrl = d.latchCtrl := rfl
@[simp] theorem Dev.modLink_busHost (d : Dev) (f : Link → Link) : (d.modLink f).busHost = d.busHost := rfl
@[simp] theorem Dev.modLink_busCtrl (d : Dev) (f : Link → Link) : (d.modLink f).busCtrl = d.busCtrl := rfl
@[simp] theorem Dev.modLink_free (d : Dev) (f : Link → Link) : (d.modLink f).free = d.free := rfl
@[simp] theorem Dev.modLink_mem (d : Dev) (f : Link → Link) : (d.modLink f).mem = d.mem := rfl
@[simp] theorem Dev.modLink_tags (d : Dev) (f : Link → Link) : (d.modLink f).tags = d.tags := rfl
@[simp] theorem Dev.modLink_warm (d : Dev) (f : Link → Link) : (d.modLink f).warm = d.warm := rfl
@[simp] theorem Dev.modLink_router (d : Dev) (f : Link → Link) : (d.modLink f).router = d.router := rfl
@[simp] theorem Dev.modLink_hops (d : Dev) (f : Link → Link) : (d.modLink f).hops = d.hops := rfl
@[simp] theorem Dev.modLink_cores (d : Dev) (f : Link → Link) : (d.modLink f).cores = d.cores := rfl
@[simp] theorem Dev.modLink_held (d : Dev) (f : Link → Link) : (d.modLink f).held = d.held := rfl
@[simp] theorem Dev.modLink_hearths (d : Dev) (f : Link → Link) : (d.modLink f).hearths = d.hearths := rfl
@[simp] theorem Dev.modLink_ctrl (d : Dev) (f : Link → Link) : (d.modLink f).ctrl = d.ctrl := rfl
@[simp] theorem Dev.modLink_loader (d : Dev) (f : Link → Link) : (d.modLink f).loader = d.loader := rfl
@[simp] theorem Dev.modLink_stoker (d : Dev) (f : Link → Link) : (d.modLink f).stoker = d.stoker := rfl
@[simp] theorem Dev.modLink_flash (d : Dev) (f : Link → Link) : (d.modLink f).flash = d.flash := rfl
@[simp] theorem Dev.modLink_nand (d : Dev) (f : Link → Link) : (d.modLink f).nand = d.nand := rfl
@[simp] theorem Dev.modLink_ports (d : Dev) (f : Link → Link) : (d.modLink f).ports = d.ports := rfl
@[simp] theorem Dev.modLink_attn (d : Dev) (f : Link → Link) : (d.modLink f).attn = d.attn := rfl
@[simp] theorem Dev.modLink_cmds (d : Dev) (f : Link → Link) : (d.modLink f).cmds = d.cmds := rfl
@[simp] theorem Dev.modLink_power (d : Dev) (f : Link → Link) : (d.modLink f).power = d.power := rfl
@[simp] theorem Dev.modLink_aon (d : Dev) (f : Link → Link) : (d.modLink f).aon = d.aon := rfl
@[simp] theorem Dev.modLink_health (d : Dev) (f : Link → Link) : (d.modLink f).health = d.health := rfl
@[simp] theorem Dev.modLink_tap (d : Dev) (f : Link → Link) : (d.modLink f).tap = d.tap := rfl

/-! modAon -/

@[simp] theorem Dev.modAon_regs (d : Dev) (f : Aon → Aon) : (d.modAon f).regs = d.regs := rfl
@[simp] theorem Dev.modAon_pages (d : Dev) (f : Aon → Aon) : (d.modAon f).pages = d.pages := rfl
@[simp] theorem Dev.modAon_mirror (d : Dev) (f : Aon → Aon) : (d.modAon f).mirror = d.mirror := rfl
@[simp] theorem Dev.modAon_latchHost (d : Dev) (f : Aon → Aon) : (d.modAon f).latchHost = d.latchHost := rfl
@[simp] theorem Dev.modAon_latchCtrl (d : Dev) (f : Aon → Aon) : (d.modAon f).latchCtrl = d.latchCtrl := rfl
@[simp] theorem Dev.modAon_busHost (d : Dev) (f : Aon → Aon) : (d.modAon f).busHost = d.busHost := rfl
@[simp] theorem Dev.modAon_busCtrl (d : Dev) (f : Aon → Aon) : (d.modAon f).busCtrl = d.busCtrl := rfl
@[simp] theorem Dev.modAon_free (d : Dev) (f : Aon → Aon) : (d.modAon f).free = d.free := rfl
@[simp] theorem Dev.modAon_mem (d : Dev) (f : Aon → Aon) : (d.modAon f).mem = d.mem := rfl
@[simp] theorem Dev.modAon_tags (d : Dev) (f : Aon → Aon) : (d.modAon f).tags = d.tags := rfl
@[simp] theorem Dev.modAon_warm (d : Dev) (f : Aon → Aon) : (d.modAon f).warm = d.warm := rfl
@[simp] theorem Dev.modAon_router (d : Dev) (f : Aon → Aon) : (d.modAon f).router = d.router := rfl
@[simp] theorem Dev.modAon_hops (d : Dev) (f : Aon → Aon) : (d.modAon f).hops = d.hops := rfl
@[simp] theorem Dev.modAon_cores (d : Dev) (f : Aon → Aon) : (d.modAon f).cores = d.cores := rfl
@[simp] theorem Dev.modAon_held (d : Dev) (f : Aon → Aon) : (d.modAon f).held = d.held := rfl
@[simp] theorem Dev.modAon_hearths (d : Dev) (f : Aon → Aon) : (d.modAon f).hearths = d.hearths := rfl
@[simp] theorem Dev.modAon_ctrl (d : Dev) (f : Aon → Aon) : (d.modAon f).ctrl = d.ctrl := rfl
@[simp] theorem Dev.modAon_loader (d : Dev) (f : Aon → Aon) : (d.modAon f).loader = d.loader := rfl
@[simp] theorem Dev.modAon_stoker (d : Dev) (f : Aon → Aon) : (d.modAon f).stoker = d.stoker := rfl
@[simp] theorem Dev.modAon_flash (d : Dev) (f : Aon → Aon) : (d.modAon f).flash = d.flash := rfl
@[simp] theorem Dev.modAon_nand (d : Dev) (f : Aon → Aon) : (d.modAon f).nand = d.nand := rfl
@[simp] theorem Dev.modAon_ports (d : Dev) (f : Aon → Aon) : (d.modAon f).ports = d.ports := rfl
@[simp] theorem Dev.modAon_link (d : Dev) (f : Aon → Aon) : (d.modAon f).link = d.link := rfl
@[simp] theorem Dev.modAon_attn (d : Dev) (f : Aon → Aon) : (d.modAon f).attn = d.attn := rfl
@[simp] theorem Dev.modAon_cmds (d : Dev) (f : Aon → Aon) : (d.modAon f).cmds = d.cmds := rfl
@[simp] theorem Dev.modAon_power (d : Dev) (f : Aon → Aon) : (d.modAon f).power = d.power := rfl
@[simp] theorem Dev.modAon_health (d : Dev) (f : Aon → Aon) : (d.modAon f).health = d.health := rfl
@[simp] theorem Dev.modAon_tap (d : Dev) (f : Aon → Aon) : (d.modAon f).tap = d.tap := rfl

/-! modHealth -/

@[simp] theorem Dev.modHealth_regs (d : Dev) (f : Health → Health) : (d.modHealth f).regs = d.regs := rfl
@[simp] theorem Dev.modHealth_pages (d : Dev) (f : Health → Health) : (d.modHealth f).pages = d.pages := rfl
@[simp] theorem Dev.modHealth_mirror (d : Dev) (f : Health → Health) : (d.modHealth f).mirror = d.mirror := rfl
@[simp] theorem Dev.modHealth_latchHost (d : Dev) (f : Health → Health) : (d.modHealth f).latchHost = d.latchHost := rfl
@[simp] theorem Dev.modHealth_latchCtrl (d : Dev) (f : Health → Health) : (d.modHealth f).latchCtrl = d.latchCtrl := rfl
@[simp] theorem Dev.modHealth_busHost (d : Dev) (f : Health → Health) : (d.modHealth f).busHost = d.busHost := rfl
@[simp] theorem Dev.modHealth_busCtrl (d : Dev) (f : Health → Health) : (d.modHealth f).busCtrl = d.busCtrl := rfl
@[simp] theorem Dev.modHealth_free (d : Dev) (f : Health → Health) : (d.modHealth f).free = d.free := rfl
@[simp] theorem Dev.modHealth_mem (d : Dev) (f : Health → Health) : (d.modHealth f).mem = d.mem := rfl
@[simp] theorem Dev.modHealth_tags (d : Dev) (f : Health → Health) : (d.modHealth f).tags = d.tags := rfl
@[simp] theorem Dev.modHealth_warm (d : Dev) (f : Health → Health) : (d.modHealth f).warm = d.warm := rfl
@[simp] theorem Dev.modHealth_router (d : Dev) (f : Health → Health) : (d.modHealth f).router = d.router := rfl
@[simp] theorem Dev.modHealth_hops (d : Dev) (f : Health → Health) : (d.modHealth f).hops = d.hops := rfl
@[simp] theorem Dev.modHealth_cores (d : Dev) (f : Health → Health) : (d.modHealth f).cores = d.cores := rfl
@[simp] theorem Dev.modHealth_held (d : Dev) (f : Health → Health) : (d.modHealth f).held = d.held := rfl
@[simp] theorem Dev.modHealth_hearths (d : Dev) (f : Health → Health) : (d.modHealth f).hearths = d.hearths := rfl
@[simp] theorem Dev.modHealth_ctrl (d : Dev) (f : Health → Health) : (d.modHealth f).ctrl = d.ctrl := rfl
@[simp] theorem Dev.modHealth_loader (d : Dev) (f : Health → Health) : (d.modHealth f).loader = d.loader := rfl
@[simp] theorem Dev.modHealth_stoker (d : Dev) (f : Health → Health) : (d.modHealth f).stoker = d.stoker := rfl
@[simp] theorem Dev.modHealth_flash (d : Dev) (f : Health → Health) : (d.modHealth f).flash = d.flash := rfl
@[simp] theorem Dev.modHealth_nand (d : Dev) (f : Health → Health) : (d.modHealth f).nand = d.nand := rfl
@[simp] theorem Dev.modHealth_ports (d : Dev) (f : Health → Health) : (d.modHealth f).ports = d.ports := rfl
@[simp] theorem Dev.modHealth_link (d : Dev) (f : Health → Health) : (d.modHealth f).link = d.link := rfl
@[simp] theorem Dev.modHealth_attn (d : Dev) (f : Health → Health) : (d.modHealth f).attn = d.attn := rfl
@[simp] theorem Dev.modHealth_cmds (d : Dev) (f : Health → Health) : (d.modHealth f).cmds = d.cmds := rfl
@[simp] theorem Dev.modHealth_power (d : Dev) (f : Health → Health) : (d.modHealth f).power = d.power := rfl
@[simp] theorem Dev.modHealth_aon (d : Dev) (f : Health → Health) : (d.modHealth f).aon = d.aon := rfl
@[simp] theorem Dev.modHealth_tap (d : Dev) (f : Health → Health) : (d.modHealth f).tap = d.tap := rfl

/-! modPage -/

@[simp] theorem Dev.modPage_regs (d : Dev) (p : Nat) (f : PageHdr → PageHdr) : (d.modPage p f).regs = d.regs := rfl
@[simp] theorem Dev.modPage_mirror (d : Dev) (p : Nat) (f : PageHdr → PageHdr) : (d.modPage p f).mirror = d.mirror := rfl
@[simp] theorem Dev.modPage_latchHost (d : Dev) (p : Nat) (f : PageHdr → PageHdr) : (d.modPage p f).latchHost = d.latchHost := rfl
@[simp] theorem Dev.modPage_latchCtrl (d : Dev) (p : Nat) (f : PageHdr → PageHdr) : (d.modPage p f).latchCtrl = d.latchCtrl := rfl
@[simp] theorem Dev.modPage_busHost (d : Dev) (p : Nat) (f : PageHdr → PageHdr) : (d.modPage p f).busHost = d.busHost := rfl
@[simp] theorem Dev.modPage_busCtrl (d : Dev) (p : Nat) (f : PageHdr → PageHdr) : (d.modPage p f).busCtrl = d.busCtrl := rfl
@[simp] theorem Dev.modPage_free (d : Dev) (p : Nat) (f : PageHdr → PageHdr) : (d.modPage p f).free = d.free := rfl
@[simp] theorem Dev.modPage_mem (d : Dev) (p : Nat) (f : PageHdr → PageHdr) : (d.modPage p f).mem = d.mem := rfl
@[simp] theorem Dev.modPage_tags (d : Dev) (p : Nat) (f : PageHdr → PageHdr) : (d.modPage p f).tags = d.tags := rfl
@[simp] theorem Dev.modPage_warm (d : Dev) (p : Nat) (f : PageHdr → PageHdr) : (d.modPage p f).warm = d.warm := rfl
@[simp] theorem Dev.modPage_router (d : Dev) (p : Nat) (f : PageHdr → PageHdr) : (d.modPage p f).router = d.router := rfl
@[simp] theorem Dev.modPage_hops (d : Dev) (p : Nat) (f : PageHdr → PageHdr) : (d.modPage p f).hops = d.hops := rfl
@[simp] theorem Dev.modPage_cores (d : Dev) (p : Nat) (f : PageHdr → PageHdr) : (d.modPage p f).cores = d.cores := rfl
@[simp] theorem Dev.modPage_held (d : Dev) (p : Nat) (f : PageHdr → PageHdr) : (d.modPage p f).held = d.held := rfl
@[simp] theorem Dev.modPage_hearths (d : Dev) (p : Nat) (f : PageHdr → PageHdr) : (d.modPage p f).hearths = d.hearths := rfl
@[simp] theorem Dev.modPage_ctrl (d : Dev) (p : Nat) (f : PageHdr → PageHdr) : (d.modPage p f).ctrl = d.ctrl := rfl
@[simp] theorem Dev.modPage_loader (d : Dev) (p : Nat) (f : PageHdr → PageHdr) : (d.modPage p f).loader = d.loader := rfl
@[simp] theorem Dev.modPage_stoker (d : Dev) (p : Nat) (f : PageHdr → PageHdr) : (d.modPage p f).stoker = d.stoker := rfl
@[simp] theorem Dev.modPage_flash (d : Dev) (p : Nat) (f : PageHdr → PageHdr) : (d.modPage p f).flash = d.flash := rfl
@[simp] theorem Dev.modPage_nand (d : Dev) (p : Nat) (f : PageHdr → PageHdr) : (d.modPage p f).nand = d.nand := rfl
@[simp] theorem Dev.modPage_ports (d : Dev) (p : Nat) (f : PageHdr → PageHdr) : (d.modPage p f).ports = d.ports := rfl
@[simp] theorem Dev.modPage_link (d : Dev) (p : Nat) (f : PageHdr → PageHdr) : (d.modPage p f).link = d.link := rfl
@[simp] theorem Dev.modPage_attn (d : Dev) (p : Nat) (f : PageHdr → PageHdr) : (d.modPage p f).attn = d.attn := rfl
@[simp] theorem Dev.modPage_cmds (d : Dev) (p : Nat) (f : PageHdr → PageHdr) : (d.modPage p f).cmds = d.cmds := rfl
@[simp] theorem Dev.modPage_power (d : Dev) (p : Nat) (f : PageHdr → PageHdr) : (d.modPage p f).power = d.power := rfl
@[simp] theorem Dev.modPage_aon (d : Dev) (p : Nat) (f : PageHdr → PageHdr) : (d.modPage p f).aon = d.aon := rfl
@[simp] theorem Dev.modPage_health (d : Dev) (p : Nat) (f : PageHdr → PageHdr) : (d.modPage p f).health = d.health := rfl
@[simp] theorem Dev.modPage_tap (d : Dev) (p : Nat) (f : PageHdr → PageHdr) : (d.modPage p f).tap = d.tap := rfl

end Sys2Proof.Machine
end

