-- ==== Sys2Proof/Laws/Tab.lean ====
section
/-! SUPPORT. The laws of sparse tables: a read after a write, and the canonical form. -/

namespace Sys2Proof.Machine

variable {α : Type}

@[simp] theorem tabFind_tabSet_same (t : Tab α) (k : Nat) (v : α) : tabFind (tabSet t k v) k = some v := by
  induction t with
  | nil => simp [tabSet, tabFind]
  | cons e t ih =>
    obtain ⟨j, w⟩ := e
    simp only [tabSet]
    split
    · simp [tabFind]
    · split
      · simp [tabFind]
      · next h => simp [tabFind, ih, Ne.symm h]

theorem tabFind_tabSet_ne (t : Tab α) {k j : Nat} (v : α) (h : j ≠ k) : tabFind (tabSet t k v) j = tabFind t j := by
  induction t with
  | nil => simp [tabSet, tabFind, Ne.symm h]
  | cons e t ih =>
    obtain ⟨i, w⟩ := e
    simp only [tabSet]
    split
    · simp [tabFind, Ne.symm h]
    · split
      · next hk => subst hk; simp [tabFind, Ne.symm h]
      · simp [tabFind, ih]

/-- A read after a write. -/
theorem tabFind_tabSet (t : Tab α) (k j : Nat) (v : α) :
    tabFind (tabSet t k v) j = if j = k then some v else tabFind t j := by
  split
  · next h => subst h; simp
  · next h => exact tabFind_tabSet_ne t v h

theorem tabGet_tabSet (d : α) (t : Tab α) (k j : Nat) (v : α) :
    tabGet d (tabSet t k v) j = if j = k then v else tabGet d t j := by
  unfold tabGet; rw [tabFind_tabSet]; split <;> simp

@[simp] theorem tabGet_tabSet_same (d : α) (t : Tab α) (k : Nat) (v : α) : tabGet d (tabSet t k v) k = v := by
  simp [tabGet_tabSet]

theorem tabGet_tabSet_ne (d : α) (t : Tab α) {k j : Nat} (v : α) (h : j ≠ k) :
    tabGet d (tabSet t k v) j = tabGet d t j := by simp [tabGet_tabSet, h]

theorem tabGet_tabMap (d : α) (t : Tab α) (k j : Nat) (f : α → α) :
    tabGet d (tabMap d t k f) j = if j = k then f (tabGet d t k) else tabGet d t j := tabGet_tabSet d t k j _

theorem tabFind_filter (t : Tab α) (p : Nat → Bool) (j : Nat) :
    tabFind (t.filter fun e => p e.1) j = if p j = true then tabFind t j else none := by
  induction t with
  | nil => simp [tabFind]
  | cons e t ih =>
    obtain ⟨i, w⟩ := e
    by_cases hij : i = j
    · subst hij
      by_cases hp : p i = true
      · simp [hp, tabFind]
      · simp [hp, ih]
    · by_cases hp : p i = true
      · simp [hp, tabFind, hij, ih]
      · simp [hp, tabFind, hij, ih]

theorem tabFind_tabDel (t : Tab α) (k j : Nat) : tabFind (tabDel t k) j = if j = k then none else tabFind t j := by
  have := tabFind_filter t (fun i => decide (i ≠ k)) j
  simp only [tabDel]
  rw [this]
  by_cases h : j = k <;> simp [h]

theorem tabFind_tabDelRange (t : Tab α) (lo hi j : Nat) :
    tabFind (tabDelRange t lo hi) j = if lo ≤ j ∧ j < hi then none else tabFind t j := by
  have := tabFind_filter t (fun i => decide (i < lo || hi ≤ i)) j
  simp only [tabDelRange]
  rw [show (fun e : Nat × α => (decide (e.1 < lo) || decide (hi ≤ e.1)))
    = (fun e => decide (decide (e.1 < lo) || decide (hi ≤ e.1) : Bool)) from by funext e; simp, this]
  by_cases h1 : lo ≤ j <;> by_cases h2 : j < hi <;> simp [h1, h2, Nat.not_lt.2, Nat.not_le.2]
  all_goals omega

/-- A read after a write of a table with an unlisted value. -/
theorem tabGet_tabPut [DecidableEq α] (d : α) (t : Tab α) (k j : Nat) (v : α) :
    tabGet d (tabPut d t k v) j = if j = k then v else tabGet d t j := by
  unfold tabPut
  split
  · next h => subst h; unfold tabGet; rw [tabFind_tabDel]; split <;> simp
  · exact tabGet_tabSet d t k j v

/-! The canonical form. -/

theorem tabSorted_mono {t : Tab α} {a b : Nat} (h : tabSorted b t = true) (hab : a ≤ b) : tabSorted a t = true := by
  cases t with
  | nil => rfl
  | cons e t =>
    obtain ⟨j, w⟩ := e
    simp only [tabSorted, Bool.and_eq_true, decide_eq_true_eq] at h ⊢
    exact ⟨by omega, h.2⟩

theorem tabSorted_tabSet {t : Tab α} {b k : Nat} (v : α) (h : tabSorted b t = true) (hb : b ≤ k) :
    tabSorted b (tabSet t k v) = true := by
  induction t generalizing b with
  | nil => simp [tabSet, tabSorted, hb]
  | cons e t ih =>
    obtain ⟨j, w⟩ := e
    simp only [tabSorted, Bool.and_eq_true, decide_eq_true_eq] at h
    simp only [tabSet]
    split
    · next hk => simp only [tabSorted, Bool.and_eq_true, decide_eq_true_eq]; exact ⟨hb, by omega, h.2⟩
    · split
      · next hk => subst hk; simp only [tabSorted, Bool.and_eq_true, decide_eq_true_eq]; exact ⟨hb, h.2⟩
      · simp only [tabSorted, Bool.and_eq_true, decide_eq_true_eq]; exact ⟨h.1, ih h.2 (by omega)⟩

theorem tabSorted_filter {t : Tab α} {b : Nat} (p : Nat × α → Bool) (h : tabSorted b t = true) :
    tabSorted b (t.filter p) = true := by
  induction t generalizing b with
  | nil => rfl
  | cons e t ih =>
    obtain ⟨j, w⟩ := e
    simp only [tabSorted, Bool.and_eq_true, decide_eq_true_eq] at h
    rw [List.filter_cons]
    split
    · simp only [tabSorted, Bool.and_eq_true, decide_eq_true_eq]; exact ⟨h.1, ih h.2⟩
    · exact tabSorted_mono (ih h.2) (by omega)

theorem mem_tabSet {t : Tab α} {k : Nat} {v : α} {e : Nat × α} (h : e ∈ tabSet t k v) : e = (k, v) ∨ e ∈ t := by
  induction t with
  | nil => simpa [tabSet] using h
  | cons x t ih =>
    obtain ⟨j, w⟩ := x
    simp only [tabSet] at h
    split at h
    · rcases List.mem_cons.1 h with h | h
      · exact .inl h
      · exact .inr h
    · split at h
      · rcases List.mem_cons.1 h with h | h
        · exact .inl h
        · exact .inr (List.mem_cons_of_mem _ h)
      · rcases List.mem_cons.1 h with h | h
        · exact .inr (by simp [h])
        · rcases ih h with h | h
          · exact .inl h
          · exact .inr (List.mem_cons_of_mem _ h)

/-- A write keeps the canonical form. -/
theorem tabWf_tabPut [DecidableEq α] {d : α} {t : Tab α} (k : Nat) (v : α) (h : tabWf d t = true) :
    tabWf d (tabPut d t k v) = true := by
  simp only [tabWf, Bool.and_eq_true, List.all_eq_true, decide_eq_true_eq] at h ⊢
  unfold tabPut
  split
  · exact ⟨tabSorted_filter _ h.1, fun e he => h.2 e (List.mem_filter.1 he).1⟩
  · next hv =>
    refine ⟨tabSorted_tabSet v h.1 (Nat.zero_le _), fun e he => ?_⟩
    rcases mem_tabSet he with rfl | he
    · exact hv
    · exact h.2 e he

/-- Removing entries keeps the canonical form. -/
theorem tabWf_filter [DecidableEq α] {d : α} {t : Tab α} (p : Nat × α → Bool) (h : tabWf d t = true) :
    tabWf d (t.filter p) = true := by
  simp only [tabWf, Bool.and_eq_true, List.all_eq_true, decide_eq_true_eq] at h ⊢
  exact ⟨tabSorted_filter _ h.1, fun e he => h.2 e (List.mem_filter.1 he).1⟩

theorem tabWf_tabDelRange [DecidableEq α] {d : α} {t : Tab α} (lo hi : Nat) (h : tabWf d t = true) :
    tabWf d (tabDelRange t lo hi) = true := tabWf_filter _ h

/-- Listing a key twice. -/
theorem tabSet_tabSet (t : Tab α) (k : Nat) (v w : α) : tabSet (tabSet t k v) k w = tabSet t k w := by
  induction t with
  | nil => simp [tabSet]
  | cons e t ih =>
    obtain ⟨j, x⟩ := e
    simp only [tabSet]
    by_cases h1 : k < j
    · simp [h1, tabSet]
    · by_cases h2 : k = j
      · simp [h2, tabSet]
      · simp [h1, h2, tabSet, ih]

theorem mem_setInsert (l : List Nat) (k n : Nat) : n ∈ setInsert l k ↔ n = k ∨ n ∈ l := by
  induction l with
  | nil => simp [setInsert]
  | cons j t ih =>
    simp only [setInsert]
    split
    · simp
    · split
      · next h => subst h; simp
      · simp only [List.mem_cons, ih]; exact or_left_comm

theorem mem_setErase (l : List Nat) (k n : Nat) : n ∈ setErase l k ↔ n ∈ l ∧ n ≠ k := by simp [setErase]

end Sys2Proof.Machine
end

