-- ==== Sys2Proof/Laws/Events.lean ====
section
/-! SUPPORT. What an event can do: `Calm` says once all that the firing of sources and the raising of page events leave
as it was. -/

namespace Sys2Proof.Machine

/-! Registers after a write. -/

theorem Dev.regGet_regSet (d : Dev) (k j : Nat) (v : DW) :
    (d.regSet k v).regGet j = if j = k then v else d.regGet j := by
  simp only [Dev.regGet, Dev.regSet, tabFind_tabSet]; split <;> simp

@[simp] theorem Dev.regGet_regSet_same (d : Dev) (k : Nat) (v : DW) : (d.regSet k v).regGet k = v := by
  simp [Dev.regGet_regSet]

theorem Dev.regGet_regSet_ne (d : Dev) {k j : Nat} (v : DW) (h : j ≠ k) : (d.regSet k v).regGet j = d.regGet j := by
  simp [Dev.regGet_regSet, h]

theorem Dev.regGet_putAt_ne (d : Dev) (f : RegFld) (i j v : Nat) {k : Nat} (h : k ≠ f.key i j) :
    (d.putAt f i j v).regGet k = d.regGet k := Dev.regGet_regSet_ne d _ h

theorem Dev.regGet_put_ne (d : Dev) (f : RegFld) (v : Nat) {k : Nat} (h : k ≠ f.key 0 0) :
    (d.put f v).regGet k = d.regGet k := Dev.regGet_regSet_ne d _ h

theorem Dev.regGet_of_regs {d e : Dev} (h : e.regs = d.regs) (k : Nat) : e.regGet k = d.regGet k := by
  simp [Dev.regGet, h]

theorem Dev.page_same {d e : Dev} (h : e.pages = d.pages) (p : Nat) :
    e.page p = { d.page p with event := (d.page p).event ||| (e.page p).event } := by
  have : e.page p = d.page p := by unfold Dev.page; rw [h]
  rw [this]; simp

theorem Dev.pendP_same {d e : Dev} (h : e.router.pendP = d.router.pendP) (t : Nat) :
    tabGet 0#32 e.router.pendP t = tabGet 0#32 d.router.pendP t ||| tabGet 0#32 e.router.pendP t := by rw [h]; simp

theorem Dev.Calm.refl (d : Dev) : d.Calm d := by
  constructor
  case page => intro p; simp
  case pendP => intro t; simp
  case pendS => exact fun _ h => h
  all_goals intros; first | rfl | exact Nat.le_refl _ | assumption

theorem Dev.Calm.trans {d e f : Dev} (h : d.Calm e) (g : e.Calm f) : d.Calm f where
  mirror := g.mirror.trans h.mirror
  latchHost := g.latchHost.trans h.latchHost
  latchCtrl := g.latchCtrl.trans h.latchCtrl
  busHost := g.busHost.trans h.busHost
  busCtrl := g.busCtrl.trans h.busCtrl
  free := g.free.trans h.free
  mem := g.mem.trans h.mem
  tags := g.tags.trans h.tags
  warm := g.warm.trans h.warm
  hops := g.hops.trans h.hops
  cores := g.cores.trans h.cores
  held := g.held.trans h.held
  hearths := g.hearths.trans h.hearths
  ctrl := g.ctrl.trans h.ctrl
  loader := g.loader.trans h.loader
  stoker := g.stoker.trans h.stoker
  flash := g.flash.trans h.flash
  nand := g.nand.trans h.nand
  ports := g.ports.trans h.ports
  link := g.link.trans h.link
  attn := g.attn.trans h.attn
  cmds := g.cmds.trans h.cmds
  health := g.health.trans h.health
  tap := g.tap.trans h.tap
  dom := g.dom.trans h.dom
  on := fun n => (g.on n).trans (h.on n)
  reg := fun k hk => (g.reg k hk).trans (h.reg k hk)
  runStacks := g.runStacks.trans h.runStacks
  windows := g.windows.trans h.windows
  aon := by rw [g.aon, h.aon]
  page := fun p => by rw [g.page p, h.page p]; simp [← BitVec.or_assoc]
  pendP := fun t => by rw [g.pendP t, h.pendP t]; simp [← BitVec.or_assoc]
  pendS := fun n hn => g.pendS n (h.pendS n hn)
  awaiting := fun n hn => g.awaiting n (h.awaiting n hn)
  queued := fun n => Nat.le_trans (h.queued n) (g.queued n)
  power := by rw [g.power, h.power]

theorem Dev.isOn_of {d e : Dev} (h : e.power.dom = d.power.dom) (g : e.power.entry = d.power.entry) (n : Nat) :
    e.isOn n = d.isOn n := by
  unfold Dev.isOn Dev.domSt Power.isolated; rw [h, g]

theorem Dev.calm_put (d : Dev) (f : RegFld) (i j v : Nat) (hf : evKey (f.key i j) = true) : d.Calm (d.putAt f i j v) := by
  constructor
  case page => exact Dev.page_same rfl
  case pendP => exact Dev.pendP_same rfl
  case pendS => exact fun _ h => h
  case reg =>
    intro k hk
    refine Dev.regGet_putAt_ne d f i j v ?_
    rintro rfl
    simp [hf] at hk
  all_goals intros; first | rfl | exact Nat.le_refl _ | assumption

theorem Dev.page_modPage (d : Dev) (p q : Nat) (f : PageHdr → PageHdr) :
    (d.modPage p f).page q = if q = p then f (d.page p) else d.page q := tabGet_tabMap ..

/-- Event bits of a page become set. -/
theorem Dev.calm_setEvent (d : Dev) (p : Nat) (m : DW) :
    d.Calm (d.modPage p fun _ => { d.page p with event := (d.page p).event ||| m }) := by
  constructor
  case page =>
    intro q
    rw [Dev.page_modPage]
    split
    · next h => subst h; simp [← BitVec.or_assoc]
    · simp
  case pendP => exact Dev.pendP_same rfl
  case pendS => exact fun _ h => h
  all_goals intros; first | rfl | exact Nat.le_refl _ | assumption

theorem Dev.calm_stamp (d : Dev) (v : Count48) : d.Calm (d.modAon fun a => { a with wakeStamp := v }) := by
  constructor
  case page => exact Dev.page_same rfl
  case pendP => exact Dev.pendP_same rfl
  case pendS => exact fun _ h => h
  all_goals intros; first | rfl | exact Nat.le_refl _ | assumption

theorem Dev.calm_pend (d : Dev) (n : Nat) : d.Calm (d.pendShared n) := by
  constructor
  case page => exact Dev.page_same rfl
  case pendP => exact Dev.pendP_same rfl
  case pendS => exact fun m h => (mem_setInsert _ _ _).2 (.inr h)
  all_goals intros; first | rfl | exact Nat.le_refl _ | assumption

theorem Dev.calm_recordWake (d : Dev) (source level set : Nat) (many during : Bool) (doms : List Nat) :
    d.Calm (d.recordWake source level set many during doms) := by
  unfold Dev.recordWake
  split
  · exact Dev.calm_put _ _ _ _ _ (by decide)
  · refine Dev.Calm.trans ?_ (Dev.calm_stamp _ _)
    refine Dev.Calm.trans ?_ (Dev.calm_put _ _ _ _ _ (by decide))
    refine Dev.Calm.trans ?_ (Dev.calm_put _ _ _ _ _ (by decide))
    refine Dev.Calm.trans ?_ (Dev.calm_put _ _ _ _ _ (by decide))
    refine Dev.Calm.trans ?_ (Dev.calm_put _ _ _ _ _ (by decide))
    refine Dev.Calm.trans ?_ (Dev.calm_put _ _ _ _ _ (by decide))
    refine Dev.Calm.trans ?_ (Dev.calm_put _ _ _ _ _ (by decide))
    refine Dev.Calm.trans ?_ (Dev.calm_put _ _ _ _ _ (by decide))
    refine Dev.Calm.trans ?_ (Dev.calm_put _ _ _ _ _ (by decide))
    exact Dev.calm_put _ _ _ _ _ (by decide)

/-- A change of the exit alone. -/
theorem Dev.calm_exit (d : Dev) (x : Option ExitRec) : d.Calm (d.modPower fun p => { p with exit := x }) := by
  constructor
  case page => exact Dev.page_same rfl
  case pendP => exact Dev.pendP_same rfl
  case pendS => exact fun _ h => h
  all_goals intros; first | rfl | exact Nat.le_refl _ | assumption

/-- A change of the domains that wait for an exit alone. -/
theorem Dev.calm_queued (d : Dev) (l : List Nat) : d.Calm (d.modPower fun p => { p with queued := setUnion p.queued l }) := by
  constructor
  case page => exact Dev.page_same rfl
  case pendP => exact Dev.pendP_same rfl
  case pendS => exact fun _ h => h
  all_goals intros; first | rfl | exact Nat.le_refl _ | assumption

theorem Dev.calm_startExit (d : Dev) (l : List Nat) (r w : Bool) : d.Calm (d.startExit l r w) := by
  unfold Dev.startExit
  refine (Dev.calm_put d Reg.CLOCKS.STATUS.PILOT_RUN 0 0 1 (by decide)).trans ?_
  constructor
  case page => exact Dev.page_same rfl
  case pendP => exact Dev.pendP_same rfl
  case pendS => exact fun _ h => h
  case dom => unfold Dev.modPower; dsimp only; split <;> rfl
  case power => unfold Dev.modPower; dsimp only; split <;> rfl
  case on =>
    intro n
    refine Dev.isOn_of ?_ ?_ n <;> (unfold Dev.modPower; dsimp only; split <;> rfl)
  all_goals intros; first | rfl | exact Nat.le_refl _ | assumption

theorem Dev.calm_wakeFire (d : Dev) (source level set : Nat) (many : Bool) (doms : List Nat) :
    d.Calm (d.wakeFire source level set many doms) := by
  unfold Dev.wakeFire
  split
  · dsimp only
    split
    · exact Dev.Calm.refl d
    · split
      · split
        · exact Dev.calm_recordWake ..
        · exact (Dev.calm_recordWake ..).trans (Dev.calm_startExit ..)
      · exact (Dev.calm_recordWake ..).trans (Dev.calm_startExit ..)
  · next e he =>
    dsimp only
    split
    · split
      · refine (Dev.calm_recordWake d source level set many true (setUnion (setUnion [] (e.doms.map (·.1))) e.lower)).trans ?_
        have hp (l : List Nat) : (d.recordWake source level set many true l).power = d.power := by
          unfold Dev.recordWake; split <;> rfl
        constructor
        case page => exact Dev.page_same rfl
        case pendP => exact Dev.pendP_same rfl
        case pendS => exact fun _ h => h
        case on =>
          intro n
          unfold Dev.modPower Dev.isOn Dev.domSt Power.isolated
          dsimp only
          rw [hp, he]
        all_goals intros; first | rfl | exact Nat.le_refl _ | assumption
      · exact (Dev.calm_recordWake ..).trans (Dev.calm_queued ..)
    · split
      · exact Dev.Calm.refl d
      · exact (Dev.calm_recordWake ..).trans (Dev.calm_startExit ..)

theorem Dev.calm_pulseLost (d : Dev) (g : Nat) : d.Calm (d.pulseLost g).1 := by
  have h : d.Calm (d.setGroup Reg.CLOCKS.XLOST.GROUP g) := Dev.calm_put _ _ _ _ _ (by decide)
  unfold Dev.pulseLost
  dsimp only
  split
  · exact h.trans (Dev.calm_put _ _ _ _ _ (by decide))
  · split
    · exact h
    · exact h.trans (Dev.calm_put _ _ _ _ _ (by decide))

/-- A change of the crossings that only adds to them. -/
theorem Dev.calm_crossing (d : Dev) (a : List Nat) (q : Tab Nat) (ha : ∀ n, n ∈ d.router.awaiting → n ∈ a)
    (hq : ∀ n, tabGet 0 d.router.queued n ≤ tabGet 0 q n) :
    d.Calm (d.modRouter fun r => { r with awaiting := a, queued := q }) := by
  constructor
  case page => exact Dev.page_same rfl
  case pendP => exact Dev.pendP_same rfl
  case awaiting => exact ha
  case queued => exact hq
  all_goals intros; first | rfl | assumption

theorem Dev.calm_pulse (d : Dev) (n : Nat) : d.Calm (d.pulse n).1 := by
  unfold Dev.pulse
  split
  · exact Dev.Calm.refl d
  · split
    · exact Dev.calm_crossing _ _ _ (fun m h => (mem_setInsert _ _ _).2 (.inr h)) fun _ => Nat.le_refl _
    · split
      · refine Dev.calm_crossing _ _ _ (fun _ h => h) fun m => ?_
        rw [tabGet_tabMap]
        split
        · next h => subst h; exact Nat.le_succ _
        · exact Nat.le_refl _
      · exact Dev.calm_pulseLost ..

theorem Dev.calm_present (d : Dev) (n : Nat) : d.Calm (d.present n).1 := by
  unfold Dev.present
  dsimp only
  split
  · exact Dev.Calm.refl d
  · dsimp only
    split
    · split
      · exact Dev.calm_wakeFire ..
      · exact Dev.Calm.refl d
    · exact Dev.Calm.refl d

theorem Dev.calm_work (d : Dev) (w : Work) : d.Calm (d.work w).1 := by
  unfold Dev.work
  split
  · exact Dev.calm_setEvent ..
  · exact Dev.calm_pulse ..
  · split
    · exact (Dev.calm_pend ..).trans (Dev.calm_present ..)
    · exact Dev.Calm.refl d

theorem Dev.calm_works (n : Nat) (l : List Work) (d : Dev) : d.Calm (Dev.works n l d) := by
  induction n generalizing l d with
  | zero => exact Dev.Calm.refl d
  | succ n ih =>
    cases l with
    | nil => exact Dev.Calm.refl d
    | cons w l => exact (Dev.calm_work d w).trans (ih ..)

theorem Dev.calm_raiseMask (d : Dev) (p m : Nat) : d.Calm (d.raiseMask p m) := Dev.calm_works ..
theorem Dev.calm_raise (d : Dev) (p b : Nat) : d.Calm (d.raise p b) := Dev.calm_works ..
theorem Dev.calm_fireShared (d : Dev) (n : Nat) : d.Calm (d.fireShared n) := Dev.calm_works ..
theorem Dev.calm_pulseShared (d : Dev) (n : Nat) : d.Calm (d.pulseShared n) := Dev.calm_works ..

/-- A private source becomes pending. -/
theorem Dev.calm_pendPriv (d : Dev) (t : Nat) (m : BitVec 32) :
    d.Calm (d.modRouter fun r =>
      { r with pendP := tabMap 0#32 r.pendP t (· ||| m), replayP := tabMap 0#32 r.replayP t (· ||| m) }) := by
  constructor
  case page => exact Dev.page_same rfl
  case pendP =>
    intro u
    unfold Dev.modRouter
    dsimp only
    rw [tabGet_tabMap]
    split
    · next h => subst h; simp [← BitVec.or_assoc]
    · simp
  case pendS => exact fun _ h => h
  all_goals intros; first | rfl | exact Nat.le_refl _ | assumption

theorem Dev.calm_firePriv (d : Dev) (t s : Nat) : d.Calm (d.firePriv t s) := by
  unfold Dev.firePriv
  split
  · dsimp only
    split
    · exact (Dev.calm_pendPriv ..).trans (Dev.calm_raise ..)
    · exact Dev.calm_pendPriv ..
  · exact Dev.Calm.refl d

/-! What raising an event sets. -/

/-- The event bits of a mask become set. -/
theorem Dev.raiseMask_event (d : Dev) (p m b : Nat) (h : (BitVec.ofNat 28 m).getLsbD b = true) :
    ((d.raiseMask p m).page p).event.getLsbD b = true := by
  unfold Dev.raiseMask Dev.works
  have hc := Dev.calm_works 63 ([] ++ (d.work (.ev p m)).2) (d.work (.ev p m)).1
  rw [hc.page p]
  simp only [BitVec.getLsbD_or, Bool.or_eq_true]
  left
  simp [Dev.work, Dev.page_modPage, BitVec.getLsbD_or, h]

theorem Dev.raise_event (d : Dev) (p b : Nat) (h : b < 28) : ((d.raise p b).page p).event.getLsbD b = true := by
  refine Dev.raiseMask_event d p (2 ^ b) b ?_
  simp only [BitVec.getLsbD_ofNat, h, decide_true, Bool.true_and, Nat.testBit_two_pow_self]

/-- A firing makes its source pending while the router is ON. -/
theorem Dev.fireShared_pend (d : Dev) (n : Nat) (h : d.isOn domRouter = true) : n ∈ (d.fireShared n).router.pendS := by
  have key : ∀ (k : Nat) (ws : List Work), n ∈ (Dev.works (k + 1) (.fire n :: ws) d).router.pendS := by
    intro k ws
    unfold Dev.works
    refine (Dev.calm_works k _ _).pendS n ?_
    simp only [Dev.work, h, if_true]
    exact (Dev.calm_present ..).pendS n ((mem_setInsert _ _ _).2 (.inl rfl))
  exact key 63 _

theorem Dev.firePriv_pend (d : Dev) (t s : Nat) (h : d.isOn domRouter = true) (hs : s < 32) :
    (tabGet 0#32 (d.firePriv t s).router.pendP t).getLsbD s = true := by
  have key : (tabGet 0#32 (d.modRouter fun r =>
      { r with pendP := tabMap 0#32 r.pendP t (· ||| (1#32 <<< s))
               replayP := tabMap 0#32 r.replayP t (· ||| (1#32 <<< s)) }).router.pendP t).getLsbD s = true := by
    unfold Dev.modRouter
    dsimp only
    rw [tabGet_tabMap, if_pos rfl]
    simp [hs]
  unfold Dev.firePriv
  rw [if_pos h]
  dsimp only
  split
  · rw [(Dev.calm_raise _ _ _).pendP]; simp only [BitVec.getLsbD_or, key, Bool.true_or]
  · exact key

end Sys2Proof.Machine
end

