-- ==== Sys2Proof/Laws/Settle.lean ====
section
/-! SUPPORT. What follows every command (`Dev.settle`): all that it leaves as it was, said once. -/

namespace Sys2Proof.Machine

theorem Dev.Quiet.refl (d : Dev) : d.Quiet d := by
  constructor
  case page => intro p; simp
  case pendP => intro t; simp
  case pendS => exact fun _ h => h
  all_goals intros; first | rfl | exact Nat.le_refl _ | assumption | exact .inl rfl

theorem Dev.Quiet.trans {d e f : Dev} (h : d.Quiet e) (g : e.Quiet f) : d.Quiet f where
  mirror := g.mirror.trans h.mirror
  latchHost := g.latchHost.trans h.latchHost
  latchCtrl := g.latchCtrl.trans h.latchCtrl
  busHost := g.busHost.trans h.busHost
  busCtrl := g.busCtrl.trans h.busCtrl
  free := g.free.trans h.free
  mem := g.mem.trans h.mem
  tags := g.tags.trans h.tags
  warm := g.warm.trans h.warm
  hop := fun n h4 h5 => by rw [g.hop n h4 h5, h.hop n h4 h5]
  core := fun n => by rw [g.core n, h.core n]
  run := fun n => by
    rcases h.run n with a | ⟨a, b⟩ <;> rcases g.run n with x | ⟨x, y⟩
    · exact .inl (x.trans a)
    · exact .inr ⟨a ▸ x, y⟩
    · exact .inr ⟨a, x.trans b⟩
    · rw [b] at x; cases x
  held := g.held.trans h.held
  hearths := g.hearths.trans h.hearths
  ctrl := by rw [g.ctrl, h.ctrl]
  loader := g.loader.trans h.loader
  stoker := g.stoker.trans h.stoker
  flash := g.flash.trans h.flash
  nand := g.nand.trans h.nand
  ports := g.ports.trans h.ports
  link := by rw [g.link, h.link]
  cmds := g.cmds.trans h.cmds
  health := g.health.trans h.health
  tap := g.tap.trans h.tap
  dom := g.dom.trans h.dom
  on := fun n => (g.on n).trans (h.on n)
  reg := fun k hk => (g.reg k hk).trans (h.reg k hk)
  runStacks := g.runStacks.trans h.runStacks
  windows := g.windows.trans h.windows
  aon := by rw [g.aon, h.aon]
  page := fun p => by rw [g.page p, h.page p]; simp [← BitVec.or_assoc]
  pendP := fun t => by rw [g.pendP t, h.pendP t]; simp [← BitVec.or_assoc]
  pendS := fun n hn => g.pendS n (h.pendS n hn)
  awaiting := fun n hn => g.awaiting n (h.awaiting n hn)
  queued := fun n => Nat.le_trans (h.queued n) (g.queued n)
  power := by rw [g.power, h.power]

theorem settleKey_ev {k : Nat} (h : settleKey k = false) : evKey k = false := by
  simp only [settleKey, Bool.or_eq_false_iff] at h; exact h.1

theorem Dev.Calm.quiet {d e : Dev} (h : d.Calm e) : d.Quiet e where
  mirror := h.mirror
  latchHost := h.latchHost
  latchCtrl := h.latchCtrl
  busHost := h.busHost
  busCtrl := h.busCtrl
  free := h.free
  mem := h.mem
  tags := h.tags
  warm := h.warm
  hop := fun n _ _ => by unfold Dev.hop; rw [h.hops]
  core := fun n => by unfold Dev.core; rw [h.cores]
  run := fun n => .inl (by unfold Dev.core; rw [h.cores])
  held := h.held
  hearths := h.hearths
  ctrl := by rw [h.ctrl]
  loader := h.loader
  stoker := h.stoker
  flash := h.flash
  nand := h.nand
  ports := h.ports
  link := by rw [h.link]
  cmds := h.cmds
  health := h.health
  tap := h.tap
  dom := h.dom
  on := h.on
  reg := fun k hk => h.reg k (settleKey_ev hk)
  runStacks := h.runStacks
  windows := h.windows
  aon := h.aon
  page := h.page
  pendP := h.pendP
  pendS := h.pendS
  awaiting := h.awaiting
  queued := h.queued
  power := h.power

theorem Dev.quiet_raise (d : Dev) (p b : Nat) : d.Quiet (d.raise p b) := (Dev.calm_raise d p b).quiet

theorem Dev.hop_modHop (d : Dev) (n m : Nat) (f : Hopper → Hopper) :
    (d.modHop n f).hop m = if m = n then f (d.hop n) else d.hop m := tabGet_tabMap ..

/-- A change of HOP4 or HOP5. -/
theorem Dev.quiet_modHop (d : Dev) (n : Nat) (f : Hopper → Hopper) (hn : n = 4 ∨ n = 5) : d.Quiet (d.modHop n f) := by
  constructor
  case page => exact Dev.page_same rfl
  case pendP => exact Dev.pendP_same rfl
  case pendS => exact fun _ h => h
  case hop => intro m h4 h5; rw [Dev.hop_modHop]; rw [if_neg (by omega)]
  all_goals intros; first | rfl | exact Nat.le_refl _ | assumption | exact .inl rfl

/-- A change of a hopper's due credit. -/
theorem Dev.quiet_creditDue (d : Dev) (n : Nat) (b : Bool) : d.Quiet (d.modHop n fun h => { h with creditDue := b }) := by
  constructor
  case page => exact Dev.page_same rfl
  case pendP => exact Dev.pendP_same rfl
  case pendS => exact fun _ h => h
  case hop =>
    intro m h4 h5; rw [Dev.hop_modHop]
    split
    · next h => subst h; rfl
    · rfl
  all_goals intros; first | rfl | exact Nat.le_refl _ | assumption | exact .inl rfl

theorem Dev.quiet_putAt (d : Dev) (f : RegFld) (i j v : Nat) (hf : settleKey (f.key i j) = true) :
    d.Quiet (d.putAt f i j v) := by
  constructor
  case page => exact Dev.page_same rfl
  case pendP => exact Dev.pendP_same rfl
  case pendS => exact fun _ h => h
  case reg =>
    intro k hk
    refine Dev.regGet_putAt_ne d f i j v ?_
    rintro rfl
    simp [hf] at hk
  all_goals intros; first | rfl | exact Nat.le_refl _ | assumption | exact .inl rfl

theorem Dev.quiet_countS (d : Dev) (c o : RegFld) (i j : Nat) (hc : settleKey (c.key i j) = true)
    (ho : settleKey (o.key i j) = true) : d.Quiet (d.countS c o i j) := by
  unfold Dev.countS
  dsimp only
  split
  · exact Dev.quiet_putAt _ _ _ _ _ hc
  · split
    · exact Dev.Quiet.refl d
    · split
      · exact (Dev.quiet_putAt _ _ _ _ _ ho).trans (Dev.quiet_raise ..)
      · exact Dev.quiet_putAt _ _ _ _ _ ho

theorem Dev.quiet_countProto (d : Dev) (n r p : Nat) (hn : n = 4 ∨ n = 5) : d.Quiet (d.countProto n r p) := by
  unfold Dev.countProto
  dsimp only
  rcases hn with rfl | rfl
  all_goals
    refine Dev.Quiet.trans ?_ (Dev.quiet_raise ..)
    refine Dev.Quiet.trans ?_ (Dev.quiet_putAt _ _ _ _ _ (by decide))
    refine Dev.Quiet.trans ?_ (Dev.quiet_putAt _ _ _ _ _ (by decide))
    refine Dev.Quiet.trans ?_ (Dev.quiet_putAt _ _ _ _ _ (by decide))
    exact Dev.quiet_countS _ _ _ _ _ (by decide) (by decide)

theorem Dev.quiet_levelCheck (d : Dev) (n was : Nat) : d.Quiet (d.levelCheck n was) := by
  unfold Dev.levelCheck
  dsimp only
  split
  · split
    · exact (Dev.quiet_raise ..).trans (Dev.calm_firePriv ..).quiet
    · exact Dev.quiet_raise ..
  · exact Dev.Quiet.refl d

theorem Dev.quiet_hopBeat (d : Dev) (n : Nat) (f : Dev → Dev) (hf : d.Quiet (f d)) : d.Quiet (d.hopBeat n f) := by
  unfold Dev.hopBeat
  dsimp only
  refine Dev.Quiet.trans (hf.trans ?_) (Dev.quiet_levelCheck ..)
  split
  · split
    · exact Dev.quiet_creditDue ..
    · exact Dev.Quiet.refl _
  · exact Dev.Quiet.refl _

theorem Dev.quiet_hopPush (d : Dev) (n p : Nat) (v : DW) (hn : n = 4 ∨ n = 5) : d.Quiet (d.hopPush n p v) := by
  unfold Dev.hopPush
  refine Dev.quiet_hopBeat _ _ _ ?_
  dsimp only
  split
  · exact Dev.quiet_modHop _ _ _ hn
  · split
    · exact (Dev.quiet_modHop _ _ _ hn).trans (Dev.quiet_countProto _ _ _ _ hn)
    · split
      · exact (Dev.quiet_modHop _ _ _ hn).trans (Dev.quiet_countProto _ _ _ _ hn)
      · split
        · exact (Dev.quiet_modHop _ _ _ hn).trans (Dev.quiet_countProto _ _ _ _ hn)
        · exact Dev.quiet_modHop _ _ _ hn

theorem Dev.quiet_hopPushAll (d : Dev) (n p : Nat) (ws : List DW) (hn : n = 4 ∨ n = 5) :
    d.Quiet (d.hopPushAll n p ws) := by
  unfold Dev.hopPushAll
  induction ws generalizing d with
  | nil => exact Dev.Quiet.refl d
  | cons w ws ih => exact (Dev.quiet_hopPush d n p w hn).trans (ih _)

theorem Dev.quiet_tryPush (d : Dev) (h : DoneHop) (ws : List DW) {e : Dev} (he : d.tryPush h ws = some e) : d.Quiet e := by
  unfold Dev.tryPush at he
  dsimp only at he
  split at he
  · split at he
    · cases he; exact Dev.quiet_hopPushAll _ _ _ _ (by cases h <;> simp [doneNum])
    · cases he
  · cases he

theorem Dev.quiet_doneQ (d : Dev) (q : List (DoneHop × List DW)) : d.Quiet { d with ctrl := { d.ctrl with doneQ := q } } := by
  constructor
  case page => exact Dev.page_same rfl
  case pendP => exact Dev.pendP_same rfl
  case pendS => exact fun _ h => h
  all_goals intros; first | rfl | exact Nat.le_refl _ | assumption | exact .inl rfl

theorem Dev.quiet_drainDone (n : Nat) (d : Dev) : d.Quiet (Dev.drainDone n d) := by
  induction n generalizing d with
  | zero => exact Dev.Quiet.refl d
  | succ n ih =>
    unfold Dev.drainDone
    split
    · exact Dev.Quiet.refl d
    · split
      · next h => exact (Dev.quiet_tryPush _ _ _ h).trans ((Dev.quiet_doneQ _ _).trans (ih _))
      · exact Dev.Quiet.refl d

theorem Dev.quiet_pushDone (d : Dev) (n : DoneHop) (ws : List DW) : d.Quiet (d.pushDone n ws) := by
  unfold Dev.pushDone
  split
  · exact (Dev.quiet_doneQ _ _).trans (Dev.quiet_drainDone _ _)
  · exact Dev.Quiet.refl d

theorem Dev.quiet_send (d : Dev) (p : Packet) : d.Quiet (d.send p) := by
  constructor
  case page => exact Dev.page_same rfl
  case pendP => exact Dev.pendP_same rfl
  case pendS => exact fun _ h => h
  all_goals intros; first | rfl | exact Nat.le_refl _ | assumption | exact .inl rfl

theorem Dev.quiet_sendCredit (d : Dev) (n : Nat) : d.Quiet (d.sendCredit n) := by
  unfold Dev.sendCredit
  split
  · exact Dev.Quiet.refl d
  · exact Dev.quiet_send ..

theorem Dev.quiet_each (d : Dev) (l : List Nat) (f : Dev → Nat → Dev) (h : ∀ (e : Dev) (n : Nat), e.Quiet (f e n)) :
    d.Quiet (d.each l f) := by
  unfold Dev.each
  induction l generalizing d with
  | nil => exact Dev.Quiet.refl d
  | cons n l ih => exact (h d n).trans (ih _)

theorem Dev.quiet_flushCredits (d : Dev) : d.Quiet d.flushCredits := by
  unfold Dev.flushCredits
  split
  · refine Dev.quiet_each _ _ _ fun e n => ?_
    split
    · exact (Dev.quiet_sendCredit ..).trans (Dev.quiet_creditDue ..)
    · exact Dev.Quiet.refl e
  · exact Dev.Quiet.refl d

theorem Dev.quiet_attn (d : Dev) (a : Attn) : d.Quiet { d with attn := a } := by
  constructor
  case page => exact Dev.page_same rfl
  case pendP => exact Dev.pendP_same rfl
  case pendS => exact fun _ h => h
  all_goals intros; first | rfl | exact Nat.le_refl _ | assumption | exact .inl rfl

theorem Dev.quiet_attnSettle (d : Dev) : d.Quiet d.attnSettle := by
  unfold Dev.attnSettle
  split
  · exact Dev.quiet_attn ..
  · split
    · exact Dev.quiet_attn ..
    · split
      · exact Dev.Quiet.refl d
      · dsimp only
        split
        · exact ((Dev.quiet_attn ..).trans (Dev.quiet_raise ..)).trans (Dev.quiet_send ..)
        · exact (Dev.quiet_attn ..).trans (Dev.quiet_raise ..)

/-- A core that sleeps wakes. -/
theorem Dev.quiet_wakes (d : Dev) (n : Nat) (h : (d.core n).run = .asleep) :
    d.Quiet (d.modCore n fun c => { c with run := .running }) := by
  have hc (m : Nat) : (d.modCore n fun c => { c with run := .running }).core m =
      if m = n then { d.core n with run := .running } else d.core m := tabGet_tabSet ..
  constructor
  case page => exact Dev.page_same rfl
  case pendP => exact Dev.pendP_same rfl
  case pendS => exact fun _ h => h
  case core => intro m; rw [hc]; split; (next e => subst e; rfl); rfl
  case run => intro m; rw [hc]; split; (next e => subst e; exact .inr ⟨h, rfl⟩); exact .inl rfl
  all_goals intros; first | rfl | exact Nat.le_refl _ | assumption

theorem Dev.quiet_rouse (d : Dev) (n : Nat) : d.Quiet (d.rouse n) := by
  unfold Dev.rouse
  split
  · next h =>
    simp only [Bool.and_eq_true, decide_eq_true_eq] at h
    exact Dev.quiet_wakes d n h.1
  · exact Dev.Quiet.refl d

theorem Dev.quiet_rouseAll (d : Dev) : d.Quiet d.rouseAll := by
  unfold Dev.rouseAll
  generalize d.sleepers = l
  induction l generalizing d with
  | nil => exact Dev.Quiet.refl d
  | cons n l ih => exact (Dev.quiet_rouse d n).trans (ih _)

/-- All that settling leaves as it was. -/
theorem Dev.quiet_settle (d : Dev) : d.Quiet d.settle :=
  (((Dev.quiet_drainDone _ _).trans (Dev.quiet_flushCredits _)).trans (Dev.quiet_attnSettle _)).trans
    (Dev.quiet_rouseAll _)

/-! The fields, for rewriting. -/

@[simp] theorem Dev.settle_mirror (d : Dev) : d.settle.mirror = d.mirror := d.quiet_settle.mirror
@[simp] theorem Dev.settle_latchHost (d : Dev) : d.settle.latchHost = d.latchHost := d.quiet_settle.latchHost
@[simp] theorem Dev.settle_latchCtrl (d : Dev) : d.settle.latchCtrl = d.latchCtrl := d.quiet_settle.latchCtrl
@[simp] theorem Dev.settle_busHost (d : Dev) : d.settle.busHost = d.busHost := d.quiet_settle.busHost
@[simp] theorem Dev.settle_busCtrl (d : Dev) : d.settle.busCtrl = d.busCtrl := d.quiet_settle.busCtrl
@[simp] theorem Dev.settle_free (d : Dev) : d.settle.free = d.free := d.quiet_settle.free
@[simp] theorem Dev.settle_mem (d : Dev) : d.settle.mem = d.mem := d.quiet_settle.mem
@[simp] theorem Dev.settle_tags (d : Dev) : d.settle.tags = d.tags := d.quiet_settle.tags
@[simp] theorem Dev.settle_warm (d : Dev) : d.settle.warm = d.warm := d.quiet_settle.warm
@[simp] theorem Dev.settle_held (d : Dev) : d.settle.held = d.held := d.quiet_settle.held
@[simp] theorem Dev.settle_hearths (d : Dev) : d.settle.hearths = d.hearths := d.quiet_settle.hearths
@[simp] theorem Dev.settle_loader (d : Dev) : d.settle.loader = d.loader := d.quiet_settle.loader
@[simp] theorem Dev.settle_stoker (d : Dev) : d.settle.stoker = d.stoker := d.quiet_settle.stoker
@[simp] theorem Dev.settle_flash (d : Dev) : d.settle.flash = d.flash := d.quiet_settle.flash
@[simp] theorem Dev.settle_nand (d : Dev) : d.settle.nand = d.nand := d.quiet_settle.nand
@[simp] theorem Dev.settle_ports (d : Dev) : d.settle.ports = d.ports := d.quiet_settle.ports
@[simp] theorem Dev.settle_cmds (d : Dev) : d.settle.cmds = d.cmds := d.quiet_settle.cmds
@[simp] theorem Dev.settle_health (d : Dev) : d.settle.health = d.health := d.quiet_settle.health
@[simp] theorem Dev.settle_tap (d : Dev) : d.settle.tap = d.tap := d.quiet_settle.tap
@[simp] theorem Dev.settle_dom (d : Dev) : d.settle.power.dom = d.power.dom := d.quiet_settle.dom
@[simp] theorem Dev.settle_isOn (d : Dev) (n : Nat) : d.settle.isOn n = d.isOn n := d.quiet_settle.on n
@[simp] theorem Dev.settle_stacks (d : Dev) : d.settle.router.runStacks = d.router.runStacks := d.quiet_settle.runStacks
@[simp] theorem Dev.settle_windows (d : Dev) : d.settle.router.windows = d.router.windows := d.quiet_settle.windows
theorem Dev.settle_core (d : Dev) (n : Nat) : d.settle.core n = { d.core n with run := (d.settle.core n).run } :=
  d.quiet_settle.core n
@[simp] theorem Dev.settle_hearth (d : Dev) (n : Nat) : d.settle.hearth n = d.hearth n := by simp [Dev.hearth]
theorem Dev.settle_hop (d : Dev) (n : Nat) (h4 : n ≠ 4) (h5 : n ≠ 5) :
    d.settle.hop n = { d.hop n with creditDue := (d.settle.hop n).creditDue } := d.quiet_settle.hop n h4 h5
theorem Dev.settle_ctrl (d : Dev) : d.settle.ctrl = { d.ctrl with doneQ := d.settle.ctrl.doneQ } := d.quiet_settle.ctrl
theorem Dev.settle_link (d : Dev) : d.settle.link = { d.link with sent := d.settle.link.sent } := d.quiet_settle.link
theorem Dev.settle_aon (d : Dev) : d.settle.aon = { d.aon with wakeStamp := d.settle.aon.wakeStamp } := d.quiet_settle.aon
theorem Dev.settle_regGet (d : Dev) {k : Nat} (h : settleKey k = false) : d.settle.regGet k = d.regGet k :=
  d.quiet_settle.reg k h

/-- A field of a register that settling does not write. -/
theorem Dev.settle_getAt (d : Dev) (f : RegFld) (i j : Nat) (h : settleKey (f.key i j) = false) :
    d.settle.getAt f i j = d.getAt f i j := by simp [Dev.getAt, d.settle_regGet h]

theorem Dev.settle_get (d : Dev) (f : RegFld) (h : settleKey (f.key 0 0) = false) : d.settle.get f = d.get f :=
  d.settle_getAt f 0 0 h

end Sys2Proof.Machine
end

