-- ==== Sys2Proof/Laws/Core.lean ====
section
/-! SUPPORT. One core: PS by its bits, what the parts of a bundle write, and what the end of a loop leaves alone. -/

namespace Sys2Proof.Machine

/-! PS by its bits. -/

theorem getLsbD_bitPut (ps : DW) (n i : Nat) (b : Bool) (hn : n < 28) :
    (bitPut ps n b).getLsbD i = if i = n then b else ps.getLsbD i := by
  unfold bitPut
  by_cases h : i = n
  · subst h; cases b <;> simp [hn]
  · cases b
    · by_cases hi : i < 28
      · simp [hi, h]
        intro _
        omega
      · simp [h, BitVec.getLsbD_of_ge _ _ (Nat.le_of_not_lt hi)]
    · simp [h]
      intro h1 h2 h3
      omega

theorem getLsbD_psFlags (ps : DW) (f : FlagOut) (i : Nat) :
    (psFlags ps f).getLsbD i =
      if i = 0 then f.z.getD (ps.getLsbD 0) else if i = 1 then f.n.getD (ps.getLsbD 1)
      else if i = 2 then f.c.getD (ps.getLsbD 2) else if i = 3 then f.v.getD (ps.getLsbD 3) else ps.getLsbD i := by
  obtain ⟨z, n, c, v⟩ := f
  unfold psFlags
  dsimp only
  cases z <;> cases n <;> cases c <;> cases v <;>
    simp only [getLsbD_bitPut _ _ _ _ (show 0 < 28 by decide), getLsbD_bitPut _ _ _ _ (show 1 < 28 by decide),
      getLsbD_bitPut _ _ _ _ (show 2 < 28 by decide), getLsbD_bitPut _ _ _ _ (show 3 < 28 by decide),
      Option.getD_some, Option.getD_none] <;>
    (repeat' split) <;> simp_all

/-- Every bit but LD after the innermost loop ended. -/
theorem getLsbD_ldDown (ps : DW) (h : ps.extractLsb' 12 2 ≠ 0#2) (i : Nat) (h1 : i ≠ 12) (h2 : i ≠ 13) :
    (ps - 0x0001000#28).getLsbD i = ps.getLsbD i := by
  have hn : 1 ≤ ps.toNat / 4096 % 4 := by
    rcases Nat.eq_zero_or_pos (ps.toNat / 4096 % 4) with h0 | h0
    · exact absurd (BitVec.eq_of_toNat_eq (by simpa [BitVec.extractLsb', Nat.shiftRight_eq_div_pow] using h0)) h
    · exact h0
  have ht : (ps - 0x0001000#28).toNat = ps.toNat - 4096 := by
    have := ps.isLt
    rw [BitVec.toNat_sub]; simp; omega
  unfold BitVec.getLsbD
  rw [ht]
  by_cases h3 : i < 12
  · have := Nat.testBit_mod_two_pow (ps.toNat - 4096) 12 i
    have h4 := Nat.testBit_mod_two_pow ps.toNat 12 i
    rw [show (ps.toNat - 4096) % 2 ^ 12 = ps.toNat % 2 ^ 12 by omega] at this
    simp only [h3, decide_true, Bool.true_and] at this h4
    rw [← this, ← h4]
  · obtain ⟨j, rfl⟩ : ∃ j, i = 14 + j := ⟨i - 14, by omega⟩
    have h4 := Nat.testBit_div_two_pow (n := 14) (ps.toNat - 4096) j
    have h5 := Nat.testBit_div_two_pow (n := 14) ps.toNat j
    rw [show (ps.toNat - 4096) / 2 ^ 14 = ps.toNat / 2 ^ 14 by omega] at h4
    rw [Nat.add_comm 14 j, ← h4, ← h5]

/-! The end of a loop. -/

/-- What the end of a loop leaves as it was. -/
structure Core.LoopKept (c e : Core) : Prop where
  rest : e = { c with lc := e.lc, ls := e.ls, le := e.le, ps := e.ps, fetch := e.fetch, loopBuf := e.loopBuf }
  status : ∀ i, i ≠ 12 → i ≠ 13 → e.ps.getLsbD i = c.ps.getLsbD i

theorem Core.LoopKept.refl (c : Core) : c.LoopKept c := ⟨rfl, fun _ _ _ => rfl⟩

theorem Core.LoopKept.trans {c e f : Core} (h : c.LoopKept e) (g : e.LoopKept f) : c.LoopKept f :=
  ⟨by rw [g.rest, h.rest], fun i a b => (g.status i a b).trans (h.status i a b)⟩

theorem Core.loopKept_pop (c : Core) (h : c.ld ≠ 0) : c.LoopKept c.popLoop := by
  have hps : c.popLoop.ps = c.ps - 0x0001000#28 := rfl
  refine ⟨?_, fun i a b => ?_⟩
  · unfold Core.popLoop; dsimp only; split <;> rfl
  · rw [hps]; exact getLsbD_ldDown _ (fun h0 => h (by unfold Core.ld; rw [h0]; rfl)) i a b

theorem Core.loopKept_loopEnd (n : Nat) (c : Core) (addr len : Nat) : c.LoopKept (c.loopEnd addr len n).1 := by
  induction n generalizing c with
  | zero => exact Core.LoopKept.refl c
  | succ n ih =>
    unfold Core.loopEnd
    split
    · exact Core.LoopKept.refl c
    · next h =>
      dsimp only
      split
      · split
        · exact ⟨rfl, fun _ _ _ => rfl⟩
        · split
          · exact ⟨rfl, fun _ _ _ => rfl⟩
          · exact ⟨rfl, fun _ _ _ => rfl⟩
      · refine Core.LoopKept.trans (e := { c with lc := c.lc - 1, loopBuf := ⟨none, false⟩ }) ⟨rfl, fun _ _ _ => rfl⟩ ?_
        refine Core.LoopKept.trans (Core.loopKept_pop _ ?_) (ih _)
        intro h0
        simp only [Bool.or_eq_true, decide_eq_true_eq, not_or] at h
        exact h.1.1 h0

/-- Where no loop ends, nothing happens. -/
theorem Core.loopEnd_mid (c : Core) (addr len n : Nat) (h : c.ld = 0 ∨ c.le.toNat < addr ∨ addr + len ≤ c.le.toNat) :
    c.loopEnd addr len n = (c, 0) := by
  cases n with
  | zero => rfl
  | succ n =>
    unfold Core.loopEnd
    rw [if_pos]
    simp only [Bool.or_eq_true, decide_eq_true_eq]
    omega

end Sys2Proof.Machine
end

