-- ==== Sys2Proof/Laws/Issue.lean ====
section
/-! SUPPORT. One syllable that is a bundle of its own: when it passes the checks of R107, and what its issue does. -/

namespace Sys2Proof.Machine

/-! The word of a syllable and the checks. -/

/-- A syllable command that is no PFX syllable. -/
def plainSyll (i : Instr) : Prop := ∃ u op f, syllFields i = some (u, op, f) ∧ u ≠ 5

theorem encodeSyll_of {i : Instr} {x : Ctx} {u : BitVec 3} {op : BitVec 8} {f : BitVec 16} (hx : i.ctx? = some x)
    (hf : syllFields i = some (u, op, f)) : encodeSyll i = some (packSyll x.stop u op f) := by
  simp [encodeSyll, hx, hf]

theorem packSyll_stop (b : Bool) (u : BitVec 3) (op : BitVec 8) (f : BitVec 16) :
    (packSyll b u op f).getLsbD 27 = b := by
  unfold packSyll
  rw [BitVec.getLsbD_append, BitVec.getLsbD_append, BitVec.getLsbD_append]
  simp

theorem precheck_single (c : Core) (dsp : Bool) (i : Instr) (x : Ctx) (hx : i.ctx? = some x) (hstop : x.stop = true)
    (hs : (syllFields i).isSome = true) (hok : syllOk i = true) (hrep : (Syl.ofInstr i).isRep = false)
    (hpriv : privRefused c dsp i = false) (hcount : countRefused c (Syl.ofInstr i) = none) :
    precheck c dsp [Syl.ofInstr i] = none := by
  obtain ⟨⟨u, op, f⟩, hf⟩ := Option.isSome_iff_exists.1 hs
  have he := encodeSyll_of hx hf
  have hst : (Syl.ofInstr i).stop = true := by
    simp [Syl.stop, Syl.ofInstr, he, packSyll_stop, hstop]
  have hw : wellFormed [Syl.ofInstr i] = true := by
    simp only [wellFormed, List.getLast?_singleton, Option.map_some, hst, hrep, writesApart]
    split <;> simp [ascending]
  have ha : (Syl.ofInstr i).assigned = true := by
    simp [Syl.assigned, Syl.ofInstr, hok, he]
  have hp : (((Syl.ofInstr i).ins.map (privRefused c dsp)).getD false) = false := by simp [Syl.ofInstr, hpriv]
  unfold precheck
  simp [hw, firstSyl, ha, hp, hrep, hcount]

/-! The core that a bundle of one syllable finds. -/

theorem Dev.core_setCore (d : Dev) (k n : Nat) (c : Core) : (d.setCore k c).core n = if n = k then c else d.core n :=
  tabGet_tabSet ..

@[simp] theorem Dev.core_setCore_same (d : Dev) (k : Nat) (c : Core) : (d.setCore k c).core k = c := by
  simp [Dev.core_setCore]

@[simp] theorem Dev.setCore_setCore (d : Dev) (k : Nat) (c e : Core) : (d.setCore k c).setCore k e = d.setCore k e := by
  simp [Dev.setCore, tabSet_tabSet]

@[simp] theorem Dev.modCore_setCore (d : Dev) (k : Nat) (c : Core) (f : Core → Core) :
    (d.setCore k c).modCore k f = d.setCore k (f c) := by simp [Dev.modCore]

theorem Core.countBundle_eq (c : Core) : ∃ lb, c.countBundle = { c with loopBuf := lb } := by
  unfold Core.countBundle
  split
  · exact ⟨_, rfl⟩
  · exact ⟨c.loopBuf, rfl⟩

/-- The core as the operands of its one syllable are read. -/
def Core.issuing (c : Core) : Core := c.countBundle

theorem Core.issuing_eq (c : Core) : ∃ lb, c.issuing = { c with loopBuf := lb } := Core.countBundle_eq c

/-- Stores that wait change no core. -/
theorem Dev.aheadOut_cores (k : Nat) (d : Dev) (o : HeldOut) : (Dev.aheadOut k d o).cores = d.cores := by
  have hs : ∀ (d : Dev) (m : Nat) (v : DW), (d.memStoreDW m v).cores = d.cores := by
    intro d m v; unfold Dev.memStoreDW; split <;> rfl
  have hd : ∀ (d : Dev) (a : Nat) (v : DW), (d.aheadD k a v).cores = d.cores := by
    intro d a v; unfold Dev.aheadD; split
    · exact hs _ _ _
    · rfl
  cases o with
  | storeD a v t l => exact hd _ _ _
  | storeP a v w t l => exact (hd _ _ _).trans (hd _ _ _)
  | storeW a v t l =>
    unfold Dev.aheadOut; dsimp only; split
    · unfold Dev.memStoreW; split
      · rfl
      · unfold Dev.storeW; split <;> rfl
    · rfl
  | popped n => rfl
  | started e l => rfl
  | noticed n => rfl

theorem Dev.ahead_cores (d : Dev) (k : Nat) : (d.ahead k).cores = d.cores := by
  have ho : ∀ (l : List HeldOut) (d : Dev), (l.foldl (Dev.aheadOut k) d).cores = d.cores := by
    intro l
    induction l with
    | nil => exact fun _ => rfl
    | cons o l ih => exact fun d => (ih _).trans (d.aheadOut_cores k o)
  have hh : ∀ (l : List Held) (d : Dev),
      (l.foldl (fun d h => h.outs.foldl (Dev.aheadOut k) d) d).cores = d.cores := by
    intro l
    induction l with
    | nil => exact fun _ => rfl
    | cons h l ih => exact fun d => (ih _).trans (ho _ _)
  exact hh _ _

@[simp] theorem Dev.ahead_core (d : Dev) (k n : Nat) : (d.ahead k).core n = d.core n := by
  unfold Dev.core; rw [Dev.ahead_cores]

/-- The device as that syllable's operands are read, behind the stores that wait. -/
def State.reading (s : State) (x : Ctx) (i : Instr) : Dev :=
  ((s.ready x i).setCore x.core.val (s.own x i).issuing).ahead x.core.val

/-- Where that syllable executes. -/
def State.place (s : State) (x : Ctx) (i : Instr) : Place :=
  ⟨x.core.val, (s.at x).fetch.toNat, 1, (s.at x).steps + usePen (s.own x i) (syllReads i)⟩

/-- What it does. -/
def State.effect (s : State) (x : Ctx) (i : Instr) : Eff :=
  (s.reading x i).effOf PageOps.real ((s.reading x i).core x.core.val) (s.place x i) ((encodeSyll i).getD 0)
    ((encodeSyll i).getD 0) i

/-- Its issue. -/
def State.single (s : State) (x : Ctx) (i : Instr) : Issue :=
  ⟨x.core.val, (s.at x).fetch.toNat, 1, [Syl.ofInstr i], 0, x.tick.toNat, usePen (s.own x i) (syllReads i), false,
   (s.own x i).loopBuf⟩

theorem Core.atPlace_eq (c : Core) (l : List Syl) : ∃ m, c.atPlace l = { c with midway := m } := by
  unfold Core.atPlace
  split
  · dsimp only; split
    · exact ⟨_, rfl⟩
    · exact ⟨none, rfl⟩
  · exact ⟨_, rfl⟩

/-- The core that is ready is the one before, but for its place and for what releases write. -/
theorem State.Stands.own_eq {s : State} {x : Ctx} {i : Instr} (h : s.Stands x i) :
    ∃ m w wr ov t tf ds cl, s.own x i =
      { s.at x with
        bundle := [], midway := m, weak := w, written := wr, overwrote := ov, timer := t, timerFired := tf, doors := ds
        clrs := cl } := by
  obtain ⟨m, hm⟩ := (s.at x).atPlace_eq [Syl.ofInstr i]
  have hk := h.kin
  unfold Core.Kin at hk
  rw [hm] at hk
  exact ⟨_, _, _, _, _, _, _, _, hk⟩

/-- So is the core whose operands are read, but for its loop buffer too. -/
theorem State.Stands.reading_eq {s : State} {x : Ctx} {i : Instr} (h : s.Stands x i) :
    ∃ lb m w wr ov t tf ds cl, (s.reading x i).core x.core.val =
      { s.at x with
        bundle := [], midway := m, weak := w, written := wr, overwrote := ov, timer := t, timerFired := tf, doors := ds
        clrs := cl, loopBuf := lb } := by
  obtain ⟨m, w, wr, ov, t, tf, ds, cl, ho⟩ := h.own_eq
  obtain ⟨lb, hlb⟩ := (s.own x i).issuing_eq
  refine ⟨lb, m, w, wr, ov, t, tf, ds, cl, ?_⟩
  unfold State.reading
  rw [Dev.ahead_core, Dev.core_setCore_same, hlb, ho]

theorem fetchOk_of {k priv a : Nat} (h : 64 ≤ k ∨ a ≤ 0x3FFF ∨ (priv = 3 ∧ a ≤ 0x4FFF)) : fetchOk k priv a = true := by
  simp only [fetchOk, Bool.or_eq_true, Bool.and_eq_true, decide_eq_true_eq]
  omega

/-- A bundle of one syllable that is no PFX syllable has no place to go on from. -/
theorem Core.atPlace_plain (c : Core) (i : Instr) (h : ∀ c, prefixCount c i = none) :
    (c.atPlace [Syl.ofInstr i]).midway = none := by
  unfold Core.atPlace
  split
  · next m hm => simp [Syl.ofInstr, h c]
  · next hm => exact hm

/-- A syllable alone in its bundle issues: it completes, it raises its exception, or it meets a poisoned word. -/
theorem State.Stands.issue {s : State} {x : Ctx} {i : Instr} (h : s.Stands x i) (hx : i.ctx? = some x)
    (hs : (syllFields i).isSome = true) (hpfx : (Syl.ofInstr i).isRep = false ∧ longOf i = none)
    (hcount : ∀ c, prefixCount c i = none)
    (hpriv : privRefused (s.at x) (decide (x.core.val < 64)) i = false) :
    s.dev.syllable PageOps.real x i =
      match ((s.ready x i).setCore x.core.val (s.own x i).issuing).issue PageOps.real (s.single x i) with
      | .done d => d
      | .exc d j w e => d.takeException PageOps.real x.core.val (s.at x).fetch.toNat 1 j w e (s.single x i).pen
      | .met d => d := by
  have hci : s.dev.canIssue x.core.val = true := by
    have h1 := h.running; have h2 := h.awake; have h3 := h.turn
    unfold State.at at h1 h2 h3
    simp [Dev.canIssue, h1, h2, h3]
  have hb : (s.dev.core x.core.val).bundle = [] := h.first
  have hf := fetchOk_of h.fetch
  have hmid : (s.own x i).midway = none := by
    rw [h.kin]; exact Core.atPlace_plain _ _ hcount
  obtain ⟨m, w, wr, ov, t, tf, ds, cl, ho⟩ := h.own_eq
  unfold State.at at hf
  unfold Dev.syllable
  simp only [hci, hb, if_true, List.nil_append, List.length_nil, Nat.add_zero, hf, Bool.not_true,
    Bool.false_eq_true, if_false, h.last, Bool.true_or, List.map_cons, List.map_nil]
  unfold Dev.runBundle
  have hready : s.dev.poised PageOps.real x.core.val [Syl.ofInstr i] = s.ready x i := rfl
  have hown : (s.ready x i).core x.core.val = s.own x i := rfl
  have hpc : precheck (s.own x i) (decide (x.core.val < 64)) [Syl.ofInstr i] = none := by
    refine precheck_single _ _ i x hx h.last hs h.form hpfx.1 ?_ ?_
    · rw [ho, ← hpriv]; cases i <;> rfl
    · simp [countRefused, Syl.ofInstr, hcount]
  have hins : ([Syl.ofInstr i].head?).bind Syl.ins = some i := rfl
  have hre : ([Syl.ofInstr i].map Syl.reads).flatten = syllReads i := by simp [Syl.reads, Syl.ofInstr]
  have hfetch : (s.own x i).fetch = (s.at x).fetch := by rw [ho]
  have hof : Issue.of (s.own x i) x.core.val [Syl.ofInstr i] x.tick.toNat = s.single x i := by
    unfold Issue.of State.single
    rw [hre, hfetch]
    rfl
  simp only [hready, hown, hpc, hof, hins]
  have hmod : ((s.ready x i).modCore x.core.val fun c => if c.midway.isSome then c else c.countBundle) =
      (s.ready x i).setCore x.core.val (s.own x i).issuing := by
    show (s.ready x i).setCore x.core.val (if (s.own x i).midway.isSome then s.own x i else (s.own x i).countBundle) = _
    rw [hmid]
    rfl
  have hrep : ∀ y n cut, i ≠ .rep y n cut := by
    intro y n cut hi; subst hi; simp [Syl.isRep, Syl.ofInstr] at hpfx
  split
  · next y n cut he => exact absurd (Option.some.inj he) (hrep y n cut)
  · next he =>
    cases he
    rw [hmod]
    simp only [hpfx.2]
    rfl
  · next he => cases he

/-! Steps and budgets. -/

theorem Dev.quiet_same {d e : Dev} (h : e = { d with regs := e.regs }) (hr : ∀ k, e.regGet k = d.regGet k) :
    d.Quiet e := by
  have hreg := hr
  rw [h]
  constructor
  case page => exact Dev.page_same rfl
  case pendP => exact Dev.pendP_same rfl
  case pendS => exact fun _ h => h
  case awaiting => exact fun _ h => h
  case queued => exact fun _ => Nat.le_refl _
  case run => exact fun _ => .inl rfl
  case reg => intro k _; exact hreg k
  all_goals intros; rfl

theorem Dev.quiet_budgetSame (d : Dev) :
    (d.withBudget d.loader.overBudget (d.regGet (Reg.IMAGE.BUDGET_CNT.COUNT.key 0 0))).Quiet d := by
  refine Dev.quiet_same rfl fun n => ?_
  have : ∀ (a : Dev) (o : List Nat) (v : DW) (n : Nat), (a.withBudget o v).regGet n =
      (a.regSet (Reg.IMAGE.BUDGET_CNT.COUNT.key 0 0) v).regGet n := fun _ _ _ _ => rfl
  rw [this, Dev.regGet_regSet]
  split
  · next h => rw [h]
  · rfl

theorem Dev.quiet_checkBudget (d : Dev) (k : Nat) : ∃ excess count, (d.withBudget excess count).Quiet (d.checkBudget k) := by
  unfold Dev.checkBudget
  split
  · exact ⟨_, _, d.quiet_budgetSame⟩
  · dsimp only
    split
    · exact ⟨_, _, d.quiet_budgetSame⟩
    · unfold Dev.countS
      dsimp only
      split
      · exact ⟨_, _, Dev.quiet_raise _ _ _⟩
      · split
        · exact ⟨_, _, (Dev.quiet_budgetSame
            (d.modLoader fun l => { l with overBudget := setInsert l.overBudget (k * 8 + (d.core k).phase) })).trans
              (Dev.quiet_raise _ _ _)⟩
        · split
          · exact ⟨_, _, (Dev.quiet_raise _ _ _).trans (Dev.quiet_raise _ _ _)⟩
          · exact ⟨_, _, Dev.quiet_raise _ _ _⟩

/-- Once a bundle has spent its steps. -/
theorem Dev.quiet_budget (d : Dev) (k : Nat) : ∃ excess count, (d.withBudget excess count).Quiet (d.budget k) := by
  unfold Dev.budget
  split
  · exact d.quiet_checkBudget k
  · exact ⟨_, _, d.quiet_budgetSame⟩

/-! A syllable without acts. -/

/-- The core after the registers, the flags and the sticky bits of one effect. -/
def Core.after (c : Core) (e : Eff) : Core := ((c.applyRegs e).stick [e]).mend [e]

theorem Core.stick_eq (c : Core) (l : List Eff) : c.stick l = { c with ps := (c.stick l).ps } := by
  unfold Core.stick; dsimp only

theorem getLsbD_one (n i : Nat) (hn : n < 28) : (1#28 <<< n).getLsbD i = decide (i = n) := by
  by_cases h : i < 28
  · by_cases h' : i = n
    · subst h'; simp [h]
    · simp [h, h']; omega
  · rw [BitVec.getLsbD_of_ge _ _ (Nat.le_of_not_lt h)]; simp; omega

theorem getLsbD_orIf (v : DW) (n i : Nat) (b : Bool) (hn : n < 28) :
    (if b then v ||| (1#28 <<< n) else v).getLsbD i = (v.getLsbD i || (decide (i = n) && b)) := by
  cases b
  · simp
  · simp only [if_true, BitVec.getLsbD_or, getLsbD_one _ _ hn, Bool.and_true]

theorem getLsbD_stick (c : Core) (e : Eff) (i : Nat) :
    (c.stick [e]).ps.getLsbD i = (c.ps.getLsbD i || (decide (i = 4) && e.sat) || (decide (i = 5) && e.dz)) := by
  have h4 := getLsbD_orIf c.ps 4 i e.sat (by decide)
  have h5 := getLsbD_orIf (if e.sat then c.ps ||| (1#28 <<< 4) else c.ps) 5 i e.dz (by decide)
  have k4 : (1#28 <<< 4) = 0x0000010#28 := by decide
  have k5 : (1#28 <<< 5) = 0x0000020#28 := by decide
  rw [k4] at h4 h5
  rw [k5] at h5
  unfold Core.stick
  simp only [List.any_cons, List.any_nil, Bool.or_false]
  rw [← h4]
  exact h5

/-- The core at the end of a bundle that goes on: the end of a loop may change the loop registers and the fetch address. -/
structure Core.Ended (c e : Core) (addr : Nat) : Prop where
  rest : e = { c with lc := e.lc, ls := e.ls, le := e.le, ps := e.ps, fetch := e.fetch, loopBuf := e.loopBuf,
                      loadBits := e.loadBits, steps := e.steps, pen := e.pen, phaseSteps := e.phaseSteps
                      midway := none, retry := false }
  status : ∀ i, i ≠ 12 → i ≠ 13 → e.ps.getLsbD i = c.ps.getLsbD i
  mid : c.ld = 0 ∨ c.le.toNat ≠ addr → e.lc = c.lc ∧ e.ls = c.ls ∧ e.le = c.le ∧ e.ps = c.ps ∧
    e.fetch = BitVec.ofNat 28 (addr + 1)

theorem Dev.applyAll_pure (d : Dev) (P : PageOps) (x : Issue) (e : Eff) (step last : Nat) (h : e.acts = []) :
    d.applyAll P x [e] step last = (d.setCore x.core ((d.core x.core).after e), []) := by
  unfold Dev.applyAll Core.after
  simp only [List.map_cons, List.map_nil, List.flatten_cons, List.flatten_nil, h, List.append_nil, List.foldl_nil,
    List.foldl_cons, Dev.modCore, Dev.core_setCore_same, Dev.setCore_setCore]

/-- The core past a bundle of one syllable, and the steps that the end of a loop adds. -/
def Core.past (c : Core) (addr : Nat) : Core × Nat :=
  ({ c with fetch := BitVec.ofNat 28 (addr + 1) } : Core).loopEnd addr 1 2

theorem Dev.depart_on (d : Dev) (x : Issue) (effs : List Eff) (base : Nat) (C : Core) (hlen : x.len = 1)
    (hmore : x.more = false) :
    (d.setCore x.core C).depart x effs base .on = (d.setCore x.core (C.past x.addr).1, (C.past x.addr).2) := by
  unfold Dev.depart Core.past
  simp only [hmore, hlen, Bool.false_eq_true, if_false, Dev.core_setCore_same, Dev.setCore_setCore]

theorem Core.ended (c : Core) (addr steps pen after : Nat) (effs : List Eff) :
    c.Ended { (((c.past addr).1.noteLoads effs after).spend steps pen) with midway := none } addr := by
  have hk := Core.loopKept_loopEnd 2 { c with fetch := BitVec.ofNat 28 (addr + 1) } addr 1
  refine ⟨?_, fun i a b => ?_, fun h => ?_⟩
  · unfold Core.spend Core.noteLoads Core.past
    rw [hk.rest]
  · exact hk.status i a b
  · have hm := Core.loopEnd_mid { c with fetch := BitVec.ofNat 28 (addr + 1) } addr 1 2 (by
      rcases h with h | h
      · exact .inl h
      · right
        show c.le.toNat < addr ∨ addr + 1 ≤ c.le.toNat
        omega)
    unfold Core.past
    rw [hm]
    exact ⟨rfl, rfl, rfl, rfl, rfl⟩

/-- A bundle is held and its steps are checked against the budget. -/
theorem Dev.quiet_hold (d : Dev) (k : Nat) (C : Core) (h : Held) :
    ∃ excess count, (d.leaves k C (d.heldOf k ++ [h]) excess count).Quiet (((d.setCore k C).hold k h).budget k) :=
  Dev.quiet_budget ((d.setCore k C).hold k h) k

/-- The issue of an effect without acts: only the core changes, and the damper holds a bundle without outputs. -/
theorem Dev.complete_pure (d : Dev) (P : PageOps) (x : Issue) (e : Eff) (hacts : e.acts = []) (hlen : x.len = 1)
    (hmore : x.more = false) :
    ∃ c h excess count, h.outs = [] ∧
      (d.leaves x.core c (d.heldOf x.core ++ [h]) excess count).Quiet (d.complete P x [e]) ∧
      ((d.core x.core).after e).Ended c x.addr := by
  have ha : ([e].map (·.acts)).flatten = [] := by simp [hacts]
  unfold Dev.complete
  dsimp only
  rw [Dev.applyAll_pure _ _ _ _ _ _ hacts, ha, show goesOf [] = .on from rfl, Dev.depart_on _ _ _ _ _ hlen hmore]
  simp only [hmore, Bool.false_eq_true, if_false, Dev.modCore_setCore]
  obtain ⟨excess, count, hq⟩ := Dev.quiet_hold d x.core _ _
  exact ⟨_, _, excess, count, rfl, hq, Core.ended _ _ _ _ _ _⟩

/-- A syllable command that is a bundle of its own may issue: it is in the CTL, ALU, MAC or LS unit and its level may
do what it asks. -/
structure State.Plain (s : State) (x : Ctx) (i : Instr) : Prop where
  ctx : i.ctx? = some x
  coded : (syllFields i).isSome = true
  noRep : (Syl.ofInstr i).isRep = false
  noLong : longOf i = none
  noCount : ∀ c, prefixCount c i = none
  allowed : privRefused (s.at x) (decide (x.core.val < 64)) i = false
  runs : exec i s = .next (s.onDev fun d => (d.syllable PageOps.real x i).settle)

/-- What one syllable's effect leads to: its completion, where it raises and meets nothing. -/
theorem State.Stands.completes {s : State} {x : Ctx} {i : Instr} (h : s.Stands x i) (p : s.Plain x i)
    (hexc : (s.effect x i).exc = none) (hmet : (s.effect x i).met = none) :
    s.dev.syllable PageOps.real x i =
      ((s.ready x i).setCore x.core.val (s.own x i).issuing).complete PageOps.real (s.single x i) [s.effect x i] := by
  rw [h.issue p.ctx p.coded ⟨p.noRep, p.noLong⟩ p.noCount p.allowed]
  obtain ⟨lb, hlb⟩ := (s.own x i).issuing_eq
  obtain ⟨m, w, wr, ov, t, tf, ds, cl, ho⟩ := h.own_eq
  have he : ((s.ready x i).setCore x.core.val (s.own x i).issuing).effects PageOps.real (s.single x i) = [s.effect x i] := by
    have hst : (s.own x i).issuing.steps = (s.at x).steps := by rw [hlb, ho]
    unfold Dev.effects State.effect State.reading State.single State.place Issue.place
    simp only [Dev.ahead_core, Dev.core_setCore_same, List.map_cons, List.map_nil, Syl.ofInstr, List.head?_cons,
      Option.map_some, Option.getD_some, hst]
  have hbad : (((s.ready x i).setCore x.core.val (s.own x i).issuing).core (s.single x i).core).readsBad
      (s.single x i).syls = false := by
    have : (s.single x i).core = x.core.val := rfl
    rw [this, Dev.core_setCore_same, hlb]
    exact h.sound
  have hsyl : (s.single x i).syls = [Syl.ofInstr i] := rfl
  unfold Dev.issue
  rw [if_neg (by rw [hbad]; decide)]
  simp only [he, hsyl, List.zip_cons_cons, List.zip_nil_right, List.zipIdx_cons, List.zipIdx_nil,
    List.find?_cons, List.find?_nil, hexc, hmet, Option.isSome_none, Bool.or_false]

/-! What one effect writes. -/

/-- The general registers after a list of writes. -/
def grFold (t : Tab DW) (l : List (Nat × DW × DW)) : Tab DW :=
  l.foldl (fun t w => tabSet t w.1 (maskPut (tabGet 0#28 t w.1) w.2.1 w.2.2)) t

/-- The accumulators after a list of writes. -/
def accFold (t : Tab Acc) (l : List (Nat × Acc)) : Tab Acc := l.foldl (fun t a => tabSet t a.1 a.2) t

theorem Core.putGr_fold (l : List (Nat × DW × DW)) (c : Core) :
    l.foldl Core.putGr c = { c with gr := grFold c.gr l } := by
  induction l generalizing c with
  | nil => rfl
  | cons w l ih => rw [List.foldl_cons, ih]; rfl

theorem Core.accs_fold (l : List (Nat × Acc)) (c : Core) :
    l.foldl (fun (c : Core) (a : Nat × Acc) => { c with acc := tabSet c.acc a.1 a.2 }) c =
      { c with acc := accFold c.acc l } := by
  induction l generalizing c with
  | nil => rfl
  | cons w l ih => rw [List.foldl_cons, ih]; rfl

theorem Core.applyRegs_eq (c : Core) (e : Eff) :
    c.applyRegs e = { c with gr := grFold c.gr e.grs, acc := accFold c.acc e.accs, ps := psFlags c.ps e.flags } := by
  unfold Core.applyRegs
  dsimp only
  rw [Core.putGr_fold, Core.accs_fold]

theorem Core.after_eq (c : Core) (e : Eff) :
    c.after e =
      { c with
        gr := grFold c.gr e.grs, acc := accFold c.acc e.accs, ps := (c.after e).ps, bad := (c.after e).bad
        weak := (c.after e).weak } := by
  unfold Core.after Core.mend
  rw [Core.applyRegs_eq, Core.stick_eq]

theorem Core.getLsbD_after (c : Core) (e : Eff) (j : Nat) :
    (c.after e).ps.getLsbD j =
      ((psFlags c.ps e.flags).getLsbD j || (decide (j = 4) && e.sat) || (decide (j = 5) && e.dz)) := by
  have h : (c.after e).ps = ((c.applyRegs e).stick [e]).ps := rfl
  rw [h, getLsbD_stick, Core.applyRegs_eq]

/-- The core after the registers and flags of an effect, as statements say it. -/
theorem Core.after_says {c c' : Core} {lb : LoopBuf} {e : Eff} {r : FlagRow} {grs : List (Nat × DW)}
    {accs : List (Nat × Acc)} (hend : (({ c with loopBuf := lb } : Core).after e).Ended c' c.fetch.toNat)
    (hgr : c.GrAre { c with gr := grFold c.gr e.grs } grs) (hacc : c.AccAre { c with acc := accFold c.acc e.accs } accs)
    (hf : e.flags = ⟨r.z, r.n, r.c, r.v⟩) (hs : e.sat = r.sat) (hd : e.dz = r.dz) :
    c.GrAre c' grs ∧ c.AccAre c' accs ∧ c.FlagsAre c' r ∧ c.Beside c' := by
  have hfl := getLsbD_psFlags c.ps e.flags
  rw [hf] at hfl
  have hps : ∀ j, j ≠ 12 → j ≠ 13 → c'.ps.getLsbD j = _ := fun j h1 h2 =>
    (hend.status j h1 h2).trans ((Core.getLsbD_after _ e j).trans (by rw [hf, hfl]))
  have hr := hend.rest
  rw [Core.after_eq] at hr
  refine ⟨?_, ?_, ?_, ?_⟩
  · rw [hr]; exact hgr
  · rw [hr]; exact hacc
  · constructor
    · exact (hps 0 (by decide) (by decide)).trans (by simp [Core.z])
    · exact (hps 1 (by decide) (by decide)).trans (by simp [Core.n])
    · exact (hps 2 (by decide) (by decide)).trans (by simp [Core.c])
    · exact (hps 3 (by decide) (by decide)).trans (by simp [Core.v])
    · exact (hps 4 (by decide) (by decide)).trans (by simp [hs])
    · exact (hps 5 (by decide) (by decide)).trans (by simp [hd])
  · have hmid := hend.mid
    have hl : (({ c with loopBuf := lb } : Core).after e).ld = c.ld := by
      unfold Core.ld
      congr 1
      apply BitVec.eq_of_getLsbD_eq
      intro j hj
      rw [BitVec.getLsbD_extractLsb', BitVec.getLsbD_extractLsb', Core.getLsbD_after, getLsbD_psFlags]
      simp [show 12 + j ≠ 1 by omega, show 12 + j ≠ 2 by omega, show 12 + j ≠ 3 by omega,
        show 12 + j ≠ 4 by omega, show 12 + j ≠ 5 by omega]
    rw [hl] at hmid
    constructor
    · intro j h1 h2 h3
      rw [hps j h2 h3]
      simp [show j ≠ 0 by omega, show j ≠ 1 by omega, show j ≠ 2 by omega, show j ≠ 3 by omega, show j ≠ 4 by omega,
        show j ≠ 5 by omega]
    · rw [hr]; exact ⟨rfl, rfl, rfl, rfl, rfl⟩
    · rw [hr]
    · rw [hr]
    · rw [hr]; exact ⟨rfl, rfl, rfl, rfl⟩
    · rw [hr]; exact ⟨rfl, rfl, rfl, rfl, rfl, rfl, rfl, rfl⟩
    · intro hm
      rw [Core.after_eq] at hmid
      obtain ⟨m1, m2, m3, m4, m5⟩ := hmid hm
      refine ⟨m1, m2, m3, ?_, ?_, ?_, ?_, ?_⟩
      · rw [hr]
      · rw [hr]
      · rw [hr]
      · rw [← hl]; unfold Core.ld; rw [m4]
      · rw [m5]
        apply BitVec.eq_of_toNat_eq
        simp [BitVec.toNat_add]

theorem State.onDev_dev (s : State) (f : Dev → Dev) : (s.onDev f).dev = f s.dev := rfl

theorem RunsOn.of {s : State} {x : Ctx} {i : Instr} {f : Dev → Dev} (h : exec i s = .next (s.onDev f)) {d : Dev}
    {outs : List HeldOut} {P : Core → Prop} (c : Core) (hd : Held) (excess : List Nat) (count : DW) (ho : hd.outs = outs)
    (hq : (d.leaves x.core.val c (d.heldOf x.core.val ++ [hd]) excess count).Quiet (s.onDev f).dev) (hp : P c) :
    RunsOn s x i d outs P := ⟨_, c, hd, excess, count, h, rfl, ho, hq, hp⟩

/-- A syllable without acts computes. -/
theorem State.Plain.computes {s : State} {x : Ctx} {i : Instr} (p : s.Plain x i) {e : Eff}
    (he : s.Stands x i → s.effect x i = e)
    (hexc : e.exc = none) (hmet : e.met = none) (hacts : e.acts = []) {r : FlagRow} {grs : List (Nat × DW)}
    {accs : List (Nat × Acc)} (hgr : (s.at x).GrAre { s.at x with gr := grFold (s.at x).gr e.grs } grs)
    (hacc : (s.at x).AccAre { s.at x with acc := accFold (s.at x).acc e.accs } accs)
    (hf : e.flags = ⟨r.z, r.n, r.c, r.v⟩) (hs : e.sat = r.sat) (hd : e.dz = r.dz) : Computes s x i grs accs r := by
  intro h
  replace he := he h
  have hc := h.completes p (by rw [he]; exact hexc) (by rw [he]; exact hmet)
  rw [he] at hc
  obtain ⟨c, hl, excess, count, hout, hq, hend⟩ := Dev.complete_pure ((s.ready x i).setCore x.core.val (s.own x i).issuing)
    PageOps.real (s.single x i) e hacts rfl rfl
  obtain ⟨lb, hlb⟩ := (s.own x i).issuing_eq
  obtain ⟨m, w, wr, ov, t, tf, ds, cl, ho⟩ := h.own_eq
  have hk : (s.single x i).core = x.core.val := rfl
  refine RunsOn.of p.runs c hl excess count hout ?_ ?_
  · rw [State.onDev_dev, hc]
    refine Dev.Quiet.trans ?_ (Dev.quiet_settle _)
    rw [hk] at hq
    unfold Dev.leaves at hq ⊢
    rw [Dev.setCore_setCore] at hq
    exact hq
  · have ha : (s.single x i).addr = (s.own x i).fetch.toNat := by rw [ho]; rfl
    rw [hk, ha, Dev.core_setCore_same, hlb] at hend
    refine Core.after_says hend ?_ ?_ hf hs hd
    · rw [ho]; exact hgr
    · rw [ho]; exact hacc

end Sys2Proof.Machine
end

