-- ==== Sys2Proof/Laws/Memory.lean ====
section
/-! SUPPORT. The laws of memory: what is read after a write, and that every operation keeps the canonical form. -/

namespace Sys2Proof.Machine

/-! A read after a write. -/

@[simp] theorem Dev.wAt_putW (d : Dev) (a b : Nat) (v : W) : (d.putW a v).wAt b = if b = a then v else d.wAt b :=
  tabGet_tabPut _ _ _ _ _

@[simp] theorem Dev.wAt_setTag (d : Dev) (a b : Nat) (t : WordTag) : (d.setTag a t).wAt b = d.wAt b := rfl

theorem Dev.wAt_putDW (d : Dev) (a b : Nat) (v : DW) :
    (d.putDW a v).wAt b = if b = a + 1 then v.extractLsb' 14 14 else if b = a then v.extractLsb' 0 14 else d.wAt b := by
  simp [Dev.putDW]

theorem Dev.wAt_storeDW (d : Dev) (a b : Nat) (v : DW) :
    (d.storeDW a v).wAt b =
      if b = a + 1 then v.extractLsb' 14 14 else if b = a then v.extractLsb' 0 14 else d.wAt b := by
  simp [Dev.storeDW, Dev.wAt_putDW]

/-- A DW read where a DW was stored. -/
theorem Dev.dwAt_storeDW_same (d : Dev) (a : Nat) (v : DW) : (d.storeDW a v).dwAt a = v := by
  simp only [Dev.dwAt, Dev.wAt_storeDW, if_true, show a ≠ a + 1 from by omega, if_false]
  ext i hi
  rw [BitVec.getElem_append]
  split
  · simp [BitVec.getLsbD_eq_getElem hi]
  · next h => simp [show 14 + (i - 14) = i from by omega, BitVec.getLsbD_eq_getElem hi]

/-- A W read where a W was stored in a DW that is not poisoned. -/
theorem Dev.wAt_storeW_same (d : Dev) (a : Nat) (v : W) (h : d.poisonAt a = false) : (d.storeW a v).wAt a = v := by
  simp [Dev.storeW, h]

/-- A store of a W changes no other W. -/
theorem Dev.wAt_storeW_ne (d : Dev) {a b : Nat} (v : W) (h : b ≠ a) : (d.storeW a v).wAt b = d.wAt b := by
  unfold Dev.storeW; split <;> simp [h]

/-! The canonical form. -/

theorem Memory.wf_reset : Memory.wf State.reset.dev.mem = true := rfl

theorem Memory.wf_putW {d : Dev} (a : Nat) (v : W) (h : Memory.wf d.mem = true) : Memory.wf (d.putW a v).mem = true :=
  tabWf_tabPut a v h

theorem Memory.wf_putDW {d : Dev} (a : Nat) (v : DW) (h : Memory.wf d.mem = true) :
    Memory.wf (d.putDW a v).mem = true := wf_putW _ _ (wf_putW _ _ h)

theorem Memory.wf_storeDW {d : Dev} (a : Nat) (v : DW) (h : Memory.wf d.mem = true) :
    Memory.wf (d.storeDW a v).mem = true := wf_putDW a v h

theorem Memory.wf_storeW {d : Dev} (a : Nat) (v : W) (h : Memory.wf d.mem = true) :
    Memory.wf (d.storeW a v).mem = true := by
  unfold Dev.storeW; split
  · exact h
  · exact wf_putW a v h

theorem Dev.countCorr_mem (d : Dev) (p : Nat) : (d.countCorr p).mem = d.mem := by
  unfold Dev.countCorr; dsimp only
  split
  · rfl
  · split
    · rfl
    · split
      · exact (Dev.calm_raise _ _ _).mem
      · rfl

theorem Dev.countUnc_mem (d : Dev) (p : Nat) : (d.countUnc p).mem = d.mem := by
  unfold Dev.countUnc; dsimp only
  split
  · rfl
  · split
    · rfl
    · split
      · exact (Dev.calm_raise _ _ _).mem
      · rfl

theorem Dev.noteCorrected_mem (d : Dev) (a : Nat) : (d.noteCorrected a).mem = d.mem := by
  unfold Dev.noteCorrected; dsimp only; split
  · rw [Dev.countCorr_mem]; rfl
  · rfl

theorem Dev.noteUncorrectable_mem (d : Dev) (a : Nat) : (d.noteUncorrectable a).mem = d.mem := by
  unfold Dev.noteUncorrectable; dsimp only; split
  · rw [Dev.countUnc_mem]; rfl
  · rfl

theorem Memory.wf_readCode {d : Dev} (a : Nat) (h : Memory.wf d.mem = true) : Memory.wf (d.readCode a).mem = true := by
  unfold Dev.readCode; split
  · rw [Dev.noteCorrected_mem]; exact h
  · rw [Dev.noteUncorrectable_mem]; exact wf_putDW (evenOf a) 0#28 h
  · exact h

theorem Memory.wf_initBank {d : Dev} (dom bank : Nat) (h : Memory.wf d.mem = true) :
    Memory.wf (d.initBank dom bank).mem = true := by
  unfold Dev.initBank; split
  · exact tabWf_tabDelRange _ _ h
  · exact h

theorem Memory.wf_loseBank {d : Dev} (dom bank : Nat) (h : Memory.wf d.mem = true) :
    Memory.wf (d.loseBank dom bank).mem = true := by
  unfold Dev.loseBank; split
  · exact tabWf_tabDelRange _ _ h
  · exact h

theorem Memory.wf_warmAt {d : Dev} (a : Nat) (h : Memory.wf d.mem = true) : Memory.wf (d.warmAt a).mem = true := by
  unfold Dev.warmAt; split
  · split
    · exact wf_initBank _ _ h
    · exact h
  · exact h

/-- Whatever each step of a fold keeps, the fold keeps. -/
theorem Memory.wf_each (l : List Nat) (f : Dev → Nat → Dev)
    (hf : ∀ e x, Memory.wf e.mem = true → Memory.wf (f e x).mem = true) {d : Dev} (h : Memory.wf d.mem = true) :
    Memory.wf (d.each l f).mem = true := by
  induction l generalizing d with
  | nil => exact h
  | cons x l ih => exact ih (hf d x h)

theorem Memory.wf_demand {d : Dev} (e : Nat) (qs : List Nat) (h : Memory.wf d.mem = true) :
    Memory.wf (d.demand e qs).mem = true := by
  unfold Dev.demand; split
  · exact h
  · dsimp only
    exact wf_each _ (fun e q => { e with mem := tabDelRange e.mem _ _, tags := tabDelRange e.tags _ _ })
      (fun _ _ g => tabWf_tabDelRange _ _ g) h

/-- What a bank holds once it is initialised. -/
theorem Dev.wAt_initBank {d : Dev} {dom bank lo hi : Nat} (h : bankRange dom bank = some (lo, hi)) (a : Nat) :
    (d.initBank dom bank).wAt a = if lo ≤ a ∧ a < hi then 0#14 else d.wAt a := by
  simp only [Dev.initBank, h, Dev.wAt, tabGet, tabFind_tabDelRange]
  split <;> simp

end Sys2Proof.Machine
end

