-- ==== Sys2Proof/Laws/Syllables.lean ====
section
/-! SUPPORT. Each syllable alone in its bundle: that it may issue, and what it asks of its core. -/

namespace Sys2Proof.Machine

theorem State.plain_br (s : State) (x : Ctx) (cond : BitVec 4) (disp : BitVec 12) : s.Plain x (.br x cond disp) :=
  ⟨rfl, rfl, rfl, rfl, fun _ => rfl, rfl, rfl⟩

theorem State.plain_jr (s : State) (x : Ctx) (cond : BitVec 4) (p : BitVec 3) : s.Plain x (.jr x cond p) :=
  ⟨rfl, rfl, rfl, rfl, fun _ => rfl, rfl, rfl⟩

theorem State.Stands.effect_jr {s : State} {x : Ctx} {cond : BitVec 4} {p : BitVec 3}
    (h : s.Stands x (.jr x cond p)) : s.effect x (.jr x cond p) = effBranch (s.at x) cond (ptrTarget (s.at x) p) := by
  obtain ⟨lb, m, w, wr, ov, t, tf, ds, cl, he⟩ := h.reading_eq
  unfold State.effect
  rw [he]
  rfl

theorem State.plain_call (s : State) (x : Ctx) (disp : BitVec 12) : s.Plain x (.call x disp) :=
  ⟨rfl, rfl, rfl, rfl, fun _ => rfl, rfl, rfl⟩

theorem State.plain_callr (s : State) (x : Ctx) (p : BitVec 3) : s.Plain x (.callr x p) :=
  ⟨rfl, rfl, rfl, rfl, fun _ => rfl, rfl, rfl⟩

theorem State.plain_ret (s : State) (x : Ctx) : s.Plain x (.ret x) :=
  ⟨rfl, rfl, rfl, rfl, fun _ => rfl, rfl, rfl⟩

theorem State.plain_retx (s : State) (x : Ctx)
    (h : privRefused (s.at x) (decide (x.core.val < 64)) (.retx x) = false) : s.Plain x (.retx x) :=
  ⟨rfl, rfl, rfl, rfl, fun _ => rfl, h, rfl⟩

theorem State.plain_loop (s : State) (x : Ctx) (n : LoopCount) (e : BitVec 7) : s.Plain x (.loop x n e) :=
  ⟨rfl, rfl, rfl, rfl, fun _ => rfl, rfl, rfl⟩

theorem State.plain_wait (s : State) (x : Ctx)
    (h : privRefused (s.at x) (decide (x.core.val < 64)) (.wait x) = false) : s.Plain x (.wait x) :=
  ⟨rfl, rfl, rfl, rfl, fun _ => rfl, h, rfl⟩

theorem State.Stands.effect_wait {s : State} {x : Ctx}
    (h : s.Stands x (.wait x)) : s.effect x (.wait x) = Eff.act [.wait] := by
  obtain ⟨lb, m, w, wr, ov, t, tf, ds, cl, he⟩ := h.reading_eq
  unfold State.effect
  rw [he]
  rfl

theorem State.plain_barrier (s : State) (x : Ctx) (b : BitVec 11) : s.Plain x (.barrier x b) :=
  ⟨rfl, rfl, rfl, rfl, fun _ => rfl, rfl, rfl⟩

theorem State.Stands.effect_barrier {s : State} {x : Ctx} {b : BitVec 11}
    (h : s.Stands x (.barrier x b)) : s.effect x (.barrier x b) = { Eff.act [.barrier b] with steps := 12 } := by
  obtain ⟨lb, m, w, wr, ov, t, tf, ds, cl, he⟩ := h.reading_eq
  unfold State.effect
  rw [he]
  rfl

theorem State.plain_svc (s : State) (x : Ctx) (u0 : BitVec 11) : s.Plain x (.svc x u0) :=
  ⟨rfl, rfl, rfl, rfl, fun _ => rfl, rfl, rfl⟩

theorem State.plain_brk (s : State) (x : Ctx) (u0 : BitVec 11) : s.Plain x (.brk x u0) :=
  ⟨rfl, rfl, rfl, rfl, fun _ => rfl, rfl, rfl⟩

theorem State.plain_iflush (s : State) (x : Ctx) : s.Plain x (.iflush x) :=
  ⟨rfl, rfl, rfl, rfl, fun _ => rfl, rfl, rfl⟩

theorem State.Stands.effect_iflush {s : State} {x : Ctx}
    (h : s.Stands x (.iflush x)) : s.effect x (.iflush x) = { Eff.act [.iflush] with steps := 3 } := by
  obtain ⟨lb, m, w, wr, ov, t, tf, ds, cl, he⟩ := h.reading_eq
  unfold State.effect
  rw [he]
  rfl

theorem State.plain_mov (s : State) (x : Ctx) (dst : BitVec 6) (src : BitVec 6) : s.Plain x (.mov x dst src) :=
  ⟨rfl, rfl, rfl, rfl, fun _ => rfl, rfl, rfl⟩

theorem State.Stands.effect_mov {s : State} {x : Ctx} {dst : BitVec 6} {src : BitVec 6}
    (h : s.Stands x (.mov x dst src)) : s.effect x (.mov x dst src) = effMov dst src (s.at x) := by
  obtain ⟨lb, m, w, wr, ov, t, tf, ds, cl, he⟩ := h.reading_eq
  unfold State.effect
  rw [he]
  rfl

theorem State.plain_sys (s : State) (x : Ctx) (r : BitVec 5) (n : BitVec 6) (dir : Bool)
    (h : privRefused (s.at x) (decide (x.core.val < 64)) (.sys x r n dir) = false) : s.Plain x (.sys x r n dir) :=
  ⟨rfl, rfl, rfl, rfl, fun _ => rfl, h, rfl⟩

theorem State.Stands.effect_sys {s : State} {x : Ctx} {r : BitVec 5} {n : BitVec 6} {dir : Bool}
    (h : s.Stands x (.sys x r n dir)) : s.effect x (.sys x r n dir) = effSys r n dir (s.at x) := by
  obtain ⟨lb, m, w, wr, ov, t, tf, ds, cl, he⟩ := h.reading_eq
  unfold State.effect
  rw [he]
  rfl

theorem State.plain_add (s : State) (x : Ctx) (r : BitVec 5) (a : BitVec 5) (b : BitVec 5) : s.Plain x (.add x r a b) :=
  ⟨rfl, rfl, rfl, rfl, fun _ => rfl, rfl, rfl⟩

theorem State.Stands.effect_add {s : State} {x : Ctx} {r : BitVec 5} {a : BitVec 5} {b : BitVec 5}
    (h : s.Stands x (.add x r a b)) : s.effect x (.add x r a b) = effAdd r a b (s.at x) := by
  obtain ⟨lb, m, w, wr, ov, t, tf, ds, cl, he⟩ := h.reading_eq
  unfold State.effect
  rw [he]
  rfl

theorem State.plain_adc (s : State) (x : Ctx) (r : BitVec 5) (a : BitVec 5) (b : BitVec 5) : s.Plain x (.adc x r a b) :=
  ⟨rfl, rfl, rfl, rfl, fun _ => rfl, rfl, rfl⟩

theorem State.Stands.effect_adc {s : State} {x : Ctx} {r : BitVec 5} {a : BitVec 5} {b : BitVec 5}
    (h : s.Stands x (.adc x r a b)) : s.effect x (.adc x r a b) = effAdc r a b (s.at x) := by
  obtain ⟨lb, m, w, wr, ov, t, tf, ds, cl, he⟩ := h.reading_eq
  unfold State.effect
  rw [he]
  rfl

theorem State.plain_sub (s : State) (x : Ctx) (r : BitVec 5) (a : BitVec 5) (b : BitVec 5) : s.Plain x (.sub x r a b) :=
  ⟨rfl, rfl, rfl, rfl, fun _ => rfl, rfl, rfl⟩

theorem State.Stands.effect_sub {s : State} {x : Ctx} {r : BitVec 5} {a : BitVec 5} {b : BitVec 5}
    (h : s.Stands x (.sub x r a b)) : s.effect x (.sub x r a b) = effSub r a b (s.at x) := by
  obtain ⟨lb, m, w, wr, ov, t, tf, ds, cl, he⟩ := h.reading_eq
  unfold State.effect
  rw [he]
  rfl

theorem State.plain_sbc (s : State) (x : Ctx) (r : BitVec 5) (a : BitVec 5) (b : BitVec 5) : s.Plain x (.sbc x r a b) :=
  ⟨rfl, rfl, rfl, rfl, fun _ => rfl, rfl, rfl⟩

theorem State.Stands.effect_sbc {s : State} {x : Ctx} {r : BitVec 5} {a : BitVec 5} {b : BitVec 5}
    (h : s.Stands x (.sbc x r a b)) : s.effect x (.sbc x r a b) = effSbc r a b (s.at x) := by
  obtain ⟨lb, m, w, wr, ov, t, tf, ds, cl, he⟩ := h.reading_eq
  unfold State.effect
  rw [he]
  rfl

theorem State.plain_adds (s : State) (x : Ctx) (r : BitVec 5) (a : BitVec 5) (b : BitVec 5) : s.Plain x (.adds x r a b) :=
  ⟨rfl, rfl, rfl, rfl, fun _ => rfl, rfl, rfl⟩

theorem State.Stands.effect_adds {s : State} {x : Ctx} {r : BitVec 5} {a : BitVec 5} {b : BitVec 5}
    (h : s.Stands x (.adds x r a b)) : s.effect x (.adds x r a b) = effAdds r a b (s.at x) := by
  obtain ⟨lb, m, w, wr, ov, t, tf, ds, cl, he⟩ := h.reading_eq
  unfold State.effect
  rw [he]
  rfl

theorem State.plain_subs (s : State) (x : Ctx) (r : BitVec 5) (a : BitVec 5) (b : BitVec 5) : s.Plain x (.subs x r a b) :=
  ⟨rfl, rfl, rfl, rfl, fun _ => rfl, rfl, rfl⟩

theorem State.Stands.effect_subs {s : State} {x : Ctx} {r : BitVec 5} {a : BitVec 5} {b : BitVec 5}
    (h : s.Stands x (.subs x r a b)) : s.effect x (.subs x r a b) = effSubs r a b (s.at x) := by
  obtain ⟨lb, m, w, wr, ov, t, tf, ds, cl, he⟩ := h.reading_eq
  unfold State.effect
  rw [he]
  rfl

theorem State.plain_and (s : State) (x : Ctx) (r : BitVec 5) (a : BitVec 5) (b : BitVec 5) : s.Plain x (.and x r a b) :=
  ⟨rfl, rfl, rfl, rfl, fun _ => rfl, rfl, rfl⟩

theorem State.Stands.effect_and {s : State} {x : Ctx} {r : BitVec 5} {a : BitVec 5} {b : BitVec 5}
    (h : s.Stands x (.and x r a b)) : s.effect x (.and x r a b) = effAnd r a b (s.at x) := by
  obtain ⟨lb, m, w, wr, ov, t, tf, ds, cl, he⟩ := h.reading_eq
  unfold State.effect
  rw [he]
  rfl

theorem State.plain_or (s : State) (x : Ctx) (r : BitVec 5) (a : BitVec 5) (b : BitVec 5) : s.Plain x (.or x r a b) :=
  ⟨rfl, rfl, rfl, rfl, fun _ => rfl, rfl, rfl⟩

theorem State.Stands.effect_or {s : State} {x : Ctx} {r : BitVec 5} {a : BitVec 5} {b : BitVec 5}
    (h : s.Stands x (.or x r a b)) : s.effect x (.or x r a b) = effOr r a b (s.at x) := by
  obtain ⟨lb, m, w, wr, ov, t, tf, ds, cl, he⟩ := h.reading_eq
  unfold State.effect
  rw [he]
  rfl

theorem State.plain_xor (s : State) (x : Ctx) (r : BitVec 5) (a : BitVec 5) (b : BitVec 5) : s.Plain x (.xor x r a b) :=
  ⟨rfl, rfl, rfl, rfl, fun _ => rfl, rfl, rfl⟩

theorem State.Stands.effect_xor {s : State} {x : Ctx} {r : BitVec 5} {a : BitVec 5} {b : BitVec 5}
    (h : s.Stands x (.xor x r a b)) : s.effect x (.xor x r a b) = effXor r a b (s.at x) := by
  obtain ⟨lb, m, w, wr, ov, t, tf, ds, cl, he⟩ := h.reading_eq
  unfold State.effect
  rw [he]
  rfl

theorem State.plain_andn (s : State) (x : Ctx) (r : BitVec 5) (a : BitVec 5) (b : BitVec 5) : s.Plain x (.andn x r a b) :=
  ⟨rfl, rfl, rfl, rfl, fun _ => rfl, rfl, rfl⟩

theorem State.Stands.effect_andn {s : State} {x : Ctx} {r : BitVec 5} {a : BitVec 5} {b : BitVec 5}
    (h : s.Stands x (.andn x r a b)) : s.effect x (.andn x r a b) = effAndn r a b (s.at x) := by
  obtain ⟨lb, m, w, wr, ov, t, tf, ds, cl, he⟩ := h.reading_eq
  unfold State.effect
  rw [he]
  rfl

theorem State.plain_cmp (s : State) (x : Ctx) (a : BitVec 5) (b : BitVec 5) : s.Plain x (.cmp x a b) :=
  ⟨rfl, rfl, rfl, rfl, fun _ => rfl, rfl, rfl⟩

theorem State.Stands.effect_cmp {s : State} {x : Ctx} {a : BitVec 5} {b : BitVec 5}
    (h : s.Stands x (.cmp x a b)) : s.effect x (.cmp x a b) = effCmp a b (s.at x) := by
  obtain ⟨lb, m, w, wr, ov, t, tf, ds, cl, he⟩ := h.reading_eq
  unfold State.effect
  rw [he]
  rfl

theorem State.plain_tst (s : State) (x : Ctx) (a : BitVec 5) (b : BitVec 5) : s.Plain x (.tst x a b) :=
  ⟨rfl, rfl, rfl, rfl, fun _ => rfl, rfl, rfl⟩

theorem State.Stands.effect_tst {s : State} {x : Ctx} {a : BitVec 5} {b : BitVec 5}
    (h : s.Stands x (.tst x a b)) : s.effect x (.tst x a b) = effTst a b (s.at x) := by
  obtain ⟨lb, m, w, wr, ov, t, tf, ds, cl, he⟩ := h.reading_eq
  unfold State.effect
  rw [he]
  rfl

theorem State.plain_min (s : State) (x : Ctx) (r : BitVec 5) (a : BitVec 5) (b : BitVec 5) : s.Plain x (.min x r a b) :=
  ⟨rfl, rfl, rfl, rfl, fun _ => rfl, rfl, rfl⟩

theorem State.Stands.effect_min {s : State} {x : Ctx} {r : BitVec 5} {a : BitVec 5} {b : BitVec 5}
    (h : s.Stands x (.min x r a b)) : s.effect x (.min x r a b) = effMin r a b (s.at x) := by
  obtain ⟨lb, m, w, wr, ov, t, tf, ds, cl, he⟩ := h.reading_eq
  unfold State.effect
  rw [he]
  rfl

theorem State.plain_max (s : State) (x : Ctx) (r : BitVec 5) (a : BitVec 5) (b : BitVec 5) : s.Plain x (.max x r a b) :=
  ⟨rfl, rfl, rfl, rfl, fun _ => rfl, rfl, rfl⟩

theorem State.Stands.effect_max {s : State} {x : Ctx} {r : BitVec 5} {a : BitVec 5} {b : BitVec 5}
    (h : s.Stands x (.max x r a b)) : s.effect x (.max x r a b) = effMax r a b (s.at x) := by
  obtain ⟨lb, m, w, wr, ov, t, tf, ds, cl, he⟩ := h.reading_eq
  unfold State.effect
  rw [he]
  rfl

theorem State.plain_neg (s : State) (x : Ctx) (r : BitVec 5) (a : BitVec 5) : s.Plain x (.neg x r a) :=
  ⟨rfl, rfl, rfl, rfl, fun _ => rfl, rfl, rfl⟩

theorem State.Stands.effect_neg {s : State} {x : Ctx} {r : BitVec 5} {a : BitVec 5}
    (h : s.Stands x (.neg x r a)) : s.effect x (.neg x r a) = effNeg r a (s.at x) := by
  obtain ⟨lb, m, w, wr, ov, t, tf, ds, cl, he⟩ := h.reading_eq
  unfold State.effect
  rw [he]
  rfl

theorem State.plain_negs (s : State) (x : Ctx) (r : BitVec 5) (a : BitVec 5) : s.Plain x (.negs x r a) :=
  ⟨rfl, rfl, rfl, rfl, fun _ => rfl, rfl, rfl⟩

theorem State.Stands.effect_negs {s : State} {x : Ctx} {r : BitVec 5} {a : BitVec 5}
    (h : s.Stands x (.negs x r a)) : s.effect x (.negs x r a) = effNegs r a (s.at x) := by
  obtain ⟨lb, m, w, wr, ov, t, tf, ds, cl, he⟩ := h.reading_eq
  unfold State.effect
  rw [he]
  rfl

theorem State.plain_abs (s : State) (x : Ctx) (r : BitVec 5) (a : BitVec 5) : s.Plain x (.abs x r a) :=
  ⟨rfl, rfl, rfl, rfl, fun _ => rfl, rfl, rfl⟩

theorem State.Stands.effect_abs {s : State} {x : Ctx} {r : BitVec 5} {a : BitVec 5}
    (h : s.Stands x (.abs x r a)) : s.effect x (.abs x r a) = effAbs r a (s.at x) := by
  obtain ⟨lb, m, w, wr, ov, t, tf, ds, cl, he⟩ := h.reading_eq
  unfold State.effect
  rw [he]
  rfl

theorem State.plain_abss (s : State) (x : Ctx) (r : BitVec 5) (a : BitVec 5) : s.Plain x (.abss x r a) :=
  ⟨rfl, rfl, rfl, rfl, fun _ => rfl, rfl, rfl⟩

theorem State.Stands.effect_abss {s : State} {x : Ctx} {r : BitVec 5} {a : BitVec 5}
    (h : s.Stands x (.abss x r a)) : s.effect x (.abss x r a) = effAbss r a (s.at x) := by
  obtain ⟨lb, m, w, wr, ov, t, tf, ds, cl, he⟩ := h.reading_eq
  unfold State.effect
  rw [he]
  rfl

theorem State.plain_not (s : State) (x : Ctx) (r : BitVec 5) (a : BitVec 5) : s.Plain x (.not x r a) :=
  ⟨rfl, rfl, rfl, rfl, fun _ => rfl, rfl, rfl⟩

theorem State.Stands.effect_not {s : State} {x : Ctx} {r : BitVec 5} {a : BitVec 5}
    (h : s.Stands x (.not x r a)) : s.effect x (.not x r a) = effNot r a (s.at x) := by
  obtain ⟨lb, m, w, wr, ov, t, tf, ds, cl, he⟩ := h.reading_eq
  unfold State.effect
  rw [he]
  rfl

theorem State.plain_norm (s : State) (x : Ctx) (r : BitVec 5) (a : BitVec 5) : s.Plain x (.norm x r a) :=
  ⟨rfl, rfl, rfl, rfl, fun _ => rfl, rfl, rfl⟩

theorem State.Stands.effect_norm {s : State} {x : Ctx} {r : BitVec 5} {a : BitVec 5}
    (h : s.Stands x (.norm x r a)) : s.effect x (.norm x r a) = effNorm r a (s.at x) := by
  obtain ⟨lb, m, w, wr, ov, t, tf, ds, cl, he⟩ := h.reading_eq
  unfold State.effect
  rw [he]
  rfl

theorem State.plain_sxw (s : State) (x : Ctx) (r : BitVec 5) (a : BitVec 5) : s.Plain x (.sxw x r a) :=
  ⟨rfl, rfl, rfl, rfl, fun _ => rfl, rfl, rfl⟩

theorem State.Stands.effect_sxw {s : State} {x : Ctx} {r : BitVec 5} {a : BitVec 5}
    (h : s.Stands x (.sxw x r a)) : s.effect x (.sxw x r a) = effSxw r a (s.at x) := by
  obtain ⟨lb, m, w, wr, ov, t, tf, ds, cl, he⟩ := h.reading_eq
  unfold State.effect
  rw [he]
  rfl

theorem State.plain_pack (s : State) (x : Ctx) (r : BitVec 5) (a : BitVec 5) (b : BitVec 5) : s.Plain x (.pack x r a b) :=
  ⟨rfl, rfl, rfl, rfl, fun _ => rfl, rfl, rfl⟩

theorem State.Stands.effect_pack {s : State} {x : Ctx} {r : BitVec 5} {a : BitVec 5} {b : BitVec 5}
    (h : s.Stands x (.pack x r a b)) : s.effect x (.pack x r a b) = effPack r a b (s.at x) := by
  obtain ⟨lb, m, w, wr, ov, t, tf, ds, cl, he⟩ := h.reading_eq
  unfold State.effect
  rw [he]
  rfl

theorem State.plain_lsl (s : State) (x : Ctx) (r : BitVec 5) (a : BitVec 5) (b : BitVec 5) : s.Plain x (.lsl x r a b) :=
  ⟨rfl, rfl, rfl, rfl, fun _ => rfl, rfl, rfl⟩

theorem State.Stands.effect_lsl {s : State} {x : Ctx} {r : BitVec 5} {a : BitVec 5} {b : BitVec 5}
    (h : s.Stands x (.lsl x r a b)) : s.effect x (.lsl x r a b) = effLsl r a b (s.at x) := by
  obtain ⟨lb, m, w, wr, ov, t, tf, ds, cl, he⟩ := h.reading_eq
  unfold State.effect
  rw [he]
  rfl

theorem State.plain_lsr (s : State) (x : Ctx) (r : BitVec 5) (a : BitVec 5) (b : BitVec 5) : s.Plain x (.lsr x r a b) :=
  ⟨rfl, rfl, rfl, rfl, fun _ => rfl, rfl, rfl⟩

theorem State.Stands.effect_lsr {s : State} {x : Ctx} {r : BitVec 5} {a : BitVec 5} {b : BitVec 5}
    (h : s.Stands x (.lsr x r a b)) : s.effect x (.lsr x r a b) = effLsr r a b (s.at x) := by
  obtain ⟨lb, m, w, wr, ov, t, tf, ds, cl, he⟩ := h.reading_eq
  unfold State.effect
  rw [he]
  rfl

theorem State.plain_asr (s : State) (x : Ctx) (r : BitVec 5) (a : BitVec 5) (b : BitVec 5) : s.Plain x (.asr x r a b) :=
  ⟨rfl, rfl, rfl, rfl, fun _ => rfl, rfl, rfl⟩

theorem State.Stands.effect_asr {s : State} {x : Ctx} {r : BitVec 5} {a : BitVec 5} {b : BitVec 5}
    (h : s.Stands x (.asr x r a b)) : s.effect x (.asr x r a b) = effAsr r a b (s.at x) := by
  obtain ⟨lb, m, w, wr, ov, t, tf, ds, cl, he⟩ := h.reading_eq
  unfold State.effect
  rw [he]
  rfl

theorem State.plain_ror (s : State) (x : Ctx) (r : BitVec 5) (a : BitVec 5) (b : BitVec 5) : s.Plain x (.ror x r a b) :=
  ⟨rfl, rfl, rfl, rfl, fun _ => rfl, rfl, rfl⟩

theorem State.Stands.effect_ror {s : State} {x : Ctx} {r : BitVec 5} {a : BitVec 5} {b : BitVec 5}
    (h : s.Stands x (.ror x r a b)) : s.effect x (.ror x r a b) = effRor r a b (s.at x) := by
  obtain ⟨lb, m, w, wr, ov, t, tf, ds, cl, he⟩ := h.reading_eq
  unfold State.effect
  rw [he]
  rfl

theorem State.plain_rol (s : State) (x : Ctx) (r : BitVec 5) (a : BitVec 5) (b : BitVec 5) : s.Plain x (.rol x r a b) :=
  ⟨rfl, rfl, rfl, rfl, fun _ => rfl, rfl, rfl⟩

theorem State.Stands.effect_rol {s : State} {x : Ctx} {r : BitVec 5} {a : BitVec 5} {b : BitVec 5}
    (h : s.Stands x (.rol x r a b)) : s.effect x (.rol x r a b) = effRol r a b (s.at x) := by
  obtain ⟨lb, m, w, wr, ov, t, tf, ds, cl, he⟩ := h.reading_eq
  unfold State.effect
  rw [he]
  rfl

theorem State.plain_div (s : State) (x : Ctx) (r : BitVec 5) (a : BitVec 5) (b : BitVec 5) : s.Plain x (.div x r a b) :=
  ⟨rfl, rfl, rfl, rfl, fun _ => rfl, rfl, rfl⟩

theorem State.Stands.effect_div {s : State} {x : Ctx} {r : BitVec 5} {a : BitVec 5} {b : BitVec 5}
    (h : s.Stands x (.div x r a b)) : s.effect x (.div x r a b) = effDiv r a b (s.at x) := by
  obtain ⟨lb, m, w, wr, ov, t, tf, ds, cl, he⟩ := h.reading_eq
  unfold State.effect
  rw [he]
  rfl

theorem State.plain_addi (s : State) (x : Ctx) (r : BitVec 5) (a : BitVec 5) (n : BitVec 6) : s.Plain x (.addi x r a n) :=
  ⟨rfl, rfl, rfl, rfl, fun _ => rfl, rfl, rfl⟩

theorem State.Stands.effect_addi {s : State} {x : Ctx} {r : BitVec 5} {a : BitVec 5} {n : BitVec 6}
    (h : s.Stands x (.addi x r a n)) : s.effect x (.addi x r a n) = effAddi r a n (s.at x) := by
  obtain ⟨lb, m, w, wr, ov, t, tf, ds, cl, he⟩ := h.reading_eq
  unfold State.effect
  rw [he]
  rfl

theorem State.plain_cmpi (s : State) (x : Ctx) (a : BitVec 5) (n : BitVec 6) : s.Plain x (.cmpi x a n) :=
  ⟨rfl, rfl, rfl, rfl, fun _ => rfl, rfl, rfl⟩

theorem State.Stands.effect_cmpi {s : State} {x : Ctx} {a : BitVec 5} {n : BitVec 6}
    (h : s.Stands x (.cmpi x a n)) : s.effect x (.cmpi x a n) = effCmpi a n (s.at x) := by
  obtain ⟨lb, m, w, wr, ov, t, tf, ds, cl, he⟩ := h.reading_eq
  unfold State.effect
  rw [he]
  rfl

theorem State.plain_lsli (s : State) (x : Ctx) (r : BitVec 5) (a : BitVec 5) (n : BitVec 6) : s.Plain x (.lsli x r a n) :=
  ⟨rfl, rfl, rfl, rfl, fun _ => rfl, rfl, rfl⟩

theorem State.Stands.effect_lsli {s : State} {x : Ctx} {r : BitVec 5} {a : BitVec 5} {n : BitVec 6}
    (h : s.Stands x (.lsli x r a n)) : s.effect x (.lsli x r a n) = effLsli r a n (s.at x) := by
  obtain ⟨lb, m, w, wr, ov, t, tf, ds, cl, he⟩ := h.reading_eq
  unfold State.effect
  rw [he]
  rfl

theorem State.plain_lsri (s : State) (x : Ctx) (r : BitVec 5) (a : BitVec 5) (n : BitVec 6) : s.Plain x (.lsri x r a n) :=
  ⟨rfl, rfl, rfl, rfl, fun _ => rfl, rfl, rfl⟩

theorem State.Stands.effect_lsri {s : State} {x : Ctx} {r : BitVec 5} {a : BitVec 5} {n : BitVec 6}
    (h : s.Stands x (.lsri x r a n)) : s.effect x (.lsri x r a n) = effLsri r a n (s.at x) := by
  obtain ⟨lb, m, w, wr, ov, t, tf, ds, cl, he⟩ := h.reading_eq
  unfold State.effect
  rw [he]
  rfl

theorem State.plain_asri (s : State) (x : Ctx) (r : BitVec 5) (a : BitVec 5) (n : BitVec 6) : s.Plain x (.asri x r a n) :=
  ⟨rfl, rfl, rfl, rfl, fun _ => rfl, rfl, rfl⟩

theorem State.Stands.effect_asri {s : State} {x : Ctx} {r : BitVec 5} {a : BitVec 5} {n : BitVec 6}
    (h : s.Stands x (.asri x r a n)) : s.effect x (.asri x r a n) = effAsri r a n (s.at x) := by
  obtain ⟨lb, m, w, wr, ov, t, tf, ds, cl, he⟩ := h.reading_eq
  unfold State.effect
  rw [he]
  rfl

theorem State.plain_rori (s : State) (x : Ctx) (r : BitVec 5) (a : BitVec 5) (n : BitVec 6) : s.Plain x (.rori x r a n) :=
  ⟨rfl, rfl, rfl, rfl, fun _ => rfl, rfl, rfl⟩

theorem State.Stands.effect_rori {s : State} {x : Ctx} {r : BitVec 5} {a : BitVec 5} {n : BitVec 6}
    (h : s.Stands x (.rori x r a n)) : s.effect x (.rori x r a n) = effRori r a n (s.at x) := by
  obtain ⟨lb, m, w, wr, ov, t, tf, ds, cl, he⟩ := h.reading_eq
  unfold State.effect
  rw [he]
  rfl

theorem State.plain_roli (s : State) (x : Ctx) (r : BitVec 5) (a : BitVec 5) (n : BitVec 6) : s.Plain x (.roli x r a n) :=
  ⟨rfl, rfl, rfl, rfl, fun _ => rfl, rfl, rfl⟩

theorem State.Stands.effect_roli {s : State} {x : Ctx} {r : BitVec 5} {a : BitVec 5} {n : BitVec 6}
    (h : s.Stands x (.roli x r a n)) : s.effect x (.roli x r a n) = effRoli r a n (s.at x) := by
  obtain ⟨lb, m, w, wr, ov, t, tf, ds, cl, he⟩ := h.reading_eq
  unfold State.effect
  rw [he]
  rfl

theorem State.plain_movi (s : State) (x : Ctx) (r : BitVec 5) (n : BitVec 11) : s.Plain x (.movi x r n) :=
  ⟨rfl, rfl, rfl, rfl, fun _ => rfl, rfl, rfl⟩

theorem State.Stands.effect_movi {s : State} {x : Ctx} {r : BitVec 5} {n : BitVec 11}
    (h : s.Stands x (.movi x r n)) : s.effect x (.movi x r n) = effMovi r n := by
  obtain ⟨lb, m, w, wr, ov, t, tf, ds, cl, he⟩ := h.reading_eq
  unfold State.effect
  rw [he]
  rfl

theorem State.plain_movh (s : State) (x : Ctx) (r : BitVec 5) (n : BitVec 11) : s.Plain x (.movh x r n) :=
  ⟨rfl, rfl, rfl, rfl, fun _ => rfl, rfl, rfl⟩

theorem State.Stands.effect_movh {s : State} {x : Ctx} {r : BitVec 5} {n : BitVec 11}
    (h : s.Stands x (.movh x r n)) : s.effect x (.movh x r n) = effMovh r n := by
  obtain ⟨lb, m, w, wr, ov, t, tf, ds, cl, he⟩ := h.reading_eq
  unfold State.effect
  rw [he]
  rfl

theorem State.plain_movm (s : State) (x : Ctx) (r : BitVec 5) (n : BitVec 11) : s.Plain x (.movm x r n) :=
  ⟨rfl, rfl, rfl, rfl, fun _ => rfl, rfl, rfl⟩

theorem State.Stands.effect_movm {s : State} {x : Ctx} {r : BitVec 5} {n : BitVec 11}
    (h : s.Stands x (.movm x r n)) : s.effect x (.movm x r n) = effMovm r n := by
  obtain ⟨lb, m, w, wr, ov, t, tf, ds, cl, he⟩ := h.reading_eq
  unfold State.effect
  rw [he]
  rfl

theorem State.plain_movl (s : State) (x : Ctx) (r : BitVec 5) (n : BitVec 6) : s.Plain x (.movl x r n) :=
  ⟨rfl, rfl, rfl, rfl, fun _ => rfl, rfl, rfl⟩

theorem State.Stands.effect_movl {s : State} {x : Ctx} {r : BitVec 5} {n : BitVec 6}
    (h : s.Stands x (.movl x r n)) : s.effect x (.movl x r n) = effMovl r n := by
  obtain ⟨lb, m, w, wr, ov, t, tf, ds, cl, he⟩ := h.reading_eq
  unfold State.effect
  rw [he]
  rfl

theorem State.plain_addw (s : State) (x : Ctx) (r : Half) (a : Half) (b : Half) : s.Plain x (.addw x r a b) :=
  ⟨rfl, rfl, rfl, rfl, fun _ => rfl, rfl, rfl⟩

theorem State.Stands.effect_addw {s : State} {x : Ctx} {r : Half} {a : Half} {b : Half}
    (h : s.Stands x (.addw x r a b)) : s.effect x (.addw x r a b) = effAddw r a b (s.at x) := by
  obtain ⟨lb, m, w, wr, ov, t, tf, ds, cl, he⟩ := h.reading_eq
  unfold State.effect
  rw [he]
  rfl

theorem State.plain_subw (s : State) (x : Ctx) (r : Half) (a : Half) (b : Half) : s.Plain x (.subw x r a b) :=
  ⟨rfl, rfl, rfl, rfl, fun _ => rfl, rfl, rfl⟩

theorem State.Stands.effect_subw {s : State} {x : Ctx} {r : Half} {a : Half} {b : Half}
    (h : s.Stands x (.subw x r a b)) : s.effect x (.subw x r a b) = effSubw r a b (s.at x) := by
  obtain ⟨lb, m, w, wr, ov, t, tf, ds, cl, he⟩ := h.reading_eq
  unfold State.effect
  rw [he]
  rfl

theorem State.plain_addsw (s : State) (x : Ctx) (r : Half) (a : Half) (b : Half) : s.Plain x (.addsw x r a b) :=
  ⟨rfl, rfl, rfl, rfl, fun _ => rfl, rfl, rfl⟩

theorem State.Stands.effect_addsw {s : State} {x : Ctx} {r : Half} {a : Half} {b : Half}
    (h : s.Stands x (.addsw x r a b)) : s.effect x (.addsw x r a b) = effAddsw r a b (s.at x) := by
  obtain ⟨lb, m, w, wr, ov, t, tf, ds, cl, he⟩ := h.reading_eq
  unfold State.effect
  rw [he]
  rfl

theorem State.plain_subsw (s : State) (x : Ctx) (r : Half) (a : Half) (b : Half) : s.Plain x (.subsw x r a b) :=
  ⟨rfl, rfl, rfl, rfl, fun _ => rfl, rfl, rfl⟩

theorem State.Stands.effect_subsw {s : State} {x : Ctx} {r : Half} {a : Half} {b : Half}
    (h : s.Stands x (.subsw x r a b)) : s.effect x (.subsw x r a b) = effSubsw r a b (s.at x) := by
  obtain ⟨lb, m, w, wr, ov, t, tf, ds, cl, he⟩ := h.reading_eq
  unfold State.effect
  rw [he]
  rfl

theorem State.plain_cmpw (s : State) (x : Ctx) (a : Half) (b : Half) : s.Plain x (.cmpw x a b) :=
  ⟨rfl, rfl, rfl, rfl, fun _ => rfl, rfl, rfl⟩

theorem State.Stands.effect_cmpw {s : State} {x : Ctx} {a : Half} {b : Half}
    (h : s.Stands x (.cmpw x a b)) : s.effect x (.cmpw x a b) = effCmpw a b (s.at x) := by
  obtain ⟨lb, m, w, wr, ov, t, tf, ds, cl, he⟩ := h.reading_eq
  unfold State.effect
  rw [he]
  rfl

theorem State.plain_negw (s : State) (x : Ctx) (r : Half) (a : Half) : s.Plain x (.negw x r a) :=
  ⟨rfl, rfl, rfl, rfl, fun _ => rfl, rfl, rfl⟩

theorem State.Stands.effect_negw {s : State} {x : Ctx} {r : Half} {a : Half}
    (h : s.Stands x (.negw x r a)) : s.effect x (.negw x r a) = effNegw r a (s.at x) := by
  obtain ⟨lb, m, w, wr, ov, t, tf, ds, cl, he⟩ := h.reading_eq
  unfold State.effect
  rw [he]
  rfl

theorem State.plain_negsw (s : State) (x : Ctx) (r : Half) (a : Half) : s.Plain x (.negsw x r a) :=
  ⟨rfl, rfl, rfl, rfl, fun _ => rfl, rfl, rfl⟩

theorem State.Stands.effect_negsw {s : State} {x : Ctx} {r : Half} {a : Half}
    (h : s.Stands x (.negsw x r a)) : s.effect x (.negsw x r a) = effNegsw r a (s.at x) := by
  obtain ⟨lb, m, w, wr, ov, t, tf, ds, cl, he⟩ := h.reading_eq
  unfold State.effect
  rw [he]
  rfl

theorem State.plain_absw (s : State) (x : Ctx) (r : Half) (a : Half) : s.Plain x (.absw x r a) :=
  ⟨rfl, rfl, rfl, rfl, fun _ => rfl, rfl, rfl⟩

theorem State.Stands.effect_absw {s : State} {x : Ctx} {r : Half} {a : Half}
    (h : s.Stands x (.absw x r a)) : s.effect x (.absw x r a) = effAbsw r a (s.at x) := by
  obtain ⟨lb, m, w, wr, ov, t, tf, ds, cl, he⟩ := h.reading_eq
  unfold State.effect
  rw [he]
  rfl

theorem State.plain_abssw (s : State) (x : Ctx) (r : Half) (a : Half) : s.Plain x (.abssw x r a) :=
  ⟨rfl, rfl, rfl, rfl, fun _ => rfl, rfl, rfl⟩

theorem State.Stands.effect_abssw {s : State} {x : Ctx} {r : Half} {a : Half}
    (h : s.Stands x (.abssw x r a)) : s.effect x (.abssw x r a) = effAbssw r a (s.at x) := by
  obtain ⟨lb, m, w, wr, ov, t, tf, ds, cl, he⟩ := h.reading_eq
  unfold State.effect
  rw [he]
  rfl

theorem State.plain_minw (s : State) (x : Ctx) (r : Half) (a : Half) (b : Half) : s.Plain x (.minw x r a b) :=
  ⟨rfl, rfl, rfl, rfl, fun _ => rfl, rfl, rfl⟩

theorem State.Stands.effect_minw {s : State} {x : Ctx} {r : Half} {a : Half} {b : Half}
    (h : s.Stands x (.minw x r a b)) : s.effect x (.minw x r a b) = effMinw r a b (s.at x) := by
  obtain ⟨lb, m, w, wr, ov, t, tf, ds, cl, he⟩ := h.reading_eq
  unfold State.effect
  rw [he]
  rfl

theorem State.plain_maxw (s : State) (x : Ctx) (r : Half) (a : Half) (b : Half) : s.Plain x (.maxw x r a b) :=
  ⟨rfl, rfl, rfl, rfl, fun _ => rfl, rfl, rfl⟩

theorem State.Stands.effect_maxw {s : State} {x : Ctx} {r : Half} {a : Half} {b : Half}
    (h : s.Stands x (.maxw x r a b)) : s.effect x (.maxw x r a b) = effMaxw r a b (s.at x) := by
  obtain ⟨lb, m, w, wr, ov, t, tf, ds, cl, he⟩ := h.reading_eq
  unfold State.effect
  rw [he]
  rfl

theorem State.plain_lslw (s : State) (x : Ctx) (r : Half) (a : Half) (b : Half) : s.Plain x (.lslw x r a b) :=
  ⟨rfl, rfl, rfl, rfl, fun _ => rfl, rfl, rfl⟩

theorem State.Stands.effect_lslw {s : State} {x : Ctx} {r : Half} {a : Half} {b : Half}
    (h : s.Stands x (.lslw x r a b)) : s.effect x (.lslw x r a b) = effLslw r a b (s.at x) := by
  obtain ⟨lb, m, w, wr, ov, t, tf, ds, cl, he⟩ := h.reading_eq
  unfold State.effect
  rw [he]
  rfl

theorem State.plain_lsrw (s : State) (x : Ctx) (r : Half) (a : Half) (b : Half) : s.Plain x (.lsrw x r a b) :=
  ⟨rfl, rfl, rfl, rfl, fun _ => rfl, rfl, rfl⟩

theorem State.Stands.effect_lsrw {s : State} {x : Ctx} {r : Half} {a : Half} {b : Half}
    (h : s.Stands x (.lsrw x r a b)) : s.effect x (.lsrw x r a b) = effLsrw r a b (s.at x) := by
  obtain ⟨lb, m, w, wr, ov, t, tf, ds, cl, he⟩ := h.reading_eq
  unfold State.effect
  rw [he]
  rfl

theorem State.plain_asrw (s : State) (x : Ctx) (r : Half) (a : Half) (b : Half) : s.Plain x (.asrw x r a b) :=
  ⟨rfl, rfl, rfl, rfl, fun _ => rfl, rfl, rfl⟩

theorem State.Stands.effect_asrw {s : State} {x : Ctx} {r : Half} {a : Half} {b : Half}
    (h : s.Stands x (.asrw x r a b)) : s.effect x (.asrw x r a b) = effAsrw r a b (s.at x) := by
  obtain ⟨lb, m, w, wr, ov, t, tf, ds, cl, he⟩ := h.reading_eq
  unfold State.effect
  rw [he]
  rfl

theorem State.plain_rorw (s : State) (x : Ctx) (r : Half) (a : Half) (b : Half) : s.Plain x (.rorw x r a b) :=
  ⟨rfl, rfl, rfl, rfl, fun _ => rfl, rfl, rfl⟩

theorem State.Stands.effect_rorw {s : State} {x : Ctx} {r : Half} {a : Half} {b : Half}
    (h : s.Stands x (.rorw x r a b)) : s.effect x (.rorw x r a b) = effRorw r a b (s.at x) := by
  obtain ⟨lb, m, w, wr, ov, t, tf, ds, cl, he⟩ := h.reading_eq
  unfold State.effect
  rw [he]
  rfl

theorem State.plain_movw (s : State) (x : Ctx) (r : Half) (a : Half) : s.Plain x (.movw x r a) :=
  ⟨rfl, rfl, rfl, rfl, fun _ => rfl, rfl, rfl⟩

theorem State.Stands.effect_movw {s : State} {x : Ctx} {r : Half} {a : Half}
    (h : s.Stands x (.movw x r a)) : s.effect x (.movw x r a) = effMovw r a (s.at x) := by
  obtain ⟨lb, m, w, wr, ov, t, tf, ds, cl, he⟩ := h.reading_eq
  unfold State.effect
  rw [he]
  rfl

theorem State.plain_mac (s : State) (x : Ctx) (o : MacOps) : s.Plain x (.mac x o) :=
  ⟨rfl, rfl, rfl, rfl, fun _ => rfl, rfl, rfl⟩

theorem State.Stands.effect_mac {s : State} {x : Ctx} {o : MacOps}
    (h : s.Stands x (.mac x o)) : s.effect x (.mac x o) = effMac o (s.at x) := by
  obtain ⟨lb, m, w, wr, ov, t, tf, ds, cl, he⟩ := h.reading_eq
  unfold State.effect
  rw [he]
  rfl

theorem State.plain_mpy (s : State) (x : Ctx) (o : MacOps) : s.Plain x (.mpy x o) :=
  ⟨rfl, rfl, rfl, rfl, fun _ => rfl, rfl, rfl⟩

theorem State.Stands.effect_mpy {s : State} {x : Ctx} {o : MacOps}
    (h : s.Stands x (.mpy x o)) : s.effect x (.mpy x o) = effMpy o (s.at x) := by
  obtain ⟨lb, m, w, wr, ov, t, tf, ds, cl, he⟩ := h.reading_eq
  unfold State.effect
  rw [he]
  rfl

theorem State.plain_macw (s : State) (x : Ctx) (o : MacOps) : s.Plain x (.macw x o) :=
  ⟨rfl, rfl, rfl, rfl, fun _ => rfl, rfl, rfl⟩

theorem State.Stands.effect_macw {s : State} {x : Ctx} {o : MacOps}
    (h : s.Stands x (.macw x o)) : s.effect x (.macw x o) = effMacw o (s.at x) := by
  obtain ⟨lb, m, w, wr, ov, t, tf, ds, cl, he⟩ := h.reading_eq
  unfold State.effect
  rw [he]
  rfl

theorem State.plain_mpyw (s : State) (x : Ctx) (o : MacOps) : s.Plain x (.mpyw x o) :=
  ⟨rfl, rfl, rfl, rfl, fun _ => rfl, rfl, rfl⟩

theorem State.Stands.effect_mpyw {s : State} {x : Ctx} {o : MacOps}
    (h : s.Stands x (.mpyw x o)) : s.effect x (.mpyw x o) = effMpyw o (s.at x) := by
  obtain ⟨lb, m, w, wr, ov, t, tf, ds, cl, he⟩ := h.reading_eq
  unfold State.effect
  rw [he]
  rfl

theorem State.plain_ext (s : State) (x : Ctx) (u0 : Bool) (r : BitVec 5) (a : BitVec 2) (n : BitVec 6) (clip : Bool) (k : Bool) : s.Plain x (.ext x u0 r a n clip k) :=
  ⟨rfl, rfl, rfl, rfl, fun _ => rfl, rfl, rfl⟩

theorem State.Stands.effect_ext {s : State} {x : Ctx} {u0 : Bool} {r : BitVec 5} {a : BitVec 2} {n : BitVec 6} {clip : Bool} {k : Bool}
    (h : s.Stands x (.ext x u0 r a n clip k)) : s.effect x (.ext x u0 r a n clip k) = effExt r a n clip k (s.at x) := by
  obtain ⟨lb, m, w, wr, ov, t, tf, ds, cl, he⟩ := h.reading_eq
  unfold State.effect
  rw [he]
  rfl

theorem State.plain_extw (s : State) (x : Ctx) (u0 : Bool) (r : BitVec 5) (a : BitVec 2) (n : BitVec 6) (clip : Bool) (k : Bool) : s.Plain x (.extw x u0 r a n clip k) :=
  ⟨rfl, rfl, rfl, rfl, fun _ => rfl, rfl, rfl⟩

theorem State.Stands.effect_extw {s : State} {x : Ctx} {u0 : Bool} {r : BitVec 5} {a : BitVec 2} {n : BitVec 6} {clip : Bool} {k : Bool}
    (h : s.Stands x (.extw x u0 r a n clip k)) : s.effect x (.extw x u0 r a n clip k) = effExtw r a n clip k (s.at x) := by
  obtain ⟨lb, m, w, wr, ov, t, tf, ds, cl, he⟩ := h.reading_eq
  unfold State.effect
  rw [he]
  rfl

theorem State.plain_clra (s : State) (x : Ctx) (u0 : Bool) (a : BitVec 2) : s.Plain x (.clra x u0 a) :=
  ⟨rfl, rfl, rfl, rfl, fun _ => rfl, rfl, rfl⟩

theorem State.Stands.effect_clra {s : State} {x : Ctx} {u0 : Bool} {a : BitVec 2}
    (h : s.Stands x (.clra x u0 a)) : s.effect x (.clra x u0 a) = effClra a := by
  obtain ⟨lb, m, w, wr, ov, t, tf, ds, cl, he⟩ := h.reading_eq
  unfold State.effect
  rw [he]
  rfl

theorem State.plain_lda (s : State) (x : Ctx) (u0 : Bool) (r : BitVec 5) (a : BitVec 2) (n : BitVec 6) : s.Plain x (.lda x u0 r a n) :=
  ⟨rfl, rfl, rfl, rfl, fun _ => rfl, rfl, rfl⟩

theorem State.Stands.effect_lda {s : State} {x : Ctx} {u0 : Bool} {r : BitVec 5} {a : BitVec 2} {n : BitVec 6}
    (h : s.Stands x (.lda x u0 r a n)) : s.effect x (.lda x u0 r a n) = effLda r a n (s.at x) := by
  obtain ⟨lb, m, w, wr, ov, t, tf, ds, cl, he⟩ := h.reading_eq
  unfold State.effect
  rw [he]
  rfl

theorem State.plain_ldw (s : State) (x : Ctx) (o : LsOps) : s.Plain x (.ldw x o) :=
  ⟨rfl, rfl, rfl, rfl, fun _ => rfl, rfl, rfl⟩

theorem State.plain_ldwl (s : State) (x : Ctx) (o : LsOps) : s.Plain x (.ldwl x o) :=
  ⟨rfl, rfl, rfl, rfl, fun _ => rfl, rfl, rfl⟩

theorem State.plain_ld (s : State) (x : Ctx) (o : LsOps) : s.Plain x (.ld x o) :=
  ⟨rfl, rfl, rfl, rfl, fun _ => rfl, rfl, rfl⟩

theorem State.plain_ldp (s : State) (x : Ctx) (o : LsOps) : s.Plain x (.ldp x o) :=
  ⟨rfl, rfl, rfl, rfl, fun _ => rfl, rfl, rfl⟩

theorem State.plain_ldwh (s : State) (x : Ctx) (o : LsOps) : s.Plain x (.ldwh x o) :=
  ⟨rfl, rfl, rfl, rfl, fun _ => rfl, rfl, rfl⟩

theorem State.plain_stw (s : State) (x : Ctx) (o : LsOps) : s.Plain x (.stw x o) :=
  ⟨rfl, rfl, rfl, rfl, fun _ => rfl, rfl, rfl⟩

theorem State.plain_stwh (s : State) (x : Ctx) (o : LsOps) : s.Plain x (.stwh x o) :=
  ⟨rfl, rfl, rfl, rfl, fun _ => rfl, rfl, rfl⟩

theorem State.plain_st (s : State) (x : Ctx) (o : LsOps) : s.Plain x (.st x o) :=
  ⟨rfl, rfl, rfl, rfl, fun _ => rfl, rfl, rfl⟩

theorem State.plain_stp (s : State) (x : Ctx) (o : LsOps) : s.Plain x (.stp x o) :=
  ⟨rfl, rfl, rfl, rfl, fun _ => rfl, rfl, rfl⟩

theorem State.plain_pmod (s : State) (x : Ctx) (p : BitVec 3) (am : BitVec 2) (m : BitVec 3) : s.Plain x (.pmod x p am m) :=
  ⟨rfl, rfl, rfl, rfl, fun _ => rfl, rfl, rfl⟩

theorem State.Stands.effect_pmod {s : State} {x : Ctx} {p : BitVec 3} {am : BitVec 2} {m : BitVec 3}
    (h : s.Stands x (.pmod x p am m)) : s.effect x (.pmod x p am m) = effPmod p am m (s.at x) := by
  obtain ⟨lb, m, w, wr, ov, t, tf, ds, cl, he⟩ := h.reading_eq
  unfold State.effect
  rw [he]
  rfl

end Sys2Proof.Machine
end

