-- ==== Sys2Proof/Laws/Values.lean ====
section
/-! SUPPORT. The results and flags that the ALU and the MAC units compute, in the terms that statements use. -/

namespace Sys2Proof.Machine

/-! Register lists. -/

theorem maskPut_full (a v : DW) : maskPut a fullMask v = v := by
  unfold maskPut fullMask
  apply BitVec.eq_of_getLsbD_eq
  intro j hj
  have : (0xFFFFFFF#28).getLsbD j = true :=
    (by decide : ∀ j : Fin 28, (0xFFFFFFF#28).getLsbD j.val = true) ⟨j, hj⟩
  simp [hj, this]

theorem Core.grAre_nil (c : Core) : c.GrAre { c with gr := grFold c.gr [] } [] := ⟨fun _ h => absurd h List.not_mem_nil, fun _ _ => rfl⟩

theorem Core.accAre_nil (c : Core) : c.AccAre { c with acc := accFold c.acc [] } [] :=
  ⟨fun _ h => absurd h List.not_mem_nil, fun _ _ => rfl⟩

/-- One register takes a value under a mask. -/
theorem Core.grAre_mask (c : Core) (n : Nat) (m v w : DW) (h : maskPut (c.g n) m v = w) :
    c.GrAre { c with gr := grFold c.gr [(n, m, v)] } [(n, w)] := by
  constructor
  · intro e he
    simp only [List.mem_singleton] at he
    subst he
    rw [← h]
    simp [Core.g, grFold]
  · intro k hk
    simp only [List.map_cons, List.map_nil, List.mem_singleton] at hk
    simp [Core.g, grFold, tabGet_tabSet_ne _ _ _ hk]

theorem Core.grAre_one (c : Core) (n : Nat) (v : DW) : c.GrAre { c with gr := grFold c.gr [(n, fullMask, v)] } [(n, v)] :=
  c.grAre_mask n fullMask v v (maskPut_full _ _)

theorem Core.grAre_two (c : Core) (n m : Nat) (v w : DW) (h : n ≠ m) :
    c.GrAre { c with gr := grFold c.gr [(n, fullMask, v), (m, fullMask, w)] } [(n, v), (m, w)] := by
  constructor
  · intro e he
    simp only [List.mem_cons, List.not_mem_nil, or_false] at he
    rcases he with rfl | rfl
    · simp [Core.g, grFold, maskPut_full, tabGet_tabSet_ne _ _ _ h]
    · simp [Core.g, grFold, maskPut_full]
  · intro k hk
    simp only [List.map_cons, List.map_nil, List.mem_cons, List.not_mem_nil, or_false, not_or] at hk
    simp [Core.g, grFold, tabGet_tabSet_ne _ _ _ hk.1, tabGet_tabSet_ne _ _ _ hk.2]

theorem Core.accAre_one (c : Core) (n : Nat) (v : Acc) : c.AccAre { c with acc := accFold c.acc [(n, v)] } [(n, v)] := by
  constructor
  · intro e he
    simp only [List.mem_singleton] at he
    subst he
    simp [accFold]
  · intro k hk
    simp only [List.map_cons, List.map_nil, List.mem_singleton] at hk
    simp [accFold, tabGet_tabSet_ne _ _ _ hk]

/-! Exact values and what is narrowed. -/

theorem outside_eq (w : Nat) (v : Int) : outside w v = !fits w v := by
  unfold outside fits minOf maxOf
  rw [Bool.not_and]
  congr 1
  · rw [← decide_not]; congr 1; simp
  · rw [← decide_not]; congr 1; simp only [Int.not_le, eq_iff_iff]; omega

theorem satBits_eq (w : Nat) (v : Int) : satBits w v = sat w v := by
  have hp : (0 : Int) < 2 ^ (w - 1) := Int.pow_pos (by decide)
  unfold satBits sat minOf maxOf
  split
  · congr 1; omega
  · split
    · congr 1; omega
    · congr 1; omega

theorem flagsZN_eq {w : Nat} (r : BitVec w) (c v : Option Bool) : flagsZN r c v = ⟨(zn r c v).z, (zn r c v).n, c, v⟩ := rfl

/-! One ALU result. -/

/-- A DW result in Dd. -/
theorem State.Plain.puts {s : State} {x : Ctx} {i : Instr} (p : s.Plain x i) {d : BitVec 5} {o : AluOut 28} {r : DW}
    {c v : Option Bool} {b : Bool} (he : s.Stands x i → s.effect x i = Eff.alu d o) (hr : o.res = r)
    (hf : o.flags = ⟨(zn r c v).z, (zn r c v).n, c, v⟩) (hs : o.sat = b) : Puts s x i d r c v b :=
  p.computes he rfl rfl rfl (by subst hr; exact Core.grAre_one _ _ _) (Core.accAre_nil _) hf hs rfl

/-- A half takes a value. -/
theorem maskPut_half (old : DW) (hi : Bool) (v : W) : maskPut old (halfMask hi) (halfPut hi v) = putHalf old hi v := by
  have hm : ∀ j, j < 28 → (0xFFFC000 : DW).getLsbD j = decide (14 ≤ j) := fun j hj =>
    (by decide : ∀ j : Fin 28, (0xFFFC000 : DW).getLsbD j.val = decide (14 ≤ j.val)) ⟨j, hj⟩
  have hl : ∀ j, j < 28 → (0x0003FFF : DW).getLsbD j = decide (j < 14) := fun j hj =>
    (by decide : ∀ j : Fin 28, (0x0003FFF : DW).getLsbD j.val = decide (j.val < 14)) ⟨j, hj⟩
  apply BitVec.eq_of_getLsbD_eq
  intro j hj
  cases hi <;> unfold maskPut halfMask halfPut putHalf <;>
    simp only [Bool.false_eq_true, if_false, if_true, BitVec.getLsbD_or, BitVec.getLsbD_and, BitVec.getLsbD_not, hj, decide_true,
      Bool.true_and, BitVec.getLsbD_append, BitVec.getLsbD_setWidth, BitVec.getLsbD_extractLsb', BitVec.getLsbD_shiftLeft]
  · rw [hl j hj]
    by_cases h : j < 14
    · simp [h]
    · simp [h, show 14 + (j - 14) = j by omega]; omega
  · rw [hm j hj]
    by_cases h : j < 14
    · simp [h]
    · simp [h, show 14 ≤ j by omega, show j - 14 < 28 by omega]

/-- A W result in a half. -/
theorem State.Plain.putsHalf {s : State} {x : Ctx} {i : Instr} (p : s.Plain x i) {d : Half} {o : AluOut 14} {r : W}
    {c v : Option Bool} {b : Bool} (he : s.Stands x i → s.effect x i = Eff.aluW d o) (hr : o.res = r)
    (hf : o.flags = ⟨(zn r c v).z, (zn r c v).n, c, v⟩) (hs : o.sat = b) : PutsHalf s x i d r c v b :=
  p.computes he rfl rfl rfl (by subst hr; exact Core.grAre_mask _ _ _ _ _ (maskPut_half _ _ _)) (Core.accAre_nil _) hf hs rfl

/-- Flags only. -/
theorem State.Plain.compares {s : State} {x : Ctx} {i : Instr} {w : Nat} (p : s.Plain x i) {o : AluOut w} {r : BitVec w}
    {c v : Option Bool} (he : s.Stands x i → s.effect x i = Eff.flagsOnly o) (hf : o.flags = ⟨(zn r c v).z, (zn r c v).n, c, v⟩) :
    Compares s x i r c v := p.computes he rfl rfl rfl (Core.grAre_nil _) (Core.accAre_nil _) hf rfl rfl

/-- A value in Dd, no flag. -/
theorem State.Plain.gives {s : State} {x : Ctx} {i : Instr} (p : s.Plain x i) {d : BitVec 5} {v : DW}
    (he : s.Stands x i → s.effect x i = Eff.putD d v) : Gives s x i d v :=
  p.computes he rfl rfl rfl (Core.grAre_one _ _ _) (Core.accAre_nil _) rfl rfl rfl

/-- An accumulator takes a value. -/
theorem State.Plain.accumulates {s : State} {x : Ctx} {i : Instr} (p : s.Plain x i) {a : BitVec 2} {v : Acc}
    (he : s.Stands x i → s.effect x i = Eff.putA a v) : Accumulates s x i a v :=
  p.computes he rfl rfl rfl (Core.grAre_nil _) (Core.accAre_one _ _ _) rfl rfl rfl

/-! The overflow trap. -/

theorem Eff.trapV_off {e : Eff} {c : Core} (h : c.traps.getLsbD 1 = false ∨ e.flags.v = some false) : e.trapV c = e := by
  unfold Eff.trapV
  rw [if_neg]
  rcases h with h | h
  · rw [h]; simp
  · rw [h]; simp

theorem trapV_alu {s : State} {x : Ctx} {d : BitVec 5} {o : AluOut 28} {v : Int} (h : s.untrapped x 28 v)
    (hv : o.flags.v = some (!fits 28 v)) : (Eff.alu d o).trapV (s.at x) = Eff.alu d o := by
  refine Eff.trapV_off (h.imp id fun h => ?_)
  show o.flags.v = _
  rw [hv, h]; rfl

theorem trapV_aluW {s : State} {x : Ctx} {d : Half} {o : AluOut 14} {v : Int} (h : s.untrapped x 14 v)
    (hv : o.flags.v = some (!fits 14 v)) : (Eff.aluW d o).trapV (s.at x) = Eff.aluW d o := by
  refine Eff.trapV_off (h.imp id fun h => ?_)
  show o.flags.v = _
  rw [hv, h]; rfl

end Sys2Proof.Machine
end

