-- ==== Sys2Proof/Safety.lean ====
section
/-! DEFINITION. What counts as a safe state of the device, in the terms that statements use. -/

namespace Sys2Proof.Machine

/-- Every memory word is in range by its type; the list of memory is in its canonical form. -/
def State.memOk (s : State) : Bool := Memory.wf s.dev.mem

/-- A step goes on from a state. -/
def State.goesOn (s : State) : Prop := ∃ t, step s = .next t

end Sys2Proof.Machine
end

