-- ==== Sys2Proof/Tests/Devices.lean ====
section
/-! SUPPORT. Devices and cores for tests, and checks that decide the terms of statements. -/

namespace Sys2Proof.Tests

open Sys2Proof.Machine

/-- Every domain ON but the spares of hearths and of the control cores. -/
def domsOn : Tab DomSt := ((List.range 68).filter fun n => !(17 ≤ n && n ≤ 32) && n ≠ 35).map fun n => (n, DomSt.on)

/-- A device whose start-up is over: CTRL0 is ACTIVE, CTRL1 STANDBY, CTRL2 SPARE, the frame clock runs, and the flash
pairs have 1.8 V. -/
def dev : Dev :=
  let d : Dev := { Dev.reset with
    power := { Power.reset with dom := domsOn }
    aon := { Aon.reset with stage := .ready, frame := 77, ticks := 1234 }
    ctrl := { CtrlUnit.reset with serving := true, ready := true } }
  let d := (d.put Reg.HEALTH.CTRL.STANDBY 1).put Reg.HEALTH.CTRL.SPARE 2
  let d := ((d.put Reg.HEALTH.CTRL.ACTIVE 0).put Reg.CLOCKS.STATUS.LOCK 1).put Reg.CLOCKS.STATUS.FRAME_RUN 1
  d.each (List.range 8) fun d c => d.putAt Reg.FCH.STATUS.VIO c 0 2

/-- A command answers a next state, leaves the queue, and P holds of the device then. -/
def after (d : Dev) (i : Instr) (P : Dev → Bool) : Bool :=
  match exec i ⟨d, [.watchPoint]⟩ with | .next t => decide (t.pending = [.watchPoint]) && P t.dev | _ => false

/-- A command item at the end of a command hopper. -/
def withCmd (d : Dev) (hop prio typ tag : Nat) (args : List DW) : Dev :=
  args.foldl (fun d w => d.hopPush hop 65 w) (d.hopPush hop 65 (itemHeader prio args.length typ tag))

/-! Cores. -/

/-- PS at a level, with flags and LD. -/
def psOf (priv ld flags : Nat) : DW := BitVec.ofNat 28 (ld * 4096 + priv * 1024 + flags)

/-- A core that issues at address 5. -/
def core (priv : Nat) (gr : Tab DW := []) (ld flags : Nat := 0) : Core :=
  { Core.reset with run := .running, fetch := 5, gr := gr, ps := psOf priv ld flags }

/-- An image of all slots, with a window of slot 0 on hearth data memory and the attack cache, and three phases. -/
def image : Image :=
  { mode := 0, rate := 0, nLog2 := 3, id := 1, slotMask := 2 ^ 64 - 1, fixedMv := 0, phases := 3, barriers := [3, 3]
    budgets := [], cfg := [(0, ⟨4, 0, 16, 32, [⟨0, 0x7FFF, true, true⟩, ⟨0x2000000, 0x2000FFF, true, false⟩]⟩)]
    banks := [], blocks := [], inits := [], stages := [], streams := none }

/-- The device with that image, the first bank of HEARTH0's data memory and the first of the attack cache warm. -/
def devRun : Dev := { dev with loader := { Loader.reset with run := some image }, warm := [bankKey 1 0, bankKey 44 0] }

/-- Slot 0 as a core c. -/
def slot0 (c : Core) : State := ⟨devRun.setCore 0 c, []⟩
def ctx0 : Ctx := ⟨0, true, 0⟩
/-- Control core 0 as a core c. -/
def ctrl0 (c : Core) : State := ⟨devRun.setCore 64 c, []⟩
def ctxC : Ctx := ⟨64, true, 0⟩

/-- The state after a command. -/
def ran (i : Instr) (s : State) : State := match exec i s with | .next t => t | _ => s

/-! Checks. -/

def standsB (s : State) (x : Ctx) (i : Instr) : Bool :=
  let c := s.at x
  let o := s.own x i
  decide (o = { c.atPlace [Syl.ofInstr i] with
    bundle := [], weak := o.weak, written := o.written, overwrote := o.overwrote, timer := o.timer
    timerFired := o.timerFired, doors := o.doors, clrs := o.clrs }) && !o.readsBad [Syl.ofInstr i] && decide (c.run = .running) && !c.halted && !c.parked && c.bundle.isEmpty && x.stop &&
    (decide (64 ≤ x.core.val) || decide (c.fetch.toNat ≤ 0x3FFF) || (decide (c.priv = 3) && decide (c.fetch.toNat ≤ 0x4FFF))) && syllOk i

theorem stands {s : State} {x : Ctx} {i : Instr} (h : standsB s x i = true) : s.Stands x i := by
  simp only [standsB, Bool.and_eq_true, Bool.or_eq_true, decide_eq_true_eq, Bool.not_eq_true', List.isEmpty_iff] at h
  obtain ⟨⟨⟨⟨⟨⟨⟨⟨k, r⟩, h1⟩, h2⟩, h3⟩, h4⟩, h5⟩, h6⟩, h7⟩ := h
  exact ⟨k, r, h1, h2, h3, h4, h5, by rcases h6 with (h | h) | h <;> simp [h], h7⟩

def inMemB (ctrl : Bool) (a : Nat) : Bool :=
  decide (a < 0x80000) || (decide (0x1000000 ≤ a) && decide (a < 0x1800000)) || (decide (0x2000000 ≤ a) && decide (a < 0x4000000)) ||
    (ctrl && (decide (a < 0x800000) || (decide (0xC000000 ≤ a) && decide (a < 0xC300000)) ||
      (decide (0xD000000 ≤ a) && decide (a < 0xD400000))))

theorem inMem {p : Prop} {b : Bool} {a : Nat} (hb : b = true → p) (h : inMemB b a = true) : InMemory p a := by
  simp only [inMemB, Bool.and_eq_true, Bool.or_eq_true, decide_eq_true_eq] at h
  unfold InMemory
  rcases h with ((h | h) | h) | ⟨hc, (h | h) | h⟩
  · exact .inl h
  · exact .inr (.inl h)
  · exact .inr (.inr (.inl h))
  · exact .inr (.inr (.inr ⟨hb hc, .inl h⟩))
  · exact .inr (.inr (.inr ⟨hb hc, .inr (.inl h)⟩))
  · exact .inr (.inr (.inr ⟨hb hc, .inr (.inr h)⟩))

def devReachesB (d : Dev) (k : Nat) (store : Bool) (a : DW) (n : Nat) : Bool :=
  let each (p : Nat → Bool) : Bool := (List.range n).all p
  each (fun i => inMemB (decide (64 ≤ k)) (wOf a i)) &&
    (decide (64 ≤ k) || decide ((d.core k).priv = 3) || each fun i => (d.slotCfg k).wins.any fun w =>
      decide (w.base ≤ wOf a i) && decide (wOf a i ≤ w.limit) && (if store then w.wr else w.rd)) &&
    (decide (n = 1) || !a.getLsbD 0) &&
    (decide (n ≠ 4) || decide (memBank (memAddr k a.toNat) = memBank (memAddr k (a.toNat + 2)))) &&
    each (fun i => !d.isCold (memAddr k (wOf a i))) &&
    (store || each fun i => !d.poisonAt (memAddr k (wOf a i)))

def reachesB (s : State) (x : Ctx) (i : Instr) (store : Bool) (a : DW) (n : Nat) : Bool :=
  devReachesB (s.seen x i) x.core.val store a n

theorem devReaches {d : Dev} {k : Nat} {store : Bool} {a : DW} {n : Nat} (h : devReachesB d k store a n = true) :
    d.Reaches k store a n := by
  simp only [devReachesB, Bool.and_eq_true, Bool.or_eq_true, decide_eq_true_eq, Bool.not_eq_true', List.all_eq_true,
    List.mem_range, List.any_eq_true] at h
  obtain ⟨⟨⟨⟨⟨h1, h2⟩, h3⟩, h4⟩, h5⟩, h6⟩ := h
  refine ⟨fun i hi => inMem (by simp) (h1 i hi), fun hc hp i hi => ?_, fun hn => ?_, fun hn => ?_, h5, fun hs i hi => ?_⟩
  · rcases h2 with (h2 | h2) | h2
    · omega
    · exact absurd h2 hp
    · obtain ⟨w, hw, ⟨h7, h8⟩, h9⟩ := h2 i hi
      exact ⟨w, hw, h7, h8, h9⟩
  · rcases h3 with h3 | h3
    · exact absurd h3 hn
    · exact h3
  · rcases h4 with h4 | h4
    · exact absurd hn h4
    · exact h4
  · rcases h6 with h6 | h6
    · simp [hs] at h6
    · exact h6 i hi

theorem reaches {s : State} {x : Ctx} {i : Instr} {store : Bool} {a : DW} {n : Nat} (h : reachesB s x i store a n = true) :
    s.Reaches x i store a n := devReaches h

def frontB (d : Dev) (hop tag prio typ : Nat) (args : List DW) : Bool :=
  d.takesCommands && match (d.hop hop).front with
    | some (w :: ws) => decide (w.tag = .good) && ws.all (fun v => decide (v.tag = .good)) && decide (w.prio = prio) && decide (bitsOf w.val.toNat 18 8 = typ) &&
        decide (bitsOf w.val.toNat 7 0 = tag) && decide (ws.map (·.val) = args)
    | _ => false

theorem front {d : Dev} {hop tag prio typ : Nat} {args : List DW} (h : frontB d hop tag prio typ args = true) :
    d.Front hop tag prio typ args := by
  unfold frontB at h
  rw [Bool.and_eq_true] at h
  refine ⟨h.1, ?_⟩
  have h2 := h.2
  split at h2
  · next w ws hf =>
    simp only [Bool.and_eq_true, decide_eq_true_eq, List.all_eq_true] at h2
    obtain ⟨⟨⟨⟨⟨a, b⟩, c⟩, e⟩, f⟩, g⟩ := h2
    exact ⟨w, ws, hf, a, b, c, e, f, g⟩
  · cases h2

def canReportB (d : Dev) (h : DoneHop) : Bool :=
  d.isOn domHoppers && d.ctrl.doneQ.isEmpty && ((d.hop (doneNum h)).part 64).isNone

theorem canReport {d : Dev} {h : DoneHop} (k : canReportB d h = true) : d.CanReport h := by
  simp only [canReportB, Bool.and_eq_true, List.isEmpty_iff, Option.isNone_iff_eq_none] at k
  exact ⟨k.1.1, k.1.2, k.2⟩

def commandedB (d : Dev) (hop : Fin 4) (tag prio typ : Nat) (args : List DW) : Bool :=
  frontB d hop.val tag prio typ args && (d.cmd hop.val tag).isNone &&
    !d.link.out.any (·.writes hop.val tag) && cmdLen typ args.length &&
    (cmdOf hop.val tag prio typ args).reservedOk && canReportB d (doneHop hop) &&
    (!(decide (0x30 ≤ typ) && decide (typ ≤ 0x36)) || !d.stopping (domFlash 0))

theorem commanded {d : Dev} {hop : Fin 4} {tag prio typ : Nat} {args : List DW}
    (h : commandedB d hop tag prio typ args = true) : d.Commanded hop tag prio typ args := by
  simp only [commandedB, Bool.and_eq_true, Option.isNone_iff_eq_none, Bool.not_eq_true'] at h
  obtain ⟨⟨⟨⟨⟨⟨h1, h2⟩, h3⟩, h4⟩, h5⟩, h6⟩, h7⟩ := h
  refine ⟨front h1, h2, h3, h4, h5, canReport h6, fun a b => ?_⟩
  simpa [a, b] using h7

def goodPktB (p : Packet) (typ : Nat) : Bool :=
  decide (pktType p = typ) && decide (p.crc = crc16 p.hdr p.payload) &&
    (if typ = 1 ∨ typ = 3 then p.payload.isEmpty && decide (1 ≤ pktLen p) else decide (p.payload.length = pktLen p)) &&
    decide (pktLen p ≤ 64) && (decide (typ = 5 ∨ typ = 8 ∨ typ = 11) || decide (pktAddr p % 4 = 0)) &&
    (decide (typ = 8) || p.payload.all fun v => decide (v.extractLsb' 28 4 = 0#4))

theorem good {p : Packet} {typ : Nat} (h : goodPktB p typ = true) : goodPkt p typ := by
  simp only [goodPktB, Bool.and_eq_true, Bool.or_eq_true, decide_eq_true_eq, List.all_eq_true] at h
  obtain ⟨⟨⟨⟨⟨h1, h2⟩, h3⟩, h4⟩, h5⟩, h6⟩ := h
  refine ⟨h1, h2, fun ht => ?_, fun ht => ?_, fun a b c => ?_, fun ht v hv => ?_⟩
  · rw [if_pos ht, Bool.and_eq_true, List.isEmpty_iff, decide_eq_true_eq] at h3
    exact ⟨h3.1, h3.2, h4⟩
  · rw [if_neg ht, decide_eq_true_eq] at h3
    exact ⟨h3, h4⟩
  · rcases h5 with (h | h | h) | h
    · exact absurd h a
    · exact absurd h b
    · exact absurd h c
    · exact h
  · rcases h6 with h6 | h6
    · exact absurd h6 ht
    · exact h6 v hv

end Sys2Proof.Tests
end

