-- ==== Sys2Proof/Tests/Slice0.lean ====
section
/-! SUPPORT. Ill-formed commands that the checks refuse, encodings that the manual writes out, and its worked cases. -/

namespace Sys2Proof.Tests

open Sys2Proof.Machine

/-! WellFormed: for each check, a term that it refuses beside one that it accepts. -/

def lsBad : LsOps := ⟨2, 0, 1, 8⟩
def lsOdd : LsOps := ⟨3, 0, 0, 0⟩

set_option Elab.async false in
theorem test_wf_condition : (Instr.br ctx0 15 0).wf = false ∧ (Instr.jr ctx0 15 0).wf = false ∧ (Instr.br ctx0 14 0).wf = true := by decide
theorem test_wf_system_number : (Instr.sys ctx0 0 0x06 false).wf = false ∧ (Instr.sys ctx0 0 0x0C false).wf = false ∧
    (Instr.sys ctx0 0 0x15 false).wf = false ∧ (Instr.sys ctx0 0 0x2C false).wf = false ∧ (Instr.sys ctx0 0 0x2B false).wf = true := by decide
theorem test_wf_div_pair : (Instr.div ctx0 3 1 2).wf = false ∧ (Instr.div ctx0 4 1 2).wf = true := by decide
theorem test_wf_mode_bits : ([.ldw ctx0 lsBad, .ldwl ctx0 lsBad, .ld ctx0 lsBad, .ldp ctx0 lsBad, .ldwh ctx0 lsBad, .stw ctx0 lsBad,
    .stwh ctx0 lsBad, .st ctx0 lsBad, .stp ctx0 lsBad] : List Instr).all (fun i => !i.wf) = true := by decide
theorem test_wf_register_pair : (Instr.ldp ctx0 lsOdd).wf = false ∧ (Instr.stp ctx0 lsOdd).wf = false ∧ (Instr.ld ctx0 lsOdd).wf = true := by
  decide
theorem test_wf_pmod_mode : (Instr.pmod ctx0 0 0 1).wf = false ∧ (Instr.pmod ctx0 0 3 1).wf = false ∧ (Instr.pmod ctx0 0 2 1).wf = true := by
  decide
theorem test_wf_events : (Instr.barrierComplete 0).wf = false ∧ (Instr.sourceFire 66 0 0).wf = false ∧
    (Instr.sourceFire 0 544 0).wf = false ∧ (Instr.moderationExpiry 64).wf = false ∧ (Instr.domainOn 68 0).wf = false ∧
    (Instr.scrub (.word 1) .clean).wf = false ∧ (Instr.scrub (.register 0 0x4C) .clean).wf = false ∧ (Instr.linkTraining 0 false false false).wf = false ∧ (Instr.wake 0 0).wf = false ∧
    (Instr.reservedInstruction 0 [] false).wf = false := by decide
theorem test_wf_containers : (Instr.stagedWrite .host 0 2 0).wf = false ∧ (Instr.rcRead (.ctrl 0) 0 1).wf = false ∧
    (Instr.counterLowRead .host 0 3).wf = false ∧ (Instr.registerWrite .host 0 6 0).wf = false ∧ (Instr.dbgAddr 2).wf = false ∧
    (Instr.registerWrite .host 0 4 0).wf = true := by decide

/-! Encodings that the manual writes out (04, "Worked encodings", 03 "a stereo level meter", 07 "emulating a syllable"):
a word of each unit, laid out bit by bit as STOP, UNIT, OP, operands (R103, R109). -/

def stop0 : Ctx := ⟨0, false, 0⟩

theorem test_word_add : decodeSyll 0 0 (1#1 ++ 1#3 ++ 0x00#8 ++ (3#5 ++ 1#5 ++ 2#5 ++ 0#1)) = some (.add ctx0 3 1 2) ∧
    encodeSyll (.add ctx0 3 1 2) = some 0x9001844 := by decide +kernel
theorem test_word_br : decodeSyll 0 0 (1#1 ++ 0#3 ++ 0x01#8 ++ (2#4 ++ 0xFF4#12)) = some (.br ctx0 2 0xFF4) ∧
    encodeSyll (.br ctx0 2 0xFF4) = some 0x8012FF4 := by decide +kernel
set_option Elab.async false in
theorem test_word_mpy : decodeSyll 0 0 (0#1 ++ 3#3 ++ 0x02#8 ++ (2#2 ++ 8#5 ++ 9#5 ++ 1#1 ++ 1#1 ++ 0#2)) =
    some (.mpy stop0 ⟨true, 2, 8, 9, true, true⟩) ∧ encodeSyll (.mpy stop0 ⟨true, 2, 8, 9, true, true⟩) = some 0x302909C := by decide +kernel
theorem test_word_ldw : decodeSyll 0 0 (1#1 ++ 4#3 ++ 0x00#8 ++ (7#5 ++ 2#3 ++ 0#2 ++ 5#6)) = some (.ldw ctx0 ⟨7, 2, 0, 5⟩) ∧
    encodeSyll (.ldw ctx0 ⟨7, 2, 0, 5⟩) = some 0xC003A05 := by decide +kernel
theorem test_word_div : decodeSyll 0 0 0x950510A = some (.div ctx0 10 4 5) := by decide +kernel
theorem test_word_ext : decodeSyll 0 0 0x21030E6 = some (.ext stop0 false 6 0 28 true true) := by decide +kernel
theorem test_word_st : decodeSyll 0 0 0xC0A3141 = some (.st ctx0 ⟨6, 1, 1, 1⟩) := by decide +kernel
theorem test_word_rep : decodeSyll 0 0 0x501000F = some (.rep stop0 (.imm 15) none) := by decide +kernel
theorem test_word_ldp : decodeSyll 0 0 0xC032080 = some (.ldp ctx0 ⟨4, 0, 2, 0⟩) := by decide +kernel
theorem test_word_movh : decodeSyll 0 0 0x9311091 = some (.movh ctx0 2 0x091) ∧ decodeSyll 0 0 0x9331027 = some (.movl ctx0 2 0x27) := by
  decide +kernel
theorem test_word_w : decodeSyll 0 0 (1#1 ++ 1#3 ++ 0x40#8 ++ (5#4 ++ 1#1 ++ 1#4 ++ 0#1 ++ 2#4 ++ 1#1 ++ 0#1)) =
    some (.addw ctx0 ⟨5, true⟩ ⟨1, false⟩ ⟨2, true⟩) := by decide +kernel
/-- R108, R109: UNIT 0b110 and a nonzero reserved bit decode to nothing. -/
theorem test_word_reserved : decodeSyll 0 0 0xE371A45 = none ∧ decodeSyll 0 0 0x9001845 = none := by decide +kernel

/-! One syllable from the manual's worked cases, at U in slot 0 with some D registers and flags. -/

/-- What a check finds of slot 0 after a syllable that issues from D registers, flags and A0. -/
def runs (i : Instr) (gr : Tab DW) (P : Core → Bool) (flags : Nat := 0) (a0 : Int := 0) : Bool :=
  after (devRun.setCore 0 { core 0 gr 0 flags with acc := [(0, BitVec.ofInt 70 a0)] }) i fun d => P (d.core 0)

def reg (c : Core) (n : Nat) : DW := tabGet 0 c.gr n
def flagsOf (c : Core) : Nat := c.ps.toNat % 64

set_option Elab.async false in
/-- R140: the cases of LSRW and RORW on 0x2001; C in bit 2. -/
theorem test_lsrw_cases : ([(1, 0x1000, 4), (14, 0, 5), (15, 0, 1), (0x40, 0x2001, 2)] : List (Nat × Nat × Nat)).all (fun (n, r, f) =>
    runs (.lsrw ctx0 ⟨5, false⟩ ⟨1, false⟩ ⟨2, false⟩) [(1, 0x2001), (2, BitVec.ofNat 28 n)] fun c =>
      (reg c 5).toNat % 2 ^ 14 == r && flagsOf c == f) = true := by decide +kernel
theorem test_rorw_cases : ([(1, 0x3000, 6), (15, 0x3000, 6), (28, 0x2001, 6)] : List (Nat × Nat × Nat)).all (fun (n, r, f) =>
    runs (.rorw ctx0 ⟨5, false⟩ ⟨1, false⟩ ⟨2, false⟩) [(1, 0x2001), (2, BitVec.ofNat 28 n)] (flags := 4) fun c =>
      (reg c 5).toNat % 2 ^ 14 == r && flagsOf c == f) = true := by decide +kernel
/-- R141: quotient, remainder, V (8) and DZ (32). -/
theorem test_div_cases : ([(0xFFFFFF9, 2, 0xFFFFFFD, 0xFFFFFFF, 2), (7, 0xFFFFFFE, 0xFFFFFFD, 1, 2), (0x8000000, 0xFFFFFFF, 0x8000000, 0, 10),
    (5, 0, 0x7FFFFFF, 5, 40), (0, 0, 0x7FFFFFF, 0, 40), (0xFFFFFF9, 0, 0x8000000, 0xFFFFFF9, 42)] : List (DW × DW × DW × DW × Nat)).all
    (fun (a, b, q, r, f) => runs (.div ctx0 6 1 2) [(1, a), (2, b)] fun c =>
      reg c 6 == q && reg c 7 == r && flagsOf c == f && c.steps == 16) = true := by decide +kernel
/-- R145: shift 28 without and with RND and SAT; SAT in bit 4. -/
theorem test_ext_cases : ([(3 * 2 ^ 27, 1, 2, 0), (2 ^ 27, 0, 1, 0), (-2 ^ 27, 0xFFFFFFF, 0xFFFFFFF, 0), (-5 * 2 ^ 26, 0xFFFFFFE, 0xFFFFFFF, 0),
    (-3 * 2 ^ 27, 0xFFFFFFE, 0xFFFFFFE, 0), (2 ^ 55, 0x8000000, 0x7FFFFFF, 16)] : List (Int × DW × DW × Nat)).all (fun (v, r0, r1, f) =>
    runs (.ext ctx0 false 5 0 28 false false) [] (a0 := v) (fun c => reg c 5 == r0) &&
    runs (.ext ctx0 false 5 0 28 true true) [] (a0 := v) fun c => reg c 5 == r1 && flagsOf c == f) = true := by decide +kernel
/-- 06, "a word add and a stuck slice": 0x1FFF + 1. -/
theorem test_addw_wraps : runs (.addw ctx0 ⟨5, true⟩ ⟨1, false⟩ ⟨2, false⟩) [(1, 0x1FFF), (2, 1)] (fun c =>
    reg c 5 == 0x2000#14 ++ 0#14 && flagsOf c == 10) = true := by decide +kernel
/-- R137: MOVM keeps the rest of the register. -/
theorem test_movm_keeps : runs (.movm ctx0 2 0x515) [(2, 0x122003F)] (fun c => reg c 2 == 0x123457F) = true := by decide +kernel
/-- 03, "a stereo level meter": the circular post-modify wraps. -/
theorem test_ldp_circular : after ({ (devRun.setCore 0 (core 3 [(0x20, 0x100203C), (0x28, 4), (0x30, 0x1002000), (0x38, 0x40)])) with
      warm := [bankKey 36 0, bankKey 36 1, bankKey 36 2, bankKey 36 3] }.storeDW 0x100203E 77) (.ldp ctx0 ⟨4, 0, 2, 0⟩)
    (fun d => reg (d.core 0) 5 == 77 && reg (d.core 0) 0x20 == 0x1002000) = true := by decide +kernel
/-- 07, "emulating a syllable, and a wrong return": the entry, and the RETX that asks for S. -/
theorem test_emulation_entry : after (devRun.setCore 0 { core 0 with fetch := 0x1A40, ps := 0x104 }) (.reservedInstruction 0 [0xE371A45] false)
    (fun d => let c := d.core 0; c.epc == 0x1A40 && c.ecause == 1 && c.eval == 0xE371A45 && c.estat == 0x2000104 && c.eseal == 0 &&
      c.ps == 0x404) = true := by decide +kernel
theorem test_wrong_return : after (devRun.setCore 0 { core 1 with fetch := 0x1A80, epc := 0x1A41, estat := 0x2000504 }) (.retx ctx0)
    (fun d => let c := d.core 0; c.epc == 0x1A41 && c.ecause == 4 && c.eval == 0x1A80 && c.estat == 0x2000504 && c.priv == 1) = true := by
  decide +kernel

/-! One event from the manual's worked cases. -/

/-- R1: CRC-32 of "123456789". -/
theorem test_crc32 : crc32 [0x31, 0x32, 0x33, 0x34, 0x35, 0x36, 0x37, 0x38, 0x39] = 0xCBF43926 := by decide +kernel
set_option Elab.async false in
/-- R242: the header of a note-on. -/
theorem test_item_header : itemHeader 4 3 0x021 7 = 0x8182107 := by decide +kernel
/-- R347: the item of 0x92, 0x3C, 0x64 on MIDI0. -/
theorem test_midi_item :
    let d := (dev.putAt Reg.MIDI.CFG.HOP 0 0 8).putAt Reg.MIDI.CFG.PRI 0 0 4
    let d := ((d.putAt Reg.HOP.CFG.CONSUMER 8 0 64).putAt Reg.HOP.PROD0.ID 8 0 66).putAt Reg.HOP.PROD0.CREDIT 8 0 100
    let d := { d with aon := { d.aon with frame := 10000 }, ports := { d.ports with uart := [(0, { Uart.reset with tag := 5 })] } }
    after d (.midiRxMessage 0 [⟨0x92, true⟩, ⟨0x3C, true⟩, ⟨0x64, true⟩] 37) (fun e =>
      (e.hop 8).ready.any fun i => i.words.map (·.1) == [0x8108005, 0x0923C64, 0x009C425]) = true := by decide +kernel
/-- R360: the header of a read of 64 containers at HOP4's pop window with tag 0x025 has these fields. -/
theorem test_link_header : (⟨0x0500004000801283, [], 0, 0⟩ : Packet).hdr.toNat / 2 ^ 24 = 0x0500004000 ∧
    pktType ⟨0x0500004000801283, [], 0, 0⟩ = 3 := by decide +kernel
/-- R427: the words of a boot from copy 41 under BOOTSEL 10. -/
theorem test_boot_ready :
    let d := { dev with aon := { dev.aon with stage := .starting, bootsel := 2, bootOutcome := 1, bootDetail := 0, bootSeq := 41 } }
    after d (.bootReady []) (fun e => (e.hop 4).ready.any fun i => i.words.map (·.1) |>.drop 1 |> (· == [0x1008000, 0x29])) = true := by
  decide +kernel
/-- An empty queue: the device idles. -/
theorem test_idle : step State.reset = .next State.reset := rfl

end Sys2Proof.Tests
end

