-- ==== Sys2Proof/Tests/WitnessCore.lean ====
section
/-! SUPPORT. For each statement about core, fault, frame, router, hopper and stream events that has hypotheses, states
that meet those of each clause. -/

namespace Sys2Proof.Tests

open Sys2Proof.Machine

/-! Core, fault and frame events. -/

/-- Slot 0 at U with IE, and its private source 31 pending and enabled with priority 9, in groups of 4. -/
def armed : State :=
  let d := (devRun.setCore 0 (core 0 [] 0 0x100)).putAt Reg.ROUTER.TGT_EN_HI.EN 0 0 0x8000
  let d := (d.putAt Reg.ROUTER.TGT_CFG.GROUP_BITS 0 0 2).regSet (regKey 0x030 (0x060 + 40)) 0x900
  ⟨{ d with router := { Router.reset with pendP := [(0, 0x80000000#32)], runStacks := [(0, [3])] } }, []⟩

theorem armed_only : ∀ m, m < 32 → (armed.dev.pendPriv 0).getLsbD m = true → m = 31 ∧ armed.dev.privPrio 0 m = 9 := by decide +kernel

theorem armed_selects : armed.dev.Selects 0 31 2 := by
  refine ⟨9, .inl ⟨by decide +kernel, .inl (by decide +kernel), by decide +kernel, by decide +kernel⟩, by decide +kernel, fun m q h => ?_⟩
  rcases h with ⟨h, hp | ⟨ht, -⟩, -, hq⟩ | ⟨h, -⟩
  · obtain ⟨rfl, hr⟩ := armed_only m h hp
    exact .inl ⟨rfl, by omega⟩
  · omega
  · exact absurd h (by show ¬m ∈ []; exact List.not_mem_nil)

set_option Elab.async false in
theorem witness_InterruptEntry : armed.Interruptible 0 0 31 2 ∧ armed.dev.heldBack 0 [0x9001844] false = false ∧
    (armed.at (accessCtx 0)).Kin ((armed.dev.ready PageOps.real 0 0).core 0) ∧ armed.dev.heldBack 0 [0xE000000] false = true ∧
    ((slot0 (core 0)).at (accessCtx 0)).ie = false := by
  refine ⟨⟨by decide +kernel, by decide +kernel, by decide +kernel, by decide +kernel, by decide +kernel, by decide +kernel,
    by decide +kernel, by decide +kernel, by decide +kernel, armed_selects, by decide +kernel, by decide +kernel, fun top rest h => ?_,
    by decide +kernel, by decide +kernel⟩, by decide +kernel, by unfold Core.Kin; decide +kernel, by decide +kernel, by decide +kernel⟩
  have e : armed.dev.stack 0 = [3] := by decide +kernel
  rw [e] at h
  injection h with h
  omega

theorem witness_FaultsAndSpares :
    let d := (slot0 (core 0)).dev
    let c := (ctrl0 (core 3)).dev
    let w (i : Nat) : Dev := (d.setCore i { core 0 with run := .stopped }).modHearth 0 fun h => { h with awaiting := some i }
    let store := ran (.st ctx0 ⟨2, 0, 0, 0⟩) (slot0 (core 0 [(2, 1), (0x20, 0x100)]))
    let none' := ran (.add ctx0 3 1 2) (slot0 (core 0 [(2, 1)]))
    let again (s : State) (k : Nat) : Dev := { s.dev with held := [(k, (s.dev.heldOf k).map fun h => { h with retried := true })] }
    let ctrl := ran (.add ctxC 3 1 2) (ctrl0 (core 3 [(2, 1)]))
    ((store.dev.heldOf 0).length = 1 ∧ (store.dev.core 0).halted = false ∧ (store.dev.core 0).parked = false ∧
      ((store.dev.heldOf 0).all fun h => decide (h.primWords = h.shadowWords) && h.differs 0 1 && !h.differs 0 0 && !h.retried &&
        decide (0 < h.primWords.length) && h.outs.all HeldOut.isStore && h.deliv.isNone && h.prim.all (·.acts.all fun | .barrier _ => false | _ => true) &&
        !h.outs.isEmpty) = true ∧ (store.dev.heldOf 0)[1]? = none) ∧
    (((again none' 0).heldOf 0).all (fun h => h.differs 0 1 && h.retried && h.outs.isEmpty) = true ∧
      ((again none' 0).heldOf 0).length = 1 ∧ (again none' 0).getAt Reg.HEARTH.CORES.SPARE_USED 0 0 = 0 ∧
      ((again none' 0).hearth 0).awaiting = none) ∧
    (((again ctrl 64).heldOf 64).all (fun h => h.differs 0 1 && h.retried) = true ∧ ((again ctrl 64).heldOf 64).length = 1 ∧
      (again ctrl 64).active = 64 - 64) ∧
    (d.watched 0 = true ∧ d.getAt Reg.HEARTH.MISMATCH.COUNT 0 0 < 0xFFFF ∧ d.getAt Reg.HEARTH.CORES.SPARE_USED 0 0 = 0 ∧
      (d.hearth 0).awaiting = none ∧ d.watched 1 = false) ∧
    (c.watched 64 = true ∧ c.active = 64 - 64) ∧
    ∀ i, i < 4 → ((w i).hearth 0).awaiting = some (4 * 0 + i) ∧ (w i).coreOf (4 * 0 + i) < 4 ∧ ((w i).core i).run = .stopped := by
  refine ⟨?_, ?_, ?_, ?_, ?_, ?_⟩ <;> decide +kernel

theorem witness_WatchCeilingAndBarriers :
    let d := (slot0 (core 0)).dev
    let fixed := { d with loader := { d.loader with run := some { image with mode := 2 } } }
    let some' := { d with loader := { d.loader with arrived := [(1, [0])] } }
    let all := { (d.setCore 0 { core 0 with run := .barrier 1 }) with loader := { d.loader with arrived := [(1, [0, 1])] } }
    (some'.link.regQ = [] ∧ some'.link.memQ = [] ∧ all.link.regQ = [] ∧ all.link.memQ = []) ∧
    (d.mode ≤ 1 ∧ d.notFinished 0 = true ∧ 0 ∉ d.loader.late ∧ d.getAt Reg.IMAGE.SLOT_CNT.LATE 0 0 < 0xFFF ∧
      (∀ i, i < 4 → d.notFinished (60 + i) = false)) ∧ 2 ≤ fixed.mode ∧
    ((some'.barrierMask 1).testBit 1 = true ∧ 1 ∉ tabGet [] some'.loader.arrived 1) ∧
    ((∀ n, n < 64 → (all.barrierMask 1).testBit n = true → n ∈ tabGet [] all.loader.arrived 1) ∧ (all.barrierMask 1).testBit 0 = true ∧
      1 ∉ all.loader.complete ∧ (all.core 0).run = .barrier 1 ∧ (all.core 1).run ≠ .barrier 1) := by decide +kernel

/-- HEARTH0 after a frame of occupancy 760 of 1,024, above 75 % by more than 1 %, 742, and 700. -/
def ended (occ : Nat) : Dev :=
  ({ devRun with loader := { devRun.loader with run := some { image with mode := 1 } } }).modHearth 0 fun h => { h with ended := some occ }

/-- An image of slot 0 alone, its program memory warm, with HEARTH0 and PORTS0 ON. -/
def oneSlot : Dev :=
  { dev with loader := { Loader.reset with run := some { image with slotMask := 1 } }, warm := [bankKey 1 0, bankKey 1 16]
             power := { Power.reset with dom := [(0, .on), (1, .on), (57, .on)] }, ctrl := CtrlUnit.reset }

theorem witness_FrameBoundaryAndTempo :
    dev.hostIdle ∧ oneSlot.hostIdle ∧ (dev.clockRuns = true ∧ (dev.put Reg.CLOCKS.STATUS.FRAME_RUN 0).clockRuns = false) ∧
    after oneSlot .frameBoundary (fun e => e.hasProgram 0 && decide ((e.core 0).run = .running)) = true ∧
    (dev.mode = 3 ∧ (ended 0).mode ≤ 1 ∧ (ended 0).served = true ∧ (ended 0).isOn (domHearth 0) = true ∧ (ended 0).folded 0 = false ∧
      ((ended 0).hearth 0).endRestarted = false) ∧
    (∀ occ ∈ [779, 778, 748, 747], ((ended occ).hearth 0).ended = some occ) ∧
    (1024 * 76 < 100 * 779 ∧ ¬1024 * 76 < 100 * 778 ∧ ¬100 * 748 < 1024 * 73 ∧ 100 * 747 < 1024 * 73) :=
  ⟨⟨rfl, rfl⟩, ⟨rfl, rfl⟩, by decide +kernel, by decide +kernel, by decide +kernel, by decide +kernel, by decide⟩

theorem witness_SlotExceptionItem :
    let c := { core 0 with reports := [[1, 77, 1, 0x11, 5, 0x00A0007]], run := .ended }
    let d := (devRun.setCore 21 c)
    (devRun.core 21).reports = [] ∧ ((d.core 21).reports = [1#28, 77, 1, 0x11, 5, 0x00A0007] :: [] ∧ d.served = true) ∧ (canReportB d .hop4 = true ∧ d.hopAcct 4 64 = some 0 ∧ 5 ≤ d.hopAvail 4 0) := by decide +kernel

theorem witness_ControlRolesAndScrubbing :
    let up := (dev.put Reg.HEALTH.CTRL.ACTIVE 3)
    let off := { dev with power := { dev.power with dom := tabSet dev.power.dom 35 .off } }
    let tag (t : WordTag) : Dev := { devRun with tags := if t = .good then [] else [(0x100, t)] }
    (up.active = 3 ∧ up.standby = 1 ∧ up.spareCtrl = 2 ∧ up.ctrl.ready = true ∧ up.link.regQ = [] ∧ up.link.memQ = []) ∧
    (dev.isOn (domCtrl 1) = true ∧ dev.ctrl.patch = none) ∧
    (off.spareCtrl = 2 ∧ off.served = true ∧ off.ctrl.selfcheck = false ∧ off.domSt (domCtrl 2) ≠ .on) ∧
    { dev with ctrl := { dev.ctrl with selfcheck := true } }.ctrl.selfcheck = true ∧
    (dev.pageOn (tablePage .map) = true ∧ (dev.page (tablePage .map)).corr < 0xFFFF ∧ Dev.reset.pageOn (tablePage .map) = false) ∧
    (dev.isCold 0x100 = true ∧ devRun.isCold 0x100 = false ∧
      ∀ t ∈ [WordTag.good, .correctable, .uncorrectable, .poisoned], (tag t).tagAt 0x101 = t) := by decide +kernel

/-! The event router. -/

theorem witness_SourcesAndCrossings :
    let at' (l : List Nat) (q : Nat) : Dev := { dev with router := { Router.reset with awaiting := l, queued := [(100, q)] } }
    (dev.isOn domRouter = true ∧ Dev.reset.isOn domRouter = false ∧ privReserved 65 31 = false ∧ privReserved 0 5 = true ∧
      privReserved 0 24 = false ∧ privReserved 0 8 = false) ∧
    (32 ≤ (479#10).toNat ∧ (479#10).toNat < 480 ∧ (95#10).toNat = 95) ∧ dev.still ∧
    (100 ∉ dev.router.awaiting ∧ 100 ∈ (at' [100] 6).router.awaiting ∧ tabGet 0 (at' [100] 6).router.queued 100 = 5 + 1 ∧
      7 < tabGet 0 (at' [100] 7).router.queued 100 + 1 ∧ 7 < tabGet 0 dev.router.queued 100 + (8#4).toNat ∧ 8#4 ≠ 0#4 ∧ tabGet 0 (at' [100] 0).router.queued 100 = 0) := by
  refine ⟨by decide +kernel, by decide, ?_, by decide +kernel⟩
  unfold Dev.still
  decide +kernel

theorem witness_SlotEventInterface :
    let c := { core 0 with timer := 0x45 }
    (∀ i ∈ ([.eoi 0, .clr 0 3, .doorbell 0 65, .timerWrite 0 0x45 80, .timerWrite 0 0 0] : List Instr),
      (slot0 (core 0)).Stands (accessCtx (slotCore 0)) i) ∧ ((slot0 (core 0)).at (accessCtx (slotCore 0))).midLoop ∧
    ((0x45#7).getLsbD 6 = true ∧ (0x45#7).toNat % 64 ≤ (80#10).toNat / 16 ∧ ¬(0x45#7).toNat % 64 ≤ (79#10).toNat / 16 ∧
      c.timerFired = false ∧ (0x05#7).getLsbD 6 = false) ∧ devRun.isOn domRouter = true := by
  refine ⟨fun i h => stands (List.all_eq_true.1 (by decide +kernel : List.all _ (standsB (slot0 (core 0)) (accessCtx (slotCore 0))) = true) i h),
    .inl (by decide +kernel), by decide, by decide +kernel⟩

/-! Hoppers. -/

/-- Slot 0 consumes HOP8, where an item of one payload word can be popped, in PACKET and in REPLAY mode; control core 0 is
the producer. -/
def hop8 (mode : Nat) (c : Core := core 0) : Dev :=
  let d := ((slot0 c).dev.putAt Reg.HOP.CFG.MODE 8 0 mode).putAt Reg.HOP.CFG.CONSUMER 8 0 0
  let d := (d.putAt Reg.HOP.PROD0.ID 8 0 64).putAt Reg.HOP.PROD0.CREDIT 8 0 5
  (d.setCore 64 (core 3))
def pushed (mode : Nat) : Dev := ((hop8 mode).hopPush 8 64 (itemHeader 2 1 0x20 7)).hopPush 8 64 5

def cleanB (h : Hopper) : Bool :=
  h.log.all (fun w => decide (w.tag = .good)) && h.rest.all (fun w => decide (w.tag = .good)) &&
    h.ready.all fun i => i.words.all fun w => decide (w.2 = .good)

theorem clean_hopper {h : Hopper} (k : cleanB h = true) : h.clean := by
  simp only [cleanB, Bool.and_eq_true, List.all_eq_true, decide_eq_true_eq] at k
  exact ⟨k.1.1, k.1.2, k.2⟩

theorem witness_PopAndPeek :
    let s (m : Nat) : State := ⟨pushed m, []⟩
    let none' : State := ⟨hop8 0, []⟩
    let pop : Instr := .pop 0 8 1
    let popped (m : Nat) : Dev := (ran pop (s m)).dev
    (((none'.before 0 pop).hop 8).next = none ∧ (none'.before 0 pop).consumes 0 8 = true ∧
      ((none'.before 0 pop).hop 8).pos ≤ ((none'.before 0 pop).hop 8).log.length) ∧
    (((s 0).before 0 pop).consumes 0 8 = true ∧ (((s 0).before 0 pop).hop 8).next.isSome = true ∧ (((s 0).before 0 pop).hop 8).pos = 0 ∧
      (((s 1).before 0 (.peek 0 8 1)).hop 8).next.isSome = true) ∧
    (((s 0).before 0 pop).hop 8).clean ∧ ((none'.before 0 pop).hop 8).clean ∧
    ((popped 0).hopReplay 8 = false ∧ ((popped 0).hop 8).tent = 0 + 1 ∧ ((popped 0).hop 8).log.length = 1 ∧
      (popped 1).hopReplay 8 = true ∧ ((popped 1).hop 8).tent = 0 + 1) ∧
    (s 0).Stands (accessCtx 0) pop ∧ none'.Stands (accessCtx 0) (.peek 0 8 1) :=
  ⟨by decide +kernel, by decide +kernel, clean_hopper (by decide +kernel), clean_hopper (by decide +kernel), by decide +kernel,
    stands (by decide +kernel), stands (by decide +kernel)⟩

theorem witness_Push :
    let part := (hop8 0).hopPush 8 64 (itemHeader 2 2 0x20 7)
    let slotP := ((hop8 0).putAt Reg.HOP.PROD0.ID 8 0 0)
    ((hop8 0).hopIdentity 64 = some 64 ∧ (hop8 0).hopAcct 8 64 = some 0 ∧ ((hop8 0).hop 8).part 64 = none ∧ (hop8 0).hopAvail 8 0 = 5) ∧
    ((4#6).toNat + 1 ≤ (hop8 0).hopAvail 8 0 ∧ (hop8 0).hopAvail 8 0 < (5#6).toNat + 1) ∧
    (slotP.hopIdentity 0 = some 0 ∧ slotP.hopAcct 8 0 = some 0 ∧ (slotP.hop 8).part 0 = none ∧ (0#6).toNat + 1 ≤ slotP.hopAvail 8 0) ∧
    ((part.hop 8).part 64).any (fun q => decide (q.mode = .keep) && decide (1 < q.left)) = true ∧
    (((slotP.hopPush 8 0 (itemHeader 2 1 0x20 7)).hop 8).part 0).any (fun q => decide (q.mode = .keep) && decide (q.left ≤ 1)) = true ∧
    (⟨hop8 0, []⟩ : State).Stands (accessCtx 64) (.push 64 8 0) :=
  ⟨by decide +kernel, by decide +kernel, by decide +kernel, by decide +kernel, by decide +kernel, stands (by decide +kernel)⟩

set_option Elab.async false in
theorem witness_MarkRewindReleaseDropFlush :
    let c := (hop8 1).putAt Reg.HOP.CFG.CONSUMER 8 0 64
    let dropped := (ran (.pop 0 8 1) ⟨pushed 0, []⟩).dev.emitOut PageOps.real 0 (.popped 8)
    (c.hopReplay 8 = true ∧ c.consumes 64 8 = true) ∧ ((hop8 1).consumes 0 8 = true ∧ (hop8 0).hopReplay 8 = false) ∧
    (((pushed 0).hop 8).rest = [] ∧ ((pushed 0).hop 8).log = [] ∧ ((pushed 0).hop 8).pos = 0) ∧
    ((dropped.hop 8).rest ≠ [] ∧ (dropped.hop 8).rest.all (!·.head) = true ∧ (dropped.hop 8).log = [] ∧ (dropped.hop 8).pos = 0 ∧
      dropped.consumes 0 8 = true) ∧
    ((hop8 0).isOn domHoppers = true ∧ ((hop8 0).hop 8).flushArmed = false ∧ ((hop8 0).hop 8).discarding = false ∧
      (hop8 0).hopConsumer 8 < 64 ∧ 64 ≤ c.hopConsumer 8) ∧
    (⟨hop8 0, []⟩ : State).Stands (accessCtx 0) (.drop 0 8) ∧ (⟨c, []⟩ : State).Stands (accessCtx 64) (.mark 64 8) ∧
    ((⟨hop8 1, []⟩ : State).before 0 (.rewind 0 8)).consumes 0 8 = true :=
  ⟨by decide +kernel, by decide +kernel, by decide +kernel, by decide +kernel, by decide +kernel, stands (by decide +kernel),
    stands (by decide +kernel), by decide +kernel⟩

/-! Streams. -/

/-- The words of stream-table entry 3 from 0x1000060 on: a flash-fed sample of 50 chunks of 584 frames, its head of 4. -/
def entry3 : List (Nat × DW) :=
  [(0, 0), (1, 5), (2, 2), (3, 29200), (6, 0x2000000), (7, 2336), (8, 0x2002000), (9, 48000)]

/-- Slot 0, which selects entry 3 of a stream table in SHM, with a number of entries. -/
def starter (entries : Nat) : State :=
  let d := (slot0 { core 0 with sel := 3 }).dev
  let d := { d with loader := { d.loader with run := some { image with streams := some ⟨0x1000000, 16, 100, 4⟩ } }
                    stoker := { d.stoker with headValid := [(3, (0x2000000, 4672))] }
                    warm := setInsert (setInsert d.warm (bankKey 36 0)) (bankKey 44 0)
                    flash := { d.flash with map := [(5, ⟨1, 1, 7, 0, 100⟩)] } }
  let d := entry3.foldl (fun d e => d.storeDW (0x1000060 + 2 * e.1) e.2) d
  let d := (d.put Reg.STOKER.ENTRIES.VALUE entries).put Reg.STOKER.TABLE_BASE.VALUE 0x1000000
  ⟨((d.put Reg.STOKER.MAX_STREAMS.VALUE 4).put Reg.STOKER.READ_BUDGET.VALUE 100).put Reg.STOKER.GROUP_CEIL.VALUE 100, []⟩

/-- An active stream of slot 0, and one of slot 1. -/
def stream3 : Stream := ⟨3, 0, ⟨false, 0, false, 0, 5, 2, 29200, 0, 0, 0x2000000, 2336, 0x2002000, 48000⟩, false, false, 83, 2, none, [2, 3], [], false, false⟩
def playing (x : Stream) : Dev := { (starter 16).dev with stoker := { (starter 16).dev.stoker with streams := [x] } }

theorem witness_StreamsStartAndStop :
    (∀ n ∈ [3, 16], (starter n).Stands (accessCtx (slotCore 0)) (.streamStart 0 7)) ∧
    (((starter 3).at (accessCtx 0)).sel.toNat % 0x4000 = 3 ∧ ((starter 3).at (accessCtx 0)).sels = [] ∧
      (starter 3).dev.keptMatch 0 3 true = none ∧ (starter 3).dev.startReason 3 = some 0x09 ∧
      (starter 3).dev.isOn domStoker = true ∧ (starter 3).dev.tags = []) ∧ (starter 16).dev.startReason 3 = none ∧
    (((ran (.streamStart 0 7) (starter 16)).dev.stream 3).any fun x => x.started && !x.desc.cacheFed && decide (0 ∈ x.waiting) &&
      decide (0 < x.desc.rc) && (x.desc.sampleChunk 0).isSome) = true ∧
    ((playing stream3).stream 3 = some stream3 ∧ stream3.owner = 0 ∧ stream3.stopped = false ∧ stream3.started = false ∧
      (playing stream3).keptMatch 0 3 false = none) ∧
    ((playing { stream3 with owner := 1 }).stream 3 = some { stream3 with owner := 1 } ∧ stream3.qNeed ≤ (2#28).toNat ∧
      (1#28).toNat < stream3.qNeed) ∧
    (⟨playing stream3, []⟩ : State).Stands (accessCtx (slotCore 0)) (.streamStop 0 3) ∧
    (⟨playing stream3, []⟩ : State).Stands (accessCtx (slotCore 0)) (.streamNeed 0 3 2) ∧
    (⟨playing stream3, []⟩ : State).Stands (accessCtx (slotCore 0)) (.notice 0 7) := by
  refine ⟨fun n h => ?_, by decide +kernel, by decide +kernel, by decide +kernel, by decide +kernel, by decide +kernel,
    stands (by decide +kernel), stands (by decide +kernel), stands (by decide +kernel)⟩
  rcases (by simpa using h : n = 3 ∨ n = 16) with rfl | rfl <;> exact stands (by decide +kernel)

theorem witness_ChunksAndPins :
    let d := playing { stream3 with late := [3] }
    let pinning := { dev with stoker := { Stoker.reset with pin := some ⟨3, 5⟩ } }
    ((playing stream3).stream 3 = some stream3 ∧ 2 ∈ stream3.waiting ∧ 4 ∉ stream3.waiting ∧ 2 ∉ stream3.late) ∧
    (d.stream 3).any (fun x => decide (3 ∈ x.waiting) && decide (3 ∈ x.late)) = true ∧
    (stream3.desc.sampleChunk 2 = some 6 ∧ 1168 ≤ (stream3.desc.length - 6 * stream3.desc.F) * fmtW stream3.desc.format ∧
      stream3.desc.ringPos 2 % 2 = 0 ∧ ∀ i ∈ [0, 583], (playing stream3).isCold (stream3.desc.ringPos 2 + 2 * i) = false) ∧
    (stream3.desc.region = 5 ∧ stream3.desc.chunk0 + 6 = 8 ∧ d.isLost 5 8 = false ∧ d.lunDown (d.chunkLun 5 8) = false ∧
      d.nand.cells = [] ∧ d.stoker.rereads = [] ∧ tagOk 5 8 (fitBytes 2048 (tagged 5 8 [1, 2])) = true ∧
      d.climbShort 5 8 ⟨none, none, none, 0, none, false⟩ = none ∧
      (d.climbShort 5 8 ⟨none, none, none, 0, some (tagged 5 8 []), false⟩).map (·.step) = some 4) ∧
    (dev.isOn domStoker = true ∧ dev.stopping domStoker = false ∧ dev.stoker.pin = none ∧ pinning.stoker.pin = some ⟨3, 5⟩) := by decide +kernel

end Sys2Proof.Tests
end

