-- ==== Sys2Proof/Tests/WitnessDevice.lean ====
section
/-! SUPPORT. For each statement about power, reset, start-up, images, service life, debug and pages that has hypotheses,
states that meet those of each clause. -/

namespace Sys2Proof.Tests

open Sys2Proof.Machine

/-! Power. -/

/-- A device whose request asks a state for each domain: 0 ON, 2 OFF, 3 unchanged. -/
def asks (f : Nat → Nat) (d : Dev := dev) : Dev :=
  (List.range 5).foldl (fun d r => d.regSet (regKey 0x090 (0x044 + 4 * r))
    (BitVec.ofNat 28 (((List.range 14).map fun i => (if 14 * r + i < 68 then f (14 * r + i) else 0) * 4 ^ i).sum))) d

/-- HEARTH15 OFF. -/
def off16 : Dev := asks fun n => if n = 16 then 2 else 3

/-- An entry of HEARTH15 into OFF at a stage. -/
def entryAt (stage : Nat) : EntryRec := ⟨[(16, true)], [], stage, stage - 1, false, false, none, false, [], false⟩
def entering (x : EntryRec) (d : Dev := dev) : Dev := { d with power := { d.power with entry := some x } }

set_option Elab.async false in
theorem witness_PowerEntry :
    let streams := { off16 with stoker := { Stoker.reset with streams := [⟨3, 60, ⟨false, 0, false, 1, 5, 0, 9, 0, 0, 0x2000000, 4, 0x2002000, 1⟩,
      false, false, 1, 2, none, [], [], false, false⟩] } }
    let barrier := { off16 with loader := { Loader.reset with run := some { image with barriers := [2 ^ 60 + 1, 0] } } }
    let running := entering (entryAt 2) ({ devRun with power := dev.power }.setCore 60 (core 0))
    (dev.link.regQ = [] ∧ dev.link.memQ = [] ∧ dev.link.stalled = []) ∧
    (dev.power.entry = none ∧ dev.power.exit = none ∧ dev.power.bankInit = none ∧ (entering (entryAt 1)).power.entry ≠ none) ∧
    (asks fun n => if n = 16 then 2 else if n = 15 then 0 else 3).reqStateBad = true ∧
    ((asks fun n => if n = 66 then 2 else 3).reqStateBad = false ∧ (asks fun n => if n = 66 then 2 else 3).reqOrderBad [66] = true) ∧
    (off16.reqStateBad = false ∧ off16.entryDoms = [(16, true)] ∧ off16.reqOrderBad [16] = false ∧ off16.reqStreamsBad [16] = false ∧
      off16.reqBarrierBad [16] = false) ∧ streams.reqStreamsBad [16] = true ∧
    (barrier.reqStreamsBad [16] = false ∧ barrier.reqBarrierBad [16] = true) ∧
    (bitOf (0xFFFFFFC#28).toNat 0 = false ∧ bitOf (0xFFFFFFC#28).toNat 1 = false) ∧
    ((entryAt 4).stage < 5 ∧ (entryAt 5).stage = 5 ∧ (entryAt 6).lower = [] ∧ ((entryAt 6).doms.map (·.1)).Nodup ∧
      (entering (entryAt 2)).drained (entryAt 2) = true ∧ (entryAt 2).undoing = false ∧ (entryAt 2).aborted = false ∧
      (entryAt 2).abandoned = none ∧ { entryAt 3 with aborted := true }.aborted = true ∧ running.drained (entryAt 2) = false) := by decide +kernel

/-- HEARTH15 OFF, and wake source 3 and the tick compare enabled with set 2, which is HEARTH15. -/
def waking : Dev :=
  let d := { dev with power := { dev.power with dom := tabSet dev.power.dom 16 .off, tickCmp := some 1234 } }
  let d := (d.putAt Reg.POWER.WAKE_SET0.MASK 0 2 (2 ^ 16)).regSet (Reg.POWER.WAKE_CFG.EN.key 0 3) 0x7FFFFFF
  ((d.putAt Reg.POWER.WAKE_CFG.SET 0 3 2).putAt Reg.POWER.WAKE_CFG9.EN 0 3 1).putAt Reg.POWER.WAKE_CFG9.SET 0 3 2

theorem witness_WakesAndExit :
    let x : ExitRec := ⟨[16, 15], false, true⟩
    let d := { waking with power := { waking.power with exit := some x } }
    (waking.wakeFires 3 ((8#13).getLsbD 3) = true ∧ dev.wakeFires 3 true = false ∧ waking.power.entry = none ∧ waking.power.exit = none ∧
      waking.flag Reg.AON.WAKE_LAST.VALID = false ∧ waking.notOn (waking.implied (setUnion [] (waking.wakeSet (waking.wakeJ 3)))) = [16]) ∧
    (waking.wakeEn 12 = true ∧ waking.tickReached = true ∧ waking.wakeJ 12 = 2 ∧ dev.tickReached = false) ∧
    (d.power.exit = some x ∧ 16 ∈ x.todo ∧ (∀ m ∈ d.needs 16, d.domSt m = .on) ∧ 14 ∉ x.todo) := by decide +kernel

theorem witness_BanksAndPads :
    let v : DW := BitVec.ofNat 28 (2 ^ 27 + 36 * 2 ^ 16 + 3)
    let w : DW := BitVec.ofNat 28 (2 ^ 27 + 36 * 2 ^ 16 + 4)
    (v.toNat / 2 ^ 16 % 128 = 36 ∧ v.toNat % 32 = 3 ∧ v.getLsbD 27 = true ∧ dev.power.bankInit = none ∧ 3 < keepBits 36 ∧
      dev.memOn 36 = true ∧ (bankRange 36 3).isSome = true ∧ bankKey 36 3 ∉ dev.warm) ∧
    (w.toNat / 2 ^ 16 % 128 = 36 ∧ w.toNat % 32 = 4 ∧ w.getLsbD 27 = true ∧ keepBits 36 ≤ 4) ∧
    bankRange 36 2 = some (0x1080000, 0x10C0000) ∧
    (dev.power.entry = none ∧ dev.domSt (padDom 12) = .on ∧ Dev.reset.domSt (padDom 12) ≠ .on) := by decide +kernel

/-! Reset and start-up. -/

theorem witness_Resets :
    let at' (s : BootStage) : Dev := { Dev.reset with aon := { Aon.reset with stage := s } }
    let r := dev.modPage 0x63 fun h => { h with inReset := true }
    (Dev.reset.aon.stage = .held ∧ dev.aon.stage = .ready ∧ (at' .starting).aon.stage = .starting ∧ (at' .sensing).aon.stage = .sensing ∧
      (at' .sysHeld).aon.stage = .sysHeld) ∧
    (takesSrst 0x63 = true ∧ dev.pageOn 0x63 = true ∧ (dev.page 0x63).inReset = false ∧ (r.page 0x63).inReset = true ∧
      r.link.regQ = [] ∧ r.link.memQ = []) := by decide +kernel

/-- CTRL0 boots from flash. -/
def boot : Dev := { dev.put Reg.FLASH.STATUS.MOUNT 2 with aon := { dev.aon with stage := .starting, bootsel := 2, afterPor := true } }
def bootCopy : BootCopy := ⟨0x544F4F42, 1, 9, true, [1, 2, 3], [], []⟩

theorem witness_StartUp :
    ({ boot with ctrl := CtrlUnit.reset }.ctrl.serving = false ∧ boot.power.exit = none ∧ boot.active < 3 ∧
      boot.isOn (domCtrl boot.active) = true ∧ boot.ctrl.serving = true) ∧
    (boot.booting = true ∧ boot.aon.bootOutcome = 0 ∧ boot.aon.bootLoad = false ∧ boot.mountSt = 2 ∧ boot.bootsFlash = true ∧ dev.bootsFlash = false ∧
      boot.nand.boot = [] ∧ bootValid bootCopy = true ∧
      bootCopy.patch = [] ∧ bootValid { bootCopy with crcOk := false } = false ∧ dev.booting = false) ∧
    ({ boot with aon := { boot.aon with bootOutcome := 15, bootDetail := 255 } }.aon.bootOutcome ≠ 0 ∧ canReportB boot .hop4 = true ∧
      dev.aon.stage ≠ .starting) := by decide +kernel

/-- A device that checks a load of some bytes for command 5 of HOP1. -/
def checking (bytes : List Byte) : Dev :=
  { dev with cmds := [cmdOf 1 5 2 0x10 []], loader := { dev.loader with load := some ⟨some (1, 5), bytes⟩ } }.setPend 1

/-- Bytes of a number, lowest first, as an image holds them. -/
def le (n v : Nat) : List Byte := (List.range n).map fun i => BitVec.ofNat 8 (v / 2 ^ (8 * i))

/-- An image of no slots: its header (R52), one section entry (R53) and a SCHEDULE of one phase (R55). -/
def emptyImage : List Byte :=
  le 4 0x49464B53 ++ le 2 1 ++ le 2 0x40 ++ le 2 0x5C8 ++ le 1 1 ++ le 1 0 ++ le 1 3 ++ le 1 3 ++ le 2 1 ++ le 4 2192 ++ le 4 0x40 ++
    le 8 0 ++ le 8 0 ++ le 2 0 ++ le 2 0 ++ le 4 3785767925 ++ le 16 0 ++
    (le 2 2 ++ le 1 0xFF ++ le 1 0 ++ le 4 80 ++ le 4 2112 ++ le 4 0) ++ 1 :: List.replicate 2111 0

/-- A check that passed an image of no slots. -/
def passed (r : Checked) : Bool := match r with | .passed i _ => i.cfg.isEmpty && decide (i.phases = 1) | _ => false

/-- A check that failed. -/
def failed (r : Checked) : Bool := match r with | .failed x => decide (x.reason < 256) | _ => false

theorem witness_ImageAndPatch :
    let c := cmdOf 1 5 2 0x10 []
    let d := checking [1, 2]
    let p := checking emptyImage
    (d.loader.load = some ⟨some (1, 5), [1, 2]⟩ ∧ d.pend = 1 ∧ d.anyCtrl = true ∧ d.cmd 1 5 = some c ∧ c.stage = .work ∧ c.typ = 0x010 ∧ c.aborted = false ∧
      canReportB d (doneHop 1) = true ∧ d.booting = false) ∧
    failed ({ d with loader := { d.loader with load := none } }.checkImage [1, 2]) = true ∧
    (p.loader.load = some ⟨some (1, 5), emptyImage⟩ ∧ p.pend = 1 ∧ p.cmd 1 5 = some c ∧ canReportB p (doneHop 1) = true ∧
      passed ({ p with loader := { p.loader with load := none } }.checkImage emptyImage) = true) ∧
    (dev.loader.load = none ∧ dev.booting = false) ∧
    (dev.pageOn 0x0A0 = true ∧ bitOf (0xABC0011#28).toNat 0 = true ∧ bitOf (0xABC0011#28).toNat 1 = false ∧ (dev.setPend 2).pend = 2 ∧
      (dev.setPend 1).pend = 1 ∧ dev.pend = 0) ∧
    ({ dev.ctrl with patch := some (⟨1, 1, false, []⟩, 1, 2) }.patch ≠ none ∧ dev.ctrl.handover = false ∧ dev.standby < 3 ∧
      dev.clockRuns = true ∧ dev.ctrl.patch = none) := by decide +kernel

/-! Service life, fuses and debug. -/

theorem witness_HealthUpkeep :
    let h (f : Health → Health) : Dev := { dev with health := f dev.health }
    (Dev.reset.served = false ∧ dev.served = true ∧ dev.anyHearth = true ∧
      { dev with power := Power.reset }.anyHearth = false) ∧
    ((∀ u ∈ [-5, 7, 3], u ≤ (7 : Int)) ∧ (-40 : Int) ∈ [(-40 : Int)]) ∧
    (dev.folded 2 = false ∧ tabGet 0 (h fun x => { x with vCnt := [(2, 100)] }).health.vCnt 2 ≠ 0) ∧
    (dev.isOn (domFlash 0) = true ∧ (dev.put Reg.FLASH.STATUS.MOUNT 2).mountSt = 2) := by decide +kernel

/-- Slot 6 halted at address 5 of its program, whose word there is a NOP. -/
def halted (word : DW) (maddr : Nat) : Dev :=
  let c : Core := { core 0 [(3, 0xABC)] with halted := true }
  let d := { ((dev.put Reg.DEBUG.SEL.SLOT 6).put Reg.DEBUG.MADDR.ADDR maddr).setCore 6 c with
    loader := { Loader.reset with run := some { image with slotMask := 2 ^ 6 } }, warm := [bankKey 2 0, bankKey 2 20] }
  d.storeDW (progAddr 6 d.runAB 5) word

theorem witness_SealAndDebug :
    let nop := (encodeSyll (.nop ⟨6, true, 0⟩)).getD 0
    let d := halted nop 0x100
    (dev.aon.blow = none ∧ dev.aon.sealStep = false ∧ { dev.aon with sealStep := true }.sealStep = true ∧
      { dev.aon with blow := some .seal }.blow ≠ none ∧ (dev.put Reg.FUSE.STATUS.SEALED 1).isSealed = true) ∧
    (d.isSealed = false ∧ d.dbgSlot = 6 ∧ (d.core 6).halted = true ∧ (d.core 6).run = .running ∧ d.hasProgram 6 = true ∧ d.mate 6 = none ∧
      (d.core 6).priv ≤ 1 ∧ d.heldOf 6 = [] ∧ d.link.regQ = [] ∧ d.link.memQ = [] ∧ (d.core 6).ld = 0 ∧ d.bundleAt 6 5 5 = ([nop], false) ∧
      decodeSyll (Fin.ofNat 67 6) 0#10 nop = some (.nop ⟨Fin.ofNat 67 6, true, 0#10⟩)) ∧
    d.get Reg.DEBUG.RSEL.SYS = 0 ∧
    ((∀ w ∈ [false, true], d.accCheck 6 3 w 0x100 2 = none) ∧ regionOf false 0x100 = .mem ∧ d.inRunning (memAddr 6 0x100) = false ∧
      d.tagAt (memAddr 6 0x100) = .good) ∧
    ((halted nop 0x101).accCheck 6 3 false 0x101 2).any (fun x => decide (x.cause < 256)) = true := by decide +kernel

theorem witness_TapInstructions :
    (dev.put Reg.FUSE.STATUS.SEALED 1).isSealed = true ∧ dev.isSealed = false ∧
    (∀ k, k < 2 → { Tap.reset with addr := 0x034, ctrl := BitVec.ofNat 2 k }.ctrl.getLsbD 0 = decide (k = 1)) ∧
    { Tap.reset with addr := 0x034 }.addr = 0x034#12 := by decide +kernel

/-! Pages. -/

theorem witness_RegisterPages :
    let cold := { dev with power := { dev.power with dom := tabSet dev.power.dom 57 .off } }
    (plainReg 0x031 0x100 = true ∧ dev.pageOn 0x031 = true ∧ (regRow 0x031 0x100).isSome = true ∧ dev.view 0x031 0x100 = none) ∧
    ((pageInfo 0x040).isSome = true ∧ dev.pageOn 0x040 = true) ∧
    (stageable 0x031 = true ∧ mirrorMask 0x031 (0x900 - 0x800) ≠ 0 ∧ dev.regs.all (fun e => decide (e.1 ≠ regKey 0x031 0x100)) = true) ∧
    ((pageInfo 0x078).isSome = true ∧ cold.pageOn 0x078 = false ∧ (pageInfo 0xFFF).isSome = false) := by decide +kernel

end Sys2Proof.Tests
end

