-- ==== Sys2Proof/Tests/WitnessHost.lean ====
section
/-! SUPPORT. For each statement about host commands, flash management, lanes, clocks, MIDI and the host link that has
hypotheses, states that meet those of each clause. -/

namespace Sys2Proof.Tests

open Sys2Proof.Machine

/-! Host commands. -/

set_option Elab.async false in
theorem witness_NopAbortAndRefusals :
    let x := cmdOf 2 9 2 0x30 []
    let with' (c : Cmd) := { withCmd dev 1 3 2 0x55 [0x209] with cmds := [c] }
    Dev.reset.takesCommands = false ∧ (withCmd dev 1 3 0x77 0x55 [1, 2, 3]).Front 1 0x55 3 0x77 [1, 2, 3] ∧
    ((withCmd dev 1 3 1 0x55 [1, 2]).Front 1 0x55 3 1 [1, 2] ∧ (withCmd dev 1 3 1 0x55 [1, 2]).CanReport (doneHop 1) ∧
      (with' { x with hop := 1, tag := 0x55 }).cmd 1 0x55 ≠ none) ∧
    ((withCmd dev 0 3 1 0x55 [7]).Commanded 0 0x55 3 1 [7] ∧ (withCmd dev 2 0 1 0 []).Commanded 2 0 0 1 []) ∧
    ((with' x).Commanded 1 0x55 3 2 [0x209] ∧ (with' x).cmd 2 9 = some x ∧ x.committed = false ∧ x.typ ∈ cmdTypes ∧
      (with' x).CanReport (doneHop 2)) ∧
    ((with' { x with committed := true }).cmd 2 9 = some { x with committed := true } ∧
      (withCmd dev 1 3 2 0x55 [0x209]).cmd 2 9 = none) :=
  ⟨by decide +kernel, front (by decide +kernel), ⟨front (by decide +kernel), canReport (by decide +kernel), by decide +kernel⟩,
    ⟨commanded (by decide +kernel), commanded (by decide +kernel)⟩,
    ⟨commanded (by decide +kernel), by decide +kernel, by decide, by decide, canReport (by decide +kernel)⟩, by decide +kernel⟩

/-- A device with a mounted volume of two LUN groups, region 5 mapped, and an active link. -/
def mounted : Dev :=
  let d := ((dev.put Reg.FLASH.STATUS.MOUNT 2).put Reg.FLASH.GEOM0.GROUPS 2).put Reg.FLASH.GEOM0.PLANES 2
  let d := ((d.put Reg.FLASH.GEOM0.CW 2).put Reg.FLASH.GEOM0.PPB 64).put Reg.FLASH.GEOM1.BLOCKS 20
  let d := (d.put Reg.FLASH.GEOM1.STRIPES 19).put Reg.HOSTLINK.STATUS.STATE 3
  { d with flash := { Flash.reset with map := [(5, ⟨1, 1, 7, 0, 100⟩)] } }

/-- That device with a list command at the front of HOP0. -/
def cmd0 (typ : Nat) (args : List DW) (d : Dev := mounted) : Dev := withCmd d 0 3 typ 0x55 args

theorem witness_ListCommandsBegin :
    (∀ e ∈ ([(0x20, [0, 0, 0x1000, 0, 2]), (0x21, [0, 0, 0x1000, 0, 2]), (0x10, [0x1000, 0, 2]), (0x40, [0x1000, 0, 2]),
      (0x36, [0x1000, 0, 2, 4, 4, 4]), (0x35, [0xFFFC, 4, 0x1000, 0, 2]), (0x34, [5, 99, 1, 0x1000, 0, 2])] : List (Nat × List DW)),
      (cmd0 e.1 e.2).Commanded 0 0x55 3 e.1 e.2 ∧ (cmdOf 0 0x55 3 e.1 e.2).withList.count ≠ 0) ∧
    (mounted.pend ≠ 1 ∧ mounted.pend ≠ 3 ∧ (mounted.setPend 3).pend = 3 ∧ mounted.cmds = [] ∧ mounted.flashWritable = true ∧
      dev.flashWritable = false ∧ mounted.flashMounted = true ∧ isMapped (mounted.region 5) = true ∧
      isMapped (mounted.region 6) = false ∧ 99 + 1 ≤ (mounted.region 5).chunks.toNat) := by
  refine ⟨fun e h => ?_, by decide +kernel⟩
  simp only [List.mem_cons, List.not_mem_nil, or_false] at h
  rcases h with rfl | rfl | rfl | rfl | rfl | rfl | rfl <;> exact ⟨commanded (by decide +kernel), by decide +kernel⟩

theorem witness_FlashCommandsBegin :
    let lib (a : DW) := cmd0 0x32 [a, 9, 0x1000, 0, 2]
    ((cmd0 0x30 []).Commanded 0 0x55 3 0x30 [] ∧ mounted.isOn (domFlash 0) = true ∧ mounted.mountSt ≠ 1) ∧
    (mounted.put Reg.FLASH.STATUS.MOUNT 1).mountSt = 1 ∧
    ((cmd0 0x31 [0]).Commanded 0 0x55 3 0x31 [0] ∧ (0#28).toNat = mounted.getAt Reg.FUSE.CHIP_ID.ID 0 0 ∧ mounted.lunGroups ≠ 0 ∧
      mounted.mountSt = 2) ∧
    ((cmd0 0x31 [9]).Commanded 0 0x55 3 0x31 [9] ∧ (9#28).toNat ≠ mounted.getAt Reg.FUSE.CHIP_ID.ID 0 0 ∧ mounted.cmds = [] ∧
      (cmd0 0x33 [5] dev).Commanded 0 0x55 3 0x33 [5] ∧ (cmd0 0x32 [8, 9, 0, 0, 2] dev).Commanded 0 0x55 3 0x32 [8, 9, 0, 0, 2] ∧
      dev.flashWritable = false) ∧
    ((cmd0 0x33 [5]).Commanded 0 0x55 3 0x33 [5] ∧ (cmd0 0x33 [6]).Commanded 0 0x55 3 0x33 [6] ∧ isMapped (mounted.region 5) = true) ∧
    (∀ a ∈ [0x10008#28, 0x1FEFF, 0x1FF00, 0x200FEFF], (lib a).Commanded 0 0x55 3 0x32 [a, 9, 0x1000, 0, 2]) ∧
    ((0x1FEFF#28).toNat % 65536 < 0xFF00 ∧ 0xFF00 ≤ (0x1FF00#28).toNat % 65536 ∧ 1 < (0x200FEFF#28).toNat / 2 ^ 20 ∧
      9#28 ≠ 0#28 ∧ 9 ≤ mounted.regionChunks ∧ (cmdOf 0 0x55 3 0x32 [0x10008, 9, 0x1000, 0, 2]).withList.count ≠ 0 ∧ mounted.libGroup 1 = .inr 1 ∧ (mounted.bestStripe 1).isSome = true) := by
  refine ⟨⟨commanded (by decide +kernel), by decide +kernel, by decide +kernel⟩, by decide +kernel,
    ⟨commanded (by decide +kernel), by decide +kernel, by decide +kernel, by decide +kernel⟩,
    ⟨commanded (by decide +kernel), by decide +kernel, by decide +kernel, commanded (by decide +kernel), commanded (by decide +kernel),
      by decide +kernel⟩,
    ⟨commanded (by decide +kernel), commanded (by decide +kernel), by decide +kernel⟩, fun a h => ?_, by decide +kernel⟩
  simp only [List.mem_cons, List.not_mem_nil, or_false] at h
  rcases h with rfl | rfl | rfl | rfl <;> exact commanded (by decide +kernel)

/-! Flash management. -/

theorem witness_FlashJobs :
    let m (f : Flash → Flash) : Dev := { mounted with flash := f mounted.flash }
    let c := cmdOf 1 5 2 0x32 []
    let j : FlashJob := ⟨.cmd 1 5, 8, ⟨1, 1, 9, 0, 9⟩, false, 0⟩
    let k : FlashJob := ⟨.reloc 5, 5, ⟨1, 1, 10, 0, 9⟩, true, 9⟩
    let early : FlashJob := { k with moved := 8 }
    let d := { m (fun f => { f with jobs := [j, k] }) with cmds := [c] }
    (d.flash.jobs.find? (·.job = .cmd 1 5) = some j ∧ d.cmd 1 5 = some c ∧ c.stage = .work ∧ c.aborted = false ∧ c.typ ∈ cmdTypes ∧
      canReportB d (doneHop 1) = true ∧ d.link.out = [] ∧
      d.flash.jobs.find? (·.job = .reloc 5) = some k ∧ k.entry.chunks.toNat ≤ k.moved ∧ d.flash.pend = []) ∧
    ((m fun f => { f with jobs := [early] }).flash.jobs = [early] ∧ early.job = .reloc 5 ∧ early.moved < early.entry.chunks.toNat) ∧
    mounted.flash.jobs.find? (·.job = .cmd 1 5) = none ∧
    (mounted.flashWritable = true ∧ 4096 ≤ (m fun f => { f with journal := 4096 }).flash.journal ∧ mounted.flash.journal < 4096) ∧
    (mounted.movable 5 = true ∧ mounted.moveTarget 5 1 9 = some (some 9) ∧ mounted.readsDue 5 = false ∧
      (m fun f => { f with reads := [(20 * 0x4000 + 7, 1000000)] }).readsDue 5 = true ∧
      (m fun f => { f with due := [5] }).flash.due = [5] ∧ 5 ∉ mounted.flash.due) ∧
    (mounted.groupBad 1 = false ∧ (mounted.putAt Reg.FLASH.LUN_STAT.STATE 0 20 3).groupBad 1 = true) ∧
    (mounted.leastWorn 1 = some (5, 0) ∧ mounted.groupMaxPE 1 ≤ 0 + 200 ∧ (mounted.bestStripe 1).isSome = true ∧
      0 + 200 < (m fun f => { f with pe := [(20 * 0x4000 + 12, 201)] }).groupMaxPE 1 ∧
      (m fun f => { f with pe := [(20 * 0x4000 + 12, 201)] }).leastWorn 1 = some (5, 0)) := by decide +kernel

theorem witness_FlashLunsAndPatrol :
    let m (f : Flash → Flash) : Dev := { mounted with flash := f mounted.flash }
    let idle : Dev := (m fun f => { f with erasing := [1 * 0x4000 + 9] }).putAt Reg.FLASH.LUN_STAT.STATE 0 20 1
    let works (e : Bool) : Dev := (m fun f => { f with busy := [(20, (9, e))] }).putAt Reg.FLASH.LUN_STAT.STATE 0 20 2
    (mounted.isOn (domFlash ((20#7).toNat % 8 / 2)) = true ∧ mounted.getAt Reg.FCH.TIMEOUT_CNT.COUNT 4 0 < 0xFFFF) ∧
    (mounted.flashMounted = true ∧ 31 < 16 * mounted.lunGroups ∧ mounted.lunBad 20 = false ∧
      2 ≤ tabGet 0 (m fun f => { f with timeouts := [(20, 2)] }).flash.timeouts 20 ∧
      64 ≤ tabGet 0 (m fun f => { f with streak := [(20, 64)] }).flash.streak 20 ∧
      ¬(2 ≤ tabGet 0 (m fun f => { f with timeouts := [(20, 1)] }).flash.timeouts 20)) ∧
    (idle.flashWritable = true ∧ idle.lunOn 20 = true ∧ idle.stopping (domFlash 0) = false ∧ idle.stopping (domFlash 2) = false ∧
      idle.getAt Reg.FLASH.LUN_STAT.STATE 0 20 = 1 ∧ idle.groupBad 1 = false ∧ idle.opTarget 20 9 true = true ∧
      idle.groupBusy 1 = false) ∧
    (tabFind (works false).flash.busy 20 = some (9, false) ∧ tabFind (works true).flash.busy 20 = some (9, true) ∧
      (works false).groupBusy 1 = true ∧ (works false).getAt Reg.FLASH.LUN_STAT.STATE 0 20 = 2 ∧
      (works false).flash.bad.contains (20 * 0x4000 + 9) = false ∧ (works false).stripeOf 20 9 = 9 ∧ 9 < (works false).stripes ∧
      ((works false).freeSpares 20).filter (· ≠ 9) = [19] ∧
      ((m fun f => { f with subst := [(20 * 0x4000 + 8, 19)] }).freeSpares 20).filter (· ≠ 9) = []) ∧
    (mounted.stopping (domFlash 0) = false ∧ isSystem 5 = false ∧ isMapped (mounted.region 5) = true ∧ isMapped (mounted.region 6) = false ∧
      (mounted.region 5).chunks.toNat = 99 + 1 ∧ tabGet 0 mounted.flash.patrols 5 = 0 ∧ mounted.patrolNext 5 = true ∧
      tabGet 0 (m fun f => { f with patrols := [(5, 99)] }).flash.patrols 5 = 99) ∧
    (mounted.climb 5 0 ⟨none, none, none, 0, none, false⟩ = none ∧ mounted.get Reg.FLASH.REFRESH_BITS.BITS < 161 ∧
      (mounted.climb 5 0 ⟨some ⟨3, tagged 5 0 []⟩, none, none, 0, none, false⟩).any (fun g => decide (g.step = 1) && decide (g.bits = 3)) =
        true) := by
  refine ⟨?_, ?_, ?_, ?_, ?_, ?_⟩ <;> decide +kernel

/-- What a channel of a good device reports. -/
def chan : ChanReport := ⟨1, 2, true, true, true, 2, 9216, 64, 1000, 50, 500, 10, [50, 800, 1600, 3600], true⟩

/-- A volume of a format, with nothing written. -/
def volume (format : Byte) : Volume := ⟨format, 1, true, [], 0, [], none, [], [], [], [], [], [], 41, 1⟩

theorem witness_MountCompletes :
    let d := mounted.put Reg.FLASH.STATUS.MOUNT 1
    let off := { d with power := { d.power with dom := tabSet d.power.dom 55 .off } }
    let good := List.replicate 8 chan
    (mounted.mountSt ≠ 1 ∧ mounted.aon.stage = .ready ∧ off.flashOn = false) ∧
    (d.flashOn = true ∧ d.mountSt = 1 ∧ d.flashQuiet = true ∧ d.booting = false) ∧
    (d.pairRail 2 = true ∧ (d.putAt Reg.FCH.STATUS.VIO 4 0 0).pairRail 2 = false ∧ good.length = 8) ∧
    (chansFail [] = some 1 ∧ chansFail good = none ∧ good.head? = some chan) ∧
    (volFail (.unreadable 1) = some 6 ∧ volFail .blank = none ∧ volFail (.volume (volume 2)) = none ∧
      volFail (.volume (volume 1)) = none) := by decide +kernel

/-! Lanes, clocks and MIDI. -/

/-- Lane group 1 runs: lane 8 I2S in, lane 9 I2S out, lane 10 AES3 in, with ports 3, 4, 6 and 7. -/
def audio : Dev :=
  let d := (((dev.put Reg.CLOCKS.CFG.N_LOG2 3).putAt Reg.PORTS.GSTAT.VIO 1 0 1).putAt Reg.PORTS.GCFG.GFMT 1 0 1).putAt Reg.PORTS.GCFG.MASTER 1 0 1
  let d := (d.putAt Reg.PORTS.LANE_CFG.FMT 1 0 1).putAt Reg.PORTS.LANE_CFG.FMT 1 1 1
  let d := (d.putAt Reg.PORTS.LANE_CFG.FMT 1 2 2).putAt Reg.PORTS.LANE_CFG.DIR 1 1 1
  let d := d.put Reg.PORT_TABLE.BUF_BASE.ADDR 0x1000000
  let en (p o l c : Nat) : Nat × DW := (p, BitVec.ofNat 28 (p * 2 ^ 18 + 2 ^ 17 + o * 2 ^ 16 + l * 2 ^ 10 + c * 2 ^ 4))
  { d with ports := { d.ports with table := [en 3 0 8 1, en 4 1 9 0, en 6 0 8 1, en 7 0 10 0], active := [3, 4, 6, 7], rel := [(1, 2)] }
           warm := [bankKey 36 0] }

/-- One AES3 subframe with audio, even parity and V = 0; and a SENSOR slot of -1 with odd parity. -/
def sample : RxSample := ⟨[0x03456790], true, true, true, 0⟩
def slot16 : Cont := 0x0000FFFE

theorem witness_LaneSamples :
    let slow := (audio.putAt Reg.PORTS.GCFG.MASTER 1 0 0).putAt Reg.PORTS.GSTAT.GLOCK 1 0 1
    let fed (d : Dev) (k : Nat) : Dev := { d with ports := { d.ports with elastic := [(k, [1, 2])] } }
    let sense := (audio.putAt Reg.PORTS.GCFG.GFMT 1 0 3)
    let runs (d : Dev) (n c : Nat) : Prop := d.laneRuns n = true ∧ c < (d.laneKind n).channels ∧ 7 < d.frameSize ∧ d.baseOk = true
    (runs audio 8 1 ∧ audio.laneOut 8 = false ∧ audio.laneKind 8 = .i2s ∧ audio.buffered 8 = false ∧
      audio.portsOf false 8 1 = [3, 6] ∧ audio.isCold (audio.portAddr 3 (audio.frame12 % 4) 7) = false) ∧
    (runs slow 8 1 ∧ slow.laneOut 8 = false ∧ slow.buffered 8 = true ∧
      tabGet [] (fed slow (chanKey 8 1)).ports.elastic (chanKey 8 1) = [1, 2]) ∧
    (runs audio 10 0 ∧ audio.laneOut 10 = false ∧ audio.laneKind 10 = .aes3 ∧ sample.locked = true ∧ sample.rateOk = true ∧
      oddOnes 0x03456790 31 4 = false ∧ (0x03456790 : Cont).getLsbD 28 = false ∧ audio.getAt Reg.PORTS.LANE_STAT.LOCK 1 2 = 0 ∧
      (audio.putAt Reg.PORTS.LANE_STAT.LOCK 1 2 1).getAt Reg.PORTS.LANE_STAT.LOCK 1 2 = 1 ∧
      tabGet [] (fed audio (chanKey 10 0)).ports.elastic (chanKey 10 0) = [1, 2] ∧ { sample with locked := false }.locked = false) ∧
    (runs sense 8 1 ∧ sense.laneOut 8 = false ∧ sense.laneKind 8 = .sensor ∧ oddOnes slot16 15 0 = true ∧ slot16.getLsbD 1 = true ∧
      (slot16.extractLsb' 2 14).signExtend 28 = 0xFFFFFFF#28) ∧
    (runs audio 9 0 ∧ audio.laneOut 9 = true ∧ audio.portsOf true 9 0 = 4 :: [] ∧ tabFind audio.ports.rel (4 / 4) = some 2 ∧
      audio.isCold (audio.portAddr 4 2 7) = false ∧ audio.tagAt (audio.portAddr 4 2 7) = .good ∧ audio.portsOf true 9 1 = []) ∧
    ((audio.putAt Reg.PORTS.LANE_CFG.FMT 1 1 0).laneRuns 9 = false ∧ (audio.putAt Reg.PORTS.LANE_CFG.FMT 1 1 0).laneOut 9 = true ∧
      tabFind audio.ports.stopped (9 / 8) = none) ∧
    (audio.isOn (domPorts 0) = true ∧ audio.ports.queue.length < 1024 ∧
      1024 ≤ { audio.ports with queue := List.replicate 1024 7 }.queue.length) := by
  refine ⟨?_, ?_, ?_, ?_, ?_, ?_, ?_⟩ <;> decide +kernel

theorem witness_GroupClocksAndRails :
    audio.getAt Reg.PORTS.GCFG.MASTER 1 0 = 1 ∧ (audio.isOn (domPorts 2) = true ∧ (audio.putAt Reg.PORTS.GCFG.MASTER 2 0 0).getAt Reg.PORTS.GCFG.MASTER 2 0 = 0 ∧
      audio.getAt Reg.PORTS.GSTAT.GLOCK 2 0 ≠ 1 ∧ audio.padsSeen 2 = true ∧
      { audio with power := { audio.power with railLost := [6] } }.padsSeen 2 = false) ∧
    ((audio.laneKind 10).ownClock = true ∧ audio.laneOut 10 = false ∧ (audio.laneKind 8).ownClock = false ∧
      (audio.putAt Reg.PORTS.LANE_STAT.LOCK 1 2 1).getAt Reg.PORTS.LANE_STAT.LOCK 1 2 = 1 ∧ audio.isOn domRouter = true) ∧
    audio.isOn (domFlash 3) = true := by decide +kernel

theorem witness_ClocksAndTicks :
    let off := (dev.put Reg.CLOCKS.STATUS.LOCK 0).put Reg.CLOCKS.STATUS.XTAL_OK 1
    let v : DW := BitVec.ofNat 28 (4 * 2 ^ 10 + 1 * 2 ^ 8 + 2 ^ 7 + 2 * 16)
    let w : DW := dev.regGet (Reg.CLOCKS.CFG.FB.key 0 0) ||| 0x20
    let old := (dev.regGet (Reg.CLOCKS.CFG.FB.key 0 0)).toNat
    (dev.isOn (domPorts 0) = true ∧ dev.get Reg.CLOCKS.STATUS.LOCK = 1 ∧ dev.get Reg.CLOCKS.STATUS.HOLDOVER = 0 ∧
      (dev.put Reg.CLOCKS.STATUS.HOLDOVER 1).get Reg.CLOCKS.STATUS.HOLDOVER = 1) ∧
    (off.get Reg.CLOCKS.STATUS.LOCK = 0 ∧ off.get Reg.CLOCKS.STATUS.XTAL_OK = 1 ∧ off.refSeen = true ∧
      ((dev.put Reg.CLOCKS.STATUS.HOLDOVER 1).put Reg.CLOCKS.STATUS.XTAL_OK 1).refSeen = true) ∧
    (2 ≤ bitsOf v.toNat 12 10 ∧ bitsOf v.toNat 9 8 ≠ 3 ∧ bitsOf old 12 7 ≠ bitsOf v.toNat 12 7 ∧ dev.rateInUse = false ∧
      (dev.put Reg.IMAGE.STATUS.PEND 2).rateInUse = true ∧ ¬2 ≤ bitsOf (0x400#28).toNat 12 10) ∧
    (2 ≤ bitsOf w.toNat 12 10 ∧ bitsOf w.toNat 9 8 ≠ 3 ∧ bitsOf old 12 7 = bitsOf w.toNat 12 7 ∧
      dev.get Reg.CLOCKS.CFG.REF ≠ bitsOf w.toNat 5 4) ∧
    ((dev.put Reg.CLOCKS.STATUS.PILOT_SUB 0).pilotUsed = false ∧ dev.ctrl.doneQ = [] ∧ dev.attnW = 0 ∧
      (dev.put Reg.CLOCKS.STATUS.PILOT_SUB 1).pilotUsed = true) ∧
    (Dev.reset.aon.stage = .held ∧ { Aon.reset with stage := .sensing }.stage = .sensing ∧ dev.aon.stage ≠ .held ∧
      dev.aon.stage ≠ .sensing) := by decide +kernel

/-- MIDI0 pushes into HOP8, which HOP8's account 0 admits, and sends what HOP8 holds. -/
def midi : Dev :=
  let d := ((dev.putAt Reg.MIDI.CFG.HOP 0 0 8).putAt Reg.HOP.CFG.CONSUMER 8 0 64).putAt Reg.HOP.PROD0.ID 8 0 66
  ((d.putAt Reg.HOP.PROD0.CREDIT 8 0 100).putAt Reg.MIDI.CFG.TX_HOP 0 0 8).putAt Reg.HOP.CFG.MODE 8 0 0

theorem witness_Midi :
    let d := [0#3 ++ 3#6 ++ 0x084#11 ++ 9#8, 2, 0, 0x0904060].foldl (fun d w => d.hopPush 8 66 w) midi
    let off := { dev with power := { dev.power with dom := tabSet dev.power.dom 57 .off } }
    let a := { Uart.reset with sending := some 0xF7, fifo := List.replicate 256 1 }
    (midi.isOn (domPorts 0) = true ∧ (midi.uart 0).sysex = false ∧ 6 ≤ midi.getAt Reg.MIDI.CFG.HOP 0 0 ∧ midi.isOn domHoppers = true ∧
      (midi.hop 8).part 66 = none ∧ midi.hopAcct 8 66 = some 0 ∧ 3 ≤ midi.hopAvail 8 0) ∧
    ((0x3F#7).toNat < 0x40 ∧ 0x60 ≤ (0x6F#7).toNat ∧ (0x6F#7).toNat < 0x70) ∧
    ((dev.putAt Reg.MIDI.STAT.AS_SEEN 0 1 1).getAt Reg.MIDI.STAT.AS_SEEN 0 1 = 1 ∧ dev.getAt Reg.MIDI.STAT.AS_TIMEOUT 0 1 = 0) ∧
    ((dev.uart 1).sending = none ∧ (dev.uart 1).fifo = [] ∧ a.sending ≠ none ∧ 256 ≤ a.fifo.length ∧ a.fifo.tail.length = 255) ∧
    (off.isOn (domPorts 0) = false ∧ (tabGet [] off.power.midiRx 1).length < 4) ∧
    (6 ≤ d.getAt Reg.MIDI.CFG.TX_HOP 0 0 ∧ d.served = true ∧ d.hopConsumer 8 = 64 ∧ d.hopReplay 8 = false ∧
      (d.hop 8).ready.map (·.words) = [[(0#3 ++ 3#6 ++ 0x084#11 ++ 9#8, .good), (2, .good), (0, .good), (0x0904060, .good)]] ∧
      (d.hop 8).log = [] ∧ (d.hop 8).rest = [] ∧ (d.hop 8).pos = 0) := by decide +kernel

/-! The host link. -/

/-- A device with an active link. -/
def linked : Dev := dev.put Reg.HOSTLINK.STATUS.STATE 3

theorem linkFree_linked : linked.linkFree := by unfold Dev.linkFree Dev.linkHere; decide +kernel

set_option Elab.async false in
theorem witness_HostAccesses :
    let warm := { linked with warm := [bankKey 36 0] }
    let rd (t a tag : Nat) : Packet := mkPacket a 1 tag 0 t []
    let wr (t a n : Nat) (l : List Cont) : Packet := mkPacket a n 3 0 t l
    let leaving := { linked with power := { linked.power with entry := some ⟨[(domLink, true)], [], 1, 0, false, false, none, false, [], false⟩ } }
    (linked.linkFree ∧ Dev.reset.linkActive = false ∧ leaving.linkActive = true ∧ leaving.stopping domLink = true) ∧
    (goodPkt (rd 1 0x1028 1023) 1 ∧ spanOf 0x1028 1 false = some (.regs 1 0x28) ∧ (linked.retried (rd 1 0x1028 1023)).reqWaits (rd 1 0x1028 1023) = false) ∧
    (goodPkt (wr 2 0x91028 1 [0xFFFFFFF]) 2 ∧ spanOf 0x91028 1 true = some (.regs 0x91 0x28) ∧ linked.pageOn 0x91 = true ∧
      (linked.retried (wr 2 0x91028 1 [0xFFFFFFF])).reqWaits (wr 2 0x91028 1 [0xFFFFFFF]) = false) ∧
    (goodPkt (rd 3 (2 ^ 32 + 0x10) 0) 3 ∧ spanOf (2 ^ 32 + 0x10) 1 false = some (.mem [0x1000008]) ∧ warm.isCold 0x1000008 = false ∧
      warm.tagAt 0x1000008 = .good ∧ warm.reqWaits (rd 3 (2 ^ 32 + 0x10) 0) = false ∧ goodPkt (wr 4 (2 ^ 32 + 0x10) 1 [5]) 4 ∧
      warm.reqWaits (wr 4 (2 ^ 32 + 0x10) 1 [5]) = false) ∧
    ({ wr 2 0x91028 1 [5] with crc := 0 }.crc ≠ crc16 (wr 2 0x91028 1 [5]).hdr [5] ∧
      (wr 2 0x91028 1 [0x10000000]).crc = crc16 (wr 2 0x91028 1 [0x10000000]).hdr [0x10000000] ∧
      (0x10000000 : Cont).extractLsb' 28 4 ≠ 0#4 ∧ pktLen (wr 4 (2 ^ 32) 2 [5]) ≠ 1) ∧
    { linked with link := { linked.link with regQ := [⟨0, rd 1 0x1028 9, false⟩] } }.tagBusy 9 = true := by
  exact ⟨⟨linkFree_linked, by decide +kernel⟩, ⟨good (by decide +kernel), by decide +kernel, by decide +kernel⟩,
    ⟨good (by decide +kernel), by decide +kernel, by decide +kernel, by decide +kernel⟩,
    ⟨good (by decide +kernel), by decide +kernel, by decide +kernel, by decide +kernel, by decide +kernel, good (by decide +kernel),
      by decide +kernel⟩,
    by decide +kernel, by decide +kernel⟩

theorem witness_PushCplAndNak :
    let push (n : Nat) : Packet := mkPacket n 3 0 0 5 [(itemHeader 2 2 0x20 7).setWidth 32, 8, 9]
    let c := { cmdOf 1 5 2 0x10 [] with stage := .data, need := 128, asked := 64, descs := [(0x1000, 128)] }
    let r : DevRead := ⟨7, 0x1000, 64, 1, 5, false, 0, false⟩
    let d := { linked with cmds := [c], link := { linked.link with reads := [r] } }
    let gone := { linked with link := { linked.link with reads := [{ r with closed := true }] } }
    let cpl (code : Nat) : Packet := mkPacket 0 16 7 code 8 (List.replicate 16 0xFFFFFFFF)
    (goodPkt (push 2) 5 ∧ linked.isOn domHoppers = true ∧ (linked.hop 2).part 65 = none ∧ linked.hopAcct 2 65 = some 0 ∧
      3 ≤ linked.hopAvail 2 0) ∧ (goodPkt (push 16) 5 ∧ 16 ≤ pktAddr (push 16)) ∧
    (d.link.reads.find? (·.tag = 7) = some r ∧ d.cmd 1 5 = some c ∧ c.typ ∈ cmdTypes ∧ d.CanReport (doneHop 1) ∧ goodPkt (cpl 0) 8 ∧
      goodPkt (cpl 4) 8 ∧ pktCode (cpl 4) ≠ 0 ∧ (cpl 0).payload.length = r.len / 4 ∧ c.typ = 0x010 ∧ c.stage = .data ∧ c.ahead = [] ∧
      r.off = c.moved ∧ c.moved + 64 < c.need ∧ r.closed = false ∧ d.link.out = []) ∧
    (gone.link.reads.all (·.closed) = true ∧ gone.link.reads.find? (·.tag = 7) = some { r with closed := true } ∧ gone.cmds = []) ∧
    (linked.link.reads = [] ∧ goodPkt (mkPacket 0 2 7 0 0xB [0, 0]) 11 ∧ linked.get Reg.HOSTLINK.NAK_RX_CNT.COUNT < 0xFFFF) := by
  exact ⟨⟨good (by decide +kernel), by decide +kernel, by decide +kernel, by decide +kernel, by decide +kernel⟩,
    ⟨good (by decide +kernel), by decide +kernel⟩,
    ⟨by decide +kernel, by decide +kernel, by decide, canReport (by decide +kernel), good (by decide +kernel), good (by decide +kernel),
      by decide +kernel⟩, by decide +kernel,
    by decide +kernel, good (by decide +kernel), by decide +kernel⟩

theorem witness_LinkStates :
    let st (n : Nat) := dev.put Reg.HOSTLINK.STATUS.STATE n
    let c := { cmdOf 1 5 2 0x10 [] with stage := .data, need := 64, asked := 64 }
    let d := { linked with cmds := [c], link := { linked.link with reads := [⟨7, 0x1000, 64, 1, 5, false, 0, false⟩] } }
    let l1 := (linked.put Reg.HOSTLINK.CFG.L1_EN 1).put Reg.HOSTLINK.CFG.L2_EN 0
    let att := [itemHeader 2 1 0x20 7, 8].foldl (fun d w => d.hopPush 4 64 w) ((linked.put Reg.ATTN.CFG.EN 1).put Reg.ATTN.CFG.HOLD 9)
    (dev.isOn domLink = true ∧ (∀ n ∈ [1, 2, 6], (st n).linkSt = n ∧ ((st n).linkRate (63#6).toNat).isSome = true) ∧ (st 5).linkSt = 5 ∧
      dev.hopAcct 2 65 = some 0 ∧ dev.power.held = []) ∧
    (linked.linkSt = 3 ∧ linked.link.regQ = [] ∧ linked.link.memQ = [] ∧ linked.link.stalled = [] ∧ linked.link.reads = []) ∧
    (d.cmd 1 5 = some c ∧ c.typ = 0x010 ∧ d.link.out = [] ∧ canReportB d (doneHop 1) = true ∧ ∀ y ∈ d.link.reads, y.hop = 1 ∧ y.cmdTag = 5 ∧ y.closed = false) ∧
    (l1.linkSt = 3 ∧ l1.flag Reg.HOSTLINK.CFG.L1_EN = true ∧ l1.link.readWaits = false ∧ l1.flag Reg.HOSTLINK.CFG.L2_EN = false) ∧
    (att.attnW ≠ 0 ∧ att.flag Reg.ATTN.CFG.EN = true ∧ att.attn.hrb ≠ some true ∧ linked.attnW = 0) := by decide +kernel

end Sys2Proof.Tests
end

