-- ==== Sys2Proof/Tests/WitnessSyllables.lean ====
section
/-! SUPPORT. For each statement about syllables that has hypotheses, states and operands that meet those of each clause. -/

namespace Sys2Proof.Tests

open Sys2Proof.Machine

/-- Slot 0 at U with D1, D2, D3, P0, P7 and M0 as given. -/
def regs0 : Tab DW := [(1, 0x7FFFFFE), (2, 1), (3, 0x8000000), (4, 0xFFFFFFF), (0x20, 0x100), (0x27, 0x200), (0x28, 2)]
def user : State := slot0 (core 0 regs0)
/-- The same with both traps enabled. -/
def trapped : State := slot0 { core 0 regs0 with traps := 3 }

theorem clear {s : State} {x : Ctx} {i : Instr}
    (h : ((s.ready x i).heldOf x.core.val).all (fun h => decide (h.outs = [] ∧ h.retried = false)) = true) : s.Clear x i :=
  fun e he => of_decide_eq_true (List.all_eq_true.1 h e he)

theorem all_stand {s : State} {x : Ctx} {l : List Instr} (h : l.all (standsB s x) = true) : ∀ i ∈ l, s.Stands x i :=
  fun i hi => stands (List.all_eq_true.1 h i hi)

/-! The machine. -/

set_option Elab.async false in
theorem witness_SyllablesDecode : ∃ w, (Instr.add ctx0 3 1 2).ctx? = some ctx0 ∧ syllOk (.add ctx0 3 1 2) = true ∧
    uncut (.add ctx0 3 1 2) = true ∧ encodeSyll (.add ctx0 3 1 2) = some w := ⟨_, rfl, by decide, rfl, rfl⟩

/-- A store of D2 to 0x100. -/
def storeD2 : Instr := .st ctx0 ⟨2, 0, 0, 0⟩

theorem witness_MemoryFormKept : storeD2.ctx? = some ctx0 ∧ ctx0.core.val < 64 ∧ Memory.wf user.dev.mem = true ∧
    ∃ t, step { user with pending := storeD2 :: user.pending } = .next t := ⟨rfl, by decide, rfl, _, rfl⟩

/-- A stream of slot 0 whose ring begins the attack cache, with one chunk on its way. -/
def stream : Stream := ⟨3, 0, ⟨false, 0, false, 1, 5, 0, 100000, 0, 0, 0x3000000, 4, 0x2000000, 1⟩, false, false, 1, 2, none, [2, 4], [], false, false⟩

/-- Slot 0 at U in a device with a command and a stream in progress. -/
def busy : State := ⟨{ user.dev with cmds := [cmdOf 1 5 2 0x10 []], stoker := { Stoker.reset with streams := [stream] } }, []⟩

theorem witness_sound : busy.dev.Sound := by unfold Dev.Sound; decide

theorem witness_UserIsolation : storeD2.ctx? = some ctx0 ∧ (busy.at ctx0).priv = 0 ∧ busy.Stands ctx0 storeD2 ∧ busy.dev.Sound ∧
    busy.dev.hostIdle ∧ busy.dev.heldOf 0 = [] ∧
    ∃ t, exec storeD2 busy = .next t ∧ (t.dev.heldOf 0).map (·.outs) = [[.storeD 0x100 1 0 0]] ∧
      (busy.dev.emitOut PageOps.real 0 (.storeD 0x100 1 0 0)).wAt 0x100 ≠ busy.dev.wAt 0x100 :=
  ⟨rfl, by decide, stands (by decide +kernel), witness_sound, ⟨rfl, rfl⟩, rfl, _, rfl, by decide +kernel, by decide +kernel⟩

theorem witness_CommandsAndRingsKept : busy.dev.Sound ∧ ∃ t, step { busy with pending := [storeD2] } = .next t :=
  ⟨witness_sound, _, rfl⟩

/-! The ALU and the MAC units. -/

theorem witness_ArithmeticAndLogic :
    (∀ i ∈ ([.add ctx0 5 1 2, .adc ctx0 5 1 2, .sub ctx0 5 1 2, .sbc ctx0 5 1 2, .adds ctx0 5 1 2, .subs ctx0 5 1 2, .cmp ctx0 1 2,
        .and ctx0 5 1 2, .or ctx0 5 1 2, .xor ctx0 5 1 2, .andn ctx0 5 1 2, .tst ctx0 1 2, .not ctx0 5 1, .min ctx0 5 1 2,
        .max ctx0 5 1 2, .neg ctx0 5 1, .negs ctx0 5 1, .abs ctx0 5 1, .abss ctx0 5 1, .norm ctx0 5 1, .sxw ctx0 5 1,
        .pack ctx0 5 1 2] : List Instr), trapped.Stands ctx0 i) ∧
    trapped.untrapped ctx0 28 (((trapped.at ctx0).d 1).toInt + ((trapped.at ctx0).d 2).toInt) ∧
    trapped.untrapped ctx0 28 (-((trapped.at ctx0).d 1).toInt) ∧
    user.untrapped ctx0 28 (-((user.at ctx0).d 3).toInt) ∧
    (∀ j, j < 27 → (0#28).getLsbD (26 - j) = (0#28).msb) ∧ (0x7FFFFFE#28).getLsbD (26 - 0) ≠ (0x7FFFFFE#28).msb :=
  ⟨all_stand (by decide +kernel), .inr (by decide +kernel), .inr (by decide +kernel), .inl (by decide +kernel), by decide, by decide⟩

theorem witness_ShiftsAndRotates :
    (∀ i ∈ ([.lsl ctx0 5 1 2, .lsr ctx0 5 1 2, .asr ctx0 5 1 2, .ror ctx0 5 1 2, .rol ctx0 5 1 2, .lsli ctx0 5 1 63,
        .lsri ctx0 5 1 63, .asri ctx0 5 1 63, .rori ctx0 5 1 63, .roli ctx0 5 1 63, .lslw ctx0 ⟨5, true⟩ ⟨1, false⟩ ⟨2, false⟩,
        .lsrw ctx0 ⟨5, true⟩ ⟨1, false⟩ ⟨2, false⟩, .asrw ctx0 ⟨5, true⟩ ⟨1, false⟩ ⟨2, false⟩,
        .rorw ctx0 ⟨5, true⟩ ⟨1, false⟩ ⟨2, false⟩] : List Instr), user.Stands ctx0 i) ∧
    (LslRow (0x2001#14) 0 0x2001#14 none ∧ LslRow (0x2001#14) 13 0x2000#14 (some false) ∧
      LslRow (0x2001#14) 14 0#14 (some true) ∧ LslRow (0x2001#14) 15 0#14 (some false)) ∧
    (LsrRow (0x2001#14) 0 0x2001#14 none ∧ LsrRow (0x2001#14) 13 1#14 (some false) ∧
      LsrRow (0x2001#14) 14 0#14 (some true) ∧ LsrRow (0x2001#14) 15 0#14 (some false)) ∧
    (AsrRow (0x2001#14) 0 0x2001#14 none ∧ AsrRow (0x2001#14) 1 0x3000#14 (some true) ∧ AsrRow (0x2001#14) 40 0x3FFF#14 (some true)) ∧
    (RorRow (0x2001#14) 15 0x3000#14 (some true) ∧ RorRow (0x2001#14) 28 0x2001#14 none) ∧
    (RolRow (0x8000001#28) 1 3#28 (some true) ∧ RolRow (0x8000001#28) 56 0x8000001#28 none) := by
  refine ⟨all_stand (by decide +kernel), ⟨?_, ?_, ?_, ?_⟩, ⟨?_, ?_, ?_, ?_⟩, ⟨?_, ?_, ?_⟩, ⟨?_, ?_⟩, ?_, ?_⟩ <;>
    (try unfold LslRow) <;> (try unfold LsrRow) <;> (try unfold AsrRow) <;> (try unfold RorRow) <;> (try unfold RolRow) <;> decide

/-- The cases that illustrate R141: -7 / 2, MIN28 / -1, 5 / 0 and -7 / 0. -/
theorem witness_Division : user.Stands ctx0 (.div ctx0 6 1 2) ∧
    ((0xFFFFFFD#28).toInt = (0xFFFFFF9#28).toInt.tdiv (2#28).toInt ∧
      (0xFFFFFFF#28).toInt = (0xFFFFFF9#28).toInt - (0xFFFFFFD#28).toInt * (2#28).toInt) ∧
    ((user.at ctx0).traps.getLsbD 1 = false ∧ ((user.at ctx0).d 3).toInt = minOf 28 ∧ ((user.at ctx0).d 4).toInt = -1) ∧
    ((user.at ctx0).traps = 0#2 ∧ ((user.at ctx0).d 9).toInt = 0 ∧ 0 ≤ ((user.at ctx0).d 1).toInt ∧ ((user.at ctx0).d 4).toInt < 0) :=
  ⟨stands (by decide +kernel), by decide, by decide +kernel, by decide +kernel⟩

theorem witness_ImmediateForms : (∀ i ∈ ([.addi ctx0 5 2 31, .cmpi ctx0 1 32, .movi ctx0 5 0x400, .movh ctx0 5 0x91, .movm ctx0 5 0x515,
    .movl ctx0 5 0x27] : List Instr), user.Stands ctx0 i) ∧ trapped.untrapped ctx0 28 (((trapped.at ctx0).d 2).toInt + (31#6).toInt) :=
  ⟨all_stand (by decide +kernel), .inr (by decide +kernel)⟩

/-- Halves of D1, D2 and D5. -/
def h1 : Half := ⟨1, false⟩
def h2 : Half := ⟨2, false⟩
def h5 : Half := ⟨5, true⟩

theorem witness_WordForms : (∀ i ∈ ([.addw ctx0 h5 h1 h2, .subw ctx0 h5 h1 h2, .addsw ctx0 h5 h1 h2, .subsw ctx0 h5 h1 h2, .cmpw ctx0 h1 h2,
      .negw ctx0 h5 h1, .negsw ctx0 h5 h1, .absw ctx0 h5 h1, .abssw ctx0 h5 h1, .minw ctx0 h5 h1 h2, .maxw ctx0 h5 h1 h2,
      .movw ctx0 h5 h1] : List Instr), user.Stands ctx0 i) ∧
    trapped.untrapped ctx0 14 (((trapped.at ctx0).half h1).toInt + ((trapped.at ctx0).half h2).toInt) ∧
    trapped.untrapped ctx0 14 (-((trapped.at ctx0).half h1).toInt) :=
  ⟨all_stand (by decide +kernel), .inr (by decide +kernel), .inr (by decide +kernel)⟩

set_option Elab.async false in
theorem witness_MultiplyAccumulateAndExtract : ∀ i ∈ ([.mac ctx0 ⟨true, 3, 1, 2, true, true⟩, .mpy ctx0 ⟨false, 0, 3, 3, false, true⟩,
    .macw ctx0 ⟨true, 1, 1, 2, false, false⟩, .mpyw ctx0 ⟨false, 2, 1, 2, true, false⟩, .ext ctx0 false 5 0 63 true true,
    .extw ctx0 true 5 3 0 false true, .clra ctx0 false 2, .lda ctx0 true 1 1 63] : List Instr), user.Stands ctx0 i :=
  all_stand (by decide +kernel)

/-! The CTL unit. -/

/-- Slot 0 at S, and control core 0 at M. -/
def sup : State := slot0 { core 1 [(1, 0x400), (2, 0x800), (3, 0xC00)] with eseal := 0, estat := 0x123 }
def mach : State := ctrl0 { core 3 [(1, 0xC00), (2, 0x800)] with eseal := 0x400, estat := 0xC00 }

theorem witness_SystemRegisters :
    (∀ i ∈ ([.mov ctx0 0x27 3, .sys ctx0 5 0x00 false, .sys ctx0 5 0x0B false, .sys ctx0 5 0x10 false, .sys ctx0 5 0x14 false,
      .sys ctx0 5 0x2B false, .sys ctx0 5 0x08 true, .sys ctx0 5 0x0A true, .sys ctx0 5 0x0B true, .sys ctx0 5 0x2B true] : List Instr),
      user.Stands ctx0 i) ∧
    (user.at ctx0).priv = 0 ∧ (user.at ctx0).midLoop ∧ (sup.at ctx0).midLoop ∧ (mach.at ctxC).midLoop ∧
    sup.Stands ctx0 (.sys ctx0 1 0x08 true) ∧ mach.Stands ctxC (.sys ctxC 1 0x08 true) ∧
    ((sup.at ctx0).priv ≠ 0 ∧ ((sup.at ctx0).d 1).extractLsb' 10 2 ≠ 2#2 ∧ ((sup.at ctx0).d 1).extractLsb' 10 2 ≠ 3#2) ∧
    ((sup.at ctx0).d 2).extractLsb' 10 2 = 2#2 ∧ ((sup.at ctx0).priv = 1 ∧ ((sup.at ctx0).d 3).extractLsb' 10 2 = 3#2) ∧
    ((mach.at ctxC).priv = 3 ∧ ((mach.at ctxC).d 1).extractLsb' 10 2 = 3#2) :=
  ⟨all_stand (by decide +kernel), by decide +kernel, .inl (by decide +kernel), .inl (by decide +kernel), .inl (by decide +kernel),
    stands (by decide +kernel), stands (by decide +kernel), by decide +kernel, by decide +kernel, by decide +kernel, by decide +kernel⟩

/-- Slot 0 in two loops, the inner from 4 to 5, the outer from 3 to 5. -/
def looping (lc lc1 ld : Nat) (le1 : DW := 5) : Core :=
  { core 0 regs0 ld 1 with lc := BitVec.ofNat 28 lc, ls := 4, le := 5, lc1 := BitVec.ofNat 28 lc1, ls1 := 3, le1 := le1 }

theorem witness_BranchesAndJumps : (slot0 (looping 7 8 2)).Stands ctx0 (.br ctx0 1 0xFFE) ∧ (slot0 (looping 7 8 2)).Stands ctx0 (.jr ctx0 1 0) ∧
    (looping 7 8 2).Takes 1 ∧ ¬(looping 7 8 2).Takes 2 ∧ (looping 7 8 2).Takes 0 ∧ ¬(looping 7 8 2).Takes 15 ∧
    ¬(looping 7 8 2).inLoop 3 ∧ (looping 7 8 2).outer.inLoop 3 ∧ ¬(looping 7 8 2).outer.inLoop 0x100 ∧ (core 0).midLoop := by
  refine ⟨stands (by decide +kernel), stands (by decide +kernel), ?_⟩
  unfold Core.Takes Core.inLoop Core.midLoop; decide

theorem witness_CallsAndReturns :
    let sp : DW := 0x1FE
    let c := { core 0 regs0 with shadow := [7#28] }
    let d := (slot0 c).dev.storeDW 0x200 7
    let r : State := ⟨d, []⟩
    let q : State := ⟨(slot0 c).dev.storeDW 0x200 9, []⟩
    let full := slot0 { core 0 regs0 with shadow := List.replicate 32 7 }
    (user.Reaches ctx0 (.call ctx0 0x10) true sp 2 ∧ user.Reaches ctx0 (.callr ctx0 0) true sp 2 ∧
      (user.at ctx0).shadow.length < 32 ∧
      user.Stands ctx0 (.call ctx0 0x10) ∧ user.Stands ctx0 (.callr ctx0 0)) ∧
    (32 ≤ (full.at ctx0).shadow.length ∧ full.Stands ctx0 (.call ctx0 0x10)) ∧
    ((r.at ctx0).shadow = 7#28 :: [] ∧ r.Reaches ctx0 (.ret ctx0) false 0x200 2 ∧ r.dev.tags = [] ∧
      (r.seen ctx0 (.ret ctx0)).dwAt (memAddr 0 0x200) = 7#28 ∧ r.Stands ctx0 (.ret ctx0)) ∧
    ((q.at ctx0).shadow = 7#28 :: [] ∧ q.Reaches ctx0 (.ret ctx0) false 0x200 2 ∧ q.dev.tags = [] ∧
      (q.seen ctx0 (.ret ctx0)).dwAt (memAddr 0 0x200) ≠ 7#28 ∧ q.Stands ctx0 (.ret ctx0)) ∧ (user.at ctx0).shadow = [] ∧ user.Stands ctx0 (.ret ctx0) :=
  ⟨⟨reaches (by decide +kernel), reaches (by decide +kernel), by decide +kernel, stands (by decide +kernel), stands (by decide +kernel)⟩,
    ⟨by decide +kernel, stands (by decide +kernel)⟩,
    ⟨by decide +kernel, reaches (by decide +kernel), by decide +kernel, by decide +kernel, stands (by decide +kernel)⟩,
    ⟨by decide +kernel, reaches (by decide +kernel), by decide +kernel, by decide +kernel, stands (by decide +kernel)⟩,
    by decide +kernel, stands (by decide +kernel)⟩

theorem witness_Loops :
    let loop : Instr := .loop ctx0 (.reg 9) 4
    let nop : Instr := .nop ctx0
    (∀ ld ∈ [0, 1, 2], (slot0 (looping 1 1 ld)).Stands ctx0 loop ∧ (slot0 (looping 1 1 ld)).Stands ctx0 nop ∧ (looping 1 1 ld).ld = ld) ∧
    (looping 1 1 2).d 9 = 0#28 ∧ (looping 1 1 2).d 2 ≠ 0#28 ∧ (0xFF#8).setWidth 28 + 1#28 ≠ 0#28 ∧
    (looping 1 1 2).le.toNat = (looping 1 1 2).fetch.toNat ∧
    ((looping 2 1 2).lc ≠ 1#28 ∧ (looping 1 1 1).lc = 1#28 ∧ (looping 1 1 2 6).le1.toNat ≠ 5 ∧ (looping 1 2 2).lc1 ≠ 1#28 ∧
      (looping 1 1 2).lc1 = 1#28) := by
  refine ⟨fun ld h => ?_, by decide⟩
  rcases (by simpa using h : ld = 0 ∨ ld = 1 ∨ ld = 2) with rfl | rfl | rfl <;>
    exact ⟨stands (by decide +kernel), stands (by decide +kernel), by decide⟩

theorem witness_WaitBarrierAndFlush :
    let c1 := { user.dev with loader := { user.dev.loader with complete := [1] } }
    user.Stands ctx0 (.iflush ctx0) ∧ user.Stands ctx0 (.wait ctx0) ∧ (user.at ctx0).midLoop ∧ user.dev.mate 0 = none ∧
    user.Clear ctx0 (.wait ctx0) ∧ user.Clear ctx0 (.barrier ctx0 1) ∧ mach.Clear ctxC (.wait ctxC) ∧ mach.dev.mate 64 = none ∧
    user.dev.hostIdle ∧ mach.dev.hostIdle ∧
    ((sup.at ctx0).priv = 1 ∧ sup.Stands ctx0 (.wait ctx0)) ∧
    (mach.Stands ctxC (.wait ctxC) ∧ ((mach.dev.targetOf 64).map mach.dev.anyPrivate).getD false = false) ∧
    (((mach.dev.firePriv 64 1).targetOf 64).map (mach.dev.firePriv 64 1).anyPrivate).getD false = true ∧
    ((user.dev.barrierMask 3).testBit 0 = false ∧ (user.dev.barrierMask 1).testBit 0 = true ∧ 1 ∉ user.dev.loader.complete) ∧
    ((c1.barrierMask 1).testBit 0 = true ∧ 1 ∈ c1.loader.complete) ∧ user.Stands ctx0 (.barrier ctx0 1) :=
  ⟨stands (by decide +kernel), stands (by decide +kernel), .inl (by decide +kernel), by decide +kernel,
    clear (by decide +kernel), clear (by decide +kernel), clear (by decide +kernel), by decide +kernel, ⟨rfl, rfl⟩, ⟨rfl, rfl⟩,
    ⟨by decide +kernel, stands (by decide +kernel)⟩, ⟨stands (by decide +kernel), by decide +kernel⟩, by decide +kernel,
    by decide +kernel, by decide +kernel, stands (by decide +kernel)⟩

theorem witness_ExceptionEntryAndReturn :
    let ask (v : DW) := slot0 { core 1 with estat := v }
    user.Stands ctx0 (.svc ctx0 0x7FF) ∧ user.Stands ctx0 (.brk ctx0 0) ∧ user.Stands ctx0 (.retx ctx0) ∧ (user.at ctx0).priv = 0 ∧
    ((ask 0x123).Stands ctx0 (.retx ctx0) ∧ ((ask 0x123).at ctx0).priv = 1 ∧ ((ask 0x123).at ctx0).estat.extractLsb' 10 2 = 0#2 ∧
      ((ask 0x400).at ctx0).estat.extractLsb' 10 2 = 1#2 ∧ ((ask 0x800).at ctx0).estat.extractLsb' 10 2 = 2#2) ∧
    (mach.Stands ctxC (.retx ctxC) ∧ (mach.at ctxC).priv = 3 ∧ (mach.at ctxC).estat.extractLsb' 10 2 = 3#2 ∧
      (mach.at ctxC).eseal.extractLsb' 10 2 = 1#2) :=
  ⟨stands (by decide +kernel), stands (by decide +kernel), stands (by decide +kernel), by decide +kernel,
    ⟨stands (by decide +kernel), by decide +kernel, by decide +kernel, by decide +kernel, by decide +kernel⟩,
    ⟨stands (by decide +kernel), by decide +kernel, by decide +kernel, by decide +kernel⟩⟩

/-- Slot 0 with P0 at an address, and a load and a store through it. -/
def at0 (a : DW) : State := slot0 (core 0 [(0x20, a)])
def ls0 : LsOps := ⟨2, 0, 0, 0⟩

theorem witness_ExceptionsRaised :
    (∀ a ∈ [0xD000000#28, 0xDFFFFFD, 0x4000000, 0xCFFFFFD, 0x8000, 0x2001000, 0x101], (at0 a).Stands ctx0 (.ld ctx0 ls0) ∧
      (at0 a).Stands ctx0 (.st ctx0 ls0) ∧ ((at0 a).at ctx0).ea ls0 = a) ∧
    (InMemory False (wOf 0x8000 0) ∧ InMemory False (wOf 0x2001000 1) ∧
      ∀ w ∈ (user.dev.slotCfg 0).wins, 0x2001000 < w.base ∨ w.limit < 0x2001000) ∧
    (InMemory False (wOf 0x101 0) ∧ (0x101#28).getLsbD 0 = true ∧
      ∃ w ∈ (user.dev.slotCfg 0).wins, w.base ≤ 0x101 ∧ 0x102 ≤ w.limit ∧ w.rd = true ∧ w.wr = true) ∧
    ({ user.dev with warm := [] }.isCold (memAddr 0 0x100) = true ∧ memBank (memAddr 0 0x100) = some (1, 0)) ∧
    (trapped.Stands ctx0 (.div ctx0 6 1 9) ∧ (trapped.at ctx0).d 9 = 0#28 ∧ ((trapped.at ctx0).d 3).toInt = minOf 28 ∧
      ((trapped.at ctx0).d 4).toInt = -1 ∧ fits 28 (((trapped.at ctx0).d 3).toInt + ((trapped.at ctx0).d 4).toInt) = false ∧
      fits 14 (((slot0 (core 0 [(1, 0x1FFF)])).at ctx0 |>.half h1).toInt + ((trapped.at ctx0).half h2).toInt) = false) ∧
    (user.Stands (accessCtx 0) (.reservedInstruction 0 [0xE000000#28] false) ∧ (user.at (accessCtx 0)).weak = [] ∧
      user.dev.heldOf 0 = [] ∧ decodeSyll 0 0 0xE000000 = none ∧
      (0xE000000#28).getLsbD 27 = true) ∧
    (wellFormed [Syl.ofWord 0x8000100#28] = true ∧ decodeSyll 0 0 0x80F0000 = none) := by
  refine ⟨fun a h => ?_, ⟨?_, ?_, by decide +kernel⟩, ⟨?_, by decide, by decide +kernel⟩, by decide +kernel,
    ⟨stands (by decide +kernel), by decide +kernel, by decide +kernel, by decide +kernel, by decide +kernel, by decide +kernel⟩,
    ⟨stands (by decide +kernel), by decide +kernel, by decide +kernel, by decide +kernel, by decide⟩, by decide +kernel⟩
  · simp only [List.mem_cons, List.not_mem_nil, or_false] at h
    rcases h with rfl | rfl | rfl | rfl | rfl | rfl | rfl <;>
      exact ⟨stands (by decide +kernel), stands (by decide +kernel), by decide +kernel⟩
  all_goals exact inMem (b := false) (by simp) (by decide)

/-! The LS and PFX units. -/

theorem witness_LoadsAndLocalRegisters :
    (∀ a ∈ [0x100#28, 0x7FFC, 0x2000FFC], (at0 a).Reaches ctx0 (.ldp ctx0 ls0) false a 4 ∧
      (at0 a).Reaches ctx0 (.ld ctx0 ls0) false a 2) ∧
    (∀ i ∈ ([.ldw ctx0 ls0, .ldwl ctx0 ls0, .ldwh ctx0 ls0] : List Instr), (at0 0x7FFF).Reaches ctx0 i false 0x7FFF 1) ∧
    user.dev.tags = [] ∧
    (∀ i ∈ ([.ldw ctx0 ls0, .ldwl ctx0 ls0, .ldwh ctx0 ls0, .ld ctx0 ls0, .ldp ctx0 ls0] : List Instr), user.Stands ctx0 i) ∧
    (∀ a ∈ [0xF100000#28, 0xF10003E, 0xF10010A], (at0 a).Stands ctx0 (.ld ctx0 ls0) ∧ ((at0 a).at ctx0).ea ls0 = a) := by
  refine ⟨fun a h => ?_, fun i h => ?_, by decide +kernel, all_stand (by decide +kernel), fun a h => ?_⟩ <;>
    simp only [List.mem_cons, List.not_mem_nil, or_false] at h <;> rcases h with rfl | rfl | rfl
  all_goals first
    | exact reaches (by decide +kernel)
    | exact ⟨reaches (by decide +kernel), reaches (by decide +kernel)⟩
    | exact ⟨stands (by decide +kernel), by decide +kernel⟩

/-- A control core that stores to a word of program memory of the running image. -/
def toRunning : State := ⟨{ (ctrl0 (core 3 [(0x20, 0xD000000)])).dev with warm := [bankKey 1 16] }, []⟩

theorem witness_StoresToMemory :
    ((at0 0x7FFC).Reaches ctx0 (.stp ctx0 ls0) true 0x7FFC 4 ∧ (at0 0x7FFE).Reaches ctx0 (.st ctx0 ls0) true 0x7FFE 2 ∧
      (at0 0x7FFF).Reaches ctx0 (.stw ctx0 ls0) true 0x7FFF 1 ∧ (at0 0x7FFF).Reaches ctx0 (.stwh ctx0 ls0) true 0x7FFF 1 ∧
      user.dev.inRunning 0x7FFC = false ∧ user.dev.poisonAt 0x7FFF = false) ∧
    ({ user.dev with tags := [(0x7FFE, .poisoned)] }.poisonAt 0x7FFF = true) ∧
    (toRunning.Reaches ctxC (.stp ctxC ls0) true 0xD000000 4 ∧ toRunning.dev.inRunning (memAddr 64 0xD000000) = true ∧
      toRunning.dev.inRunning (memAddr 64 0xD000002) = true ∧ toRunning.Stands ctxC (.stp ctxC ls0)) ∧
    (∀ i ∈ ([.stw ctx0 ls0, .stwh ctx0 ls0, .st ctx0 ls0, .stp ctx0 ls0, .pmod ctx0 0 1 7, .pmod ctx0 0 2 0] : List Instr),
      user.Stands ctx0 i) :=
  ⟨⟨reaches (by decide +kernel), reaches (by decide +kernel), reaches (by decide +kernel), reaches (by decide +kernel),
      by decide +kernel, by decide +kernel⟩,
    by decide +kernel, ⟨reaches (by decide +kernel), by decide +kernel, by decide +kernel, stands (by decide +kernel)⟩,
    all_stand (by decide +kernel)⟩

set_option Elab.async false in
theorem witness_RepeatedBundle :
    let x : Ctx := ⟨0, false, 0⟩
    let rep (n : RepCount) : Instr := .rep x n none
    let mac : Instr := .mac ctx0 ⟨false, 1, 1, 2, false, false⟩
    let syls (n : RepCount) : List Syl := [Syl.ofInstr (rep n), Syl.ofInstr mac]
    let c (n : RepCount) := { core 0 [(1, 1024), (2, 1025)] with bundle := [rep n] }
    let ready (c : Core) (n : RepCount) : Prop :=
      let d := (slot0 c).dev.poised PageOps.real 0 (syls n)
      (c.run = .running ∧ c.halted = false ∧ c.parked = false ∧ c.fetch.toNat + 1 ≤ 0x3FFF) ∧ c.bundle = [rep n] ∧
        d.core 0 = { c.atPlace (syls n) with bundle := [] } ∧ (d.core 0).readsBad (syls n) = false ∧ (d.core 0).midway = none ∧
        c.retry = false ∧ d.heldOf 0 = [] ∧ c.ld = 0
    let resumed := { c (.reg 2) with lprog := 1#2 ++ 10#13 ++ 9#13 }
    syllOk mac = true ∧ ready (c (.imm 0x3FF)) (.imm 0x3FF) ∧ (0x3FF#10).toNat + 1 ≤ 1024 ∧
    (ready (c (.reg 1)) (.reg 1) ∧ ((c (.reg 1)).d 1).toNat ≤ 1024 ∧ (c (.reg 1)).lprog.extractLsb' 26 2 ≠ 1#2) ∧
    (ready (c (.reg 2)) (.reg 2) ∧ 1024 < ((c (.reg 2)).d 2).toNat) ∧
    (ready resumed (.reg 2) ∧ resumed.lprog.extractLsb' 26 2 = 1#2 ∧
      (resumed.lprog.extractLsb' 13 13).toNat - (resumed.lprog.extractLsb' 0 13).toNat = 1) := by
  refine ⟨by decide, ⟨?_, ?_⟩, by decide, ⟨⟨?_, ?_⟩, by decide⟩, ⟨⟨?_, ?_⟩, by decide⟩, ⟨?_, ?_⟩, by decide⟩ <;> decide +kernel

theorem witness_LongInstructions :
    let s := slot0 (core 0 [(1, 2), (2, 4096), (3, 4097), (0x20, 0x100), (0x21, 0x200)])
    let a : Nat → DW := fun i => circular 0x100 0 0 (BitVec.ofNat 28 (i * 2))
    let b : Nat → DW := fun i => circular 0x200 0 0 (BitVec.ofNat 28 (i * 2))
    let mac : Instr := .blkmac ctx0 1 0 1 2 true true false none
    let mov : Instr := .blkmov ctx0 1 0 1 false false none
    let fill : Instr := .blkfill ctx0 1 0 1 false false none
    let max : Instr := .blkmax ctx0 1 0 1 true false false none
    (s.at ctx0).lprog.extractLsb' 26 2 ≠ 2#2 ∧ (s.at ctx0).midLoop ∧ (s.at ctx0).retry = false ∧
    (((s.at ctx0).d 9).toNat = 0 ∧ 4096 < ((s.at ctx0).d 3).toNat ∧ ((s.at ctx0).d 2).toNat ≤ 4096 ∧ ((s.at ctx0).d 1).toNat = 2) ∧
    (∀ i ∈ [mac, mov, fill, max], s.Stands ctx0 i) ∧
    (∀ i ∈ [mac, mov, fill, max], s.Clear ctx0 i ∧ (s.own ctx0 i).midway = none ∧ (s.ready ctx0 i).tags = []) ∧
    (∀ j, j < 2 → s.Reaches ctx0 mac false (a j) 2 ∧ s.Reaches ctx0 mac false (b j) 2 ∧ s.Reaches ctx0 max false (a j) 2 ∧
      s.Reaches ctx0 mov false (a j) 2 ∧ s.Reaches ctx0 mov true (b j) 2 ∧ s.Reaches ctx0 fill true (b j) 2) ∧
    (∀ j, j < 2 → ∀ i ∈ [mov, fill], (s.ready ctx0 i).inRunning (memAddr 0 (b j).toNat) = false) ∧
    (∀ i, i < 2 → ∀ j, j < 2 → (i ≠ j → (b i).toNat ≠ (b j).toNat) ∧ (a i).toNat + 1 < (b j).toNat) := by
  refine ⟨by decide +kernel, .inl (by decide +kernel), by decide +kernel, by decide +kernel, all_stand (by decide +kernel),
    fun i h => ?_, fun j hj => ?_, by decide +kernel, by decide +kernel⟩
  · simp only [List.mem_cons, List.not_mem_nil, or_false] at h
    rcases h with rfl | rfl | rfl | rfl <;> exact ⟨clear (by decide +kernel), by decide +kernel, by decide +kernel⟩
  · match j, hj with
    | 0, _ => refine ⟨?_, ?_, ?_, ?_, ?_, ?_⟩ <;> exact reaches (by decide +kernel)
    | 1, _ => refine ⟨?_, ?_, ?_, ?_, ?_, ?_⟩ <;> exact reaches (by decide +kernel)

end Sys2Proof.Tests
end

section
/-! How a bundle's fetch address and loops move (R115 to R117), seen through `Core.Same`. -/

namespace Sys2Proof.Machine

/-! ### PS.LD -/

theorem toNat_psLd (ps : DW) (l : BitVec 2) :
    (psLd ps l).toNat = ps.toNat / 2 ^ 14 * 2 ^ 14 + l.toNat * 2 ^ 12 + ps.toNat % 2 ^ 12 := by
  have hl := l.isLt
  have hlow : ps.toNat % 2 ^ 12 < 2 ^ 12 := Nat.mod_lt _ (by decide)
  have hhigh : ps.toNat / 2 ^ 14 % 2 ^ 14 = ps.toNat / 2 ^ 14 := Nat.mod_eq_of_lt (by omega)
  unfold psLd
  rw [BitVec.toNat_append, BitVec.toNat_append, BitVec.extractLsb'_toNat, BitVec.extractLsb'_toNat, Nat.shiftRight_zero,
    Nat.shiftRight_eq_div_pow, hhigh, ← Nat.shiftLeft_add_eq_or_of_lt hl, ← Nat.shiftLeft_add_eq_or_of_lt hlow,
    Nat.shiftLeft_eq, Nat.shiftLeft_eq]
  omega

theorem Core.ld_eq (c : Core) : c.ld = c.ps.toNat / 2 ^ 12 % 4 := by
  unfold Core.ld
  rw [BitVec.extractLsb'_toNat, Nat.shiftRight_eq_div_pow]

/-- PS with another LD reads it back. -/
theorem ld_psLd (c : Core) (l : BitVec 2) : ({ c with ps := psLd c.ps l } : Core).ld = l.toNat := by
  have hl := l.isLt
  rw [Core.ld_eq]
  show (psLd c.ps l).toNat / 2 ^ 12 % 4 = l.toNat
  rw [toNat_psLd]
  omega

theorem psLd_psLd (ps : DW) (k l : BitVec 2) : psLd (psLd ps k) l = psLd ps l := by
  have hk := k.isLt
  apply BitVec.eq_of_toNat_eq
  rw [toNat_psLd, toNat_psLd, toNat_psLd]
  omega

theorem Core.ps_sub_eq_psLd (c : Core) (l : BitVec 2) (h : c.ld = l.toNat + 1) : c.ps - 0x0001000#28 = psLd c.ps l := by
  have hps := c.ps.isLt
  rw [Core.ld_eq] at h
  apply BitVec.eq_of_toNat_eq
  rw [toNat_psLd, BitVec.toNat_sub, show (0x0001000#28).toNat = 2 ^ 12 from rfl]
  omega

theorem Core.ps_add_eq_psLd (c : Core) (l : BitVec 2) (h : c.ld + 1 = l.toNat) : c.ps + 0x0001000#28 = psLd c.ps l := by
  have hps := c.ps.isLt
  rw [Core.ld_eq] at h
  apply BitVec.eq_of_toNat_eq
  rw [toNat_psLd, BitVec.toNat_add, show (0x0001000#28).toNat = 2 ^ 12 from rfl]
  omega

/-! ### The end of the innermost loop -/

theorem Core.popLoop_nested {c : Core} (h : c.ld = 2) :
    c.popLoop = { c with lc := c.lc1, ls := c.ls1, le := c.le1, ps := c.ps - 0x0001000#28 } := by
  unfold Core.popLoop
  rw [if_pos h]

theorem Core.popLoop_single {c : Core} (h : c.ld ≠ 2) : c.popLoop = { c with ps := c.ps - 0x0001000#28 } := by
  unfold Core.popLoop
  rw [if_neg h]

/-- Statements' `outer` is what the model does. -/
theorem Core.popLoop_eq_outer {c : Core} (h : c.ld = 1 ∨ c.ld = 2) : c.popLoop = c.outer := by
  unfold Core.outer
  rcases h with h | h
  · rw [Core.popLoop_single (by omega), if_neg (by omega), c.ps_sub_eq_psLd 0#2 h]
  · rw [Core.popLoop_nested h, if_pos h, c.ps_sub_eq_psLd 1#2 h]

theorem Core.outer_nested {c : Core} (h : c.ld = 2) :
    c.outer = { c with lc := c.lc1, ls := c.ls1, le := c.le1, ps := psLd c.ps 1#2 } := if_pos h

theorem Core.outer_single {c : Core} (h : c.ld ≠ 2) : c.outer = { c with ps := psLd c.ps 0#2 } := if_neg h

theorem Core.outer_ld_nested {c : Core} (h : c.ld = 2) : c.outer.ld = 1 := by
  rw [Core.outer_nested h]
  exact ld_psLd c 1#2

theorem Core.outer_ld_single {c : Core} (h : c.ld ≠ 2) : c.outer.ld = 0 := by
  rw [Core.outer_single h]
  exact ld_psLd c 0#2

/-! ### A taken branch or jump -/

theorem Core.leaveLoops_inside {c : Core} {t : DW} (h : c.ld = 0 ∨ c.inLoop t) (n : Nat) : c.leaveLoops t n = c := by
  cases n with
  | zero => rfl
  | succ n =>
    unfold Core.leaveLoops
    rw [if_pos]
    simpa [Core.inLoop] using h

theorem Core.leaveLoops_outside {c : Core} {t : DW} (hld : c.ld ≠ 0) (h : ¬c.inLoop t) (n : Nat) :
    c.leaveLoops t (n + 1) = c.popLoop.leaveLoops t n := by
  rw [Core.leaveLoops, if_neg]
  simpa [Core.inLoop, hld] using h

/-- The loops that a taken branch or jump leaves (R117). -/
theorem Core.left_leaveLoops (c : Core) (t : DW) : c.Left t (c.leaveLoops t 2) := by
  refine ⟨fun h => Core.leaveLoops_inside h 2, fun h1 h2 hout => ?_⟩
  have hpop := Core.popLoop_eq_outer (c := c) (by omega)
  rw [Core.leaveLoops_outside (by omega) hout, hpop]
  refine ⟨fun h => Core.leaveLoops_inside h 1, fun hld hout' => ?_⟩
  have hnested : c.ld = 2 := Decidable.byContradiction fun hne => by
    rw [Core.outer_ld_single hne] at hld
    omega
  rw [Core.leaveLoops_outside (by omega) hout', Core.popLoop_eq_outer (.inl (Core.outer_ld_nested hnested))]
  rfl

/-! ### The end of an iteration -/

/-- The bundle of one syllable at an address ends an iteration of the innermost loop. -/
def Core.EndsAt (c : Core) (addr : Nat) : Prop := c.ld ≠ 0 ∧ c.le.toNat = addr

theorem Core.loopEnd_none {c : Core} {addr : Nat} (h : ¬c.EndsAt addr) (n : Nat) : c.loopEnd addr 1 n = (c, 0) := by
  refine Core.loopEnd_mid c addr 1 n ?_
  unfold Core.EndsAt at h
  omega

theorem Core.loopEnd_again {c : Core} {addr : Nat} (h : c.EndsAt addr) (hlc : c.lc ≠ 1#28) (n : Nat) :
    ∃ lb, (c.loopEnd addr 1 (n + 1)).1 = { c with lc := c.lc - 1, fetch := c.ls, loopBuf := lb } := by
  obtain ⟨hld, hle⟩ := h
  have hleft : c.lc - 1 ≠ 0 := fun h0 => hlc (by simpa using BitVec.sub_eq_iff_eq_add.1 h0)
  unfold Core.loopEnd
  rw [if_neg (by simp [hld, hle])]
  dsimp only
  rw [if_pos hleft]
  split
  · exact ⟨_, rfl⟩
  · split <;> exact ⟨_, rfl⟩

/-- The core once the last iteration of its innermost loop has ended. -/
def Core.finished (c : Core) : Core := ({ c with lc := 0#28, loopBuf := ⟨none, false⟩ } : Core).popLoop

theorem Core.finished_single {c : Core} (h : c.ld = 1) :
    c.finished = { c with lc := 0#28, ps := psLd c.ps 0#2, loopBuf := ⟨none, false⟩ } := by
  rw [← c.ps_sub_eq_psLd 0#2 h]
  exact Core.popLoop_single (show c.ld ≠ 2 by omega)

theorem Core.finished_nested {c : Core} (h : c.ld = 2) :
    c.finished =
      { c with lc := c.lc1, ls := c.ls1, le := c.le1, ps := psLd c.ps 1#2, loopBuf := ⟨none, false⟩ } := by
  rw [← c.ps_sub_eq_psLd 1#2 h]
  exact Core.popLoop_nested (show c.ld = 2 from h)

theorem Core.finished_single_ld {c : Core} (h : c.ld = 1) : c.finished.ld = 0 := by
  rw [Core.finished_single h]
  exact ld_psLd c 0#2

theorem Core.finished_nested_ld {c : Core} (h : c.ld = 2) : c.finished.ld = 1 := by
  rw [Core.finished_nested h]
  exact ld_psLd c 1#2

/-- Once an inner loop has ended, its bundle ends an iteration of the outer loop where that ends there too. -/
theorem Core.finished_endsAt {c : Core} (addr : Nat) (h : c.ld = 2) : c.finished.EndsAt addr ↔ c.le1.toNat = addr := by
  have hle : c.finished.le = c.le1 := by rw [Core.finished_nested h]
  simp [Core.EndsAt, Core.finished_nested_ld h, hle]

theorem Core.loopEnd_last {c : Core} {addr : Nat} (h : c.EndsAt addr) (hlc : c.lc = 1#28) (n : Nat) :
    (c.loopEnd addr 1 (n + 1)).1 = (c.finished.loopEnd addr 1 n).1 := by
  rw [Core.loopEnd, if_neg (by simp [h.1, h.2]), hlc]
  rfl

/-- What the end of an iteration does (R116): the loop goes on, or ends, or its end ends an iteration of the outer one. -/
theorem Core.iterated_loopEnd {c : Core} (next : DW) (hld : c.ld = 1 ∨ c.ld = 2) (hle : c.le.toNat = c.fetch.toNat) :
    c.Iterated next { (({ c with fetch := next } : Core).loopEnd c.fetch.toNat 1 2).1 with loopBuf := c.loopBuf } := by
  obtain ⟨e, he⟩ : ∃ e : Core, e = { c with fetch := next } := ⟨_, rfl⟩
  have held : e.ld = c.ld := by rw [he]; rfl
  have hends : e.EndsAt c.fetch.toNat := ⟨by omega, by rw [he]; exact hle⟩
  have hlc : e.lc = c.lc := by rw [he]
  have hout : c.ld = 2 → (e.finished.EndsAt c.fetch.toNat ↔ c.le1.toNat = c.fetch.toNat) := fun h2 => by
    rw [Core.finished_endsAt _ (held.trans h2), he]
  have hlast (h : c.lc = 1#28) := Core.loopEnd_last hends (hlc.trans h) 1
  rw [← he]
  refine ⟨fun hc => ?_, fun hc h1 => ?_, fun hc h2 ho => ?_, fun hc h2 ho hc1 => ?_, fun hc h2 ho hc1 => ?_⟩
  · obtain ⟨lb, hagain⟩ := Core.loopEnd_again hends (hlc ▸ hc) 1
    rw [hagain, he]
  · have hdone : ¬e.finished.EndsAt c.fetch.toNat := fun h => h.1 (Core.finished_single_ld (held.trans h1))
    rw [hlast hc, Core.loopEnd_none hdone, Core.finished_single (held.trans h1), he]
    rfl
  · rw [hlast hc, Core.loopEnd_none (mt (hout h2).1 ho), Core.finished_nested (held.trans h2), Core.outer_nested h2, he]
  · have hf := Core.finished_nested (held.trans h2)
    obtain ⟨lb, hagain⟩ := Core.loopEnd_again ((hout h2).2 ho) (by rw [hf, he]; exact hc1) 0
    rw [hlast hc, hagain, hf, Core.outer_nested h2, he]
  · have hf := Core.finished_nested (held.trans h2)
    have hone := Core.finished_nested_ld (held.trans h2)
    rw [hlast hc, Core.loopEnd_last ((hout h2).2 ho) (by rw [hf, he]; exact hc1), Core.loopEnd,
      Core.finished_single hone, hf, psLd_psLd, Core.outer_nested h2, he]
    rfl

/-! ### The start of a loop -/

theorem Core.startLoop_single {c : Core} (h : c.ld ≠ 1) (n : Nat) (ls le : DW) :
    ∃ lb, c.startLoop n ls le =
      { c with lc := BitVec.ofNat 28 n, ls := ls, le := le, ps := c.ps + 0x0001000#28, loopBuf := lb } := by
  refine ⟨(c.startLoop n ls le).loopBuf, ?_⟩
  unfold Core.startLoop
  rw [if_neg h]
  rfl

theorem Core.startLoop_nested {c : Core} (h : c.ld = 1) (n : Nat) (ls le : DW) :
    ∃ lb, c.startLoop n ls le =
      { c with lc := BitVec.ofNat 28 n, ls := ls, le := le, lc1 := c.lc, ls1 := c.ls, le1 := c.le
               ps := c.ps + 0x0001000#28, loopBuf := lb } := by
  refine ⟨(c.startLoop n ls le).loopBuf, ?_⟩
  unfold Core.startLoop
  rw [if_pos h]
  rfl

/-! ### What counts, and what does not, as the same core between two bundles -/

theorem Core.Same.trans {c e g : Core} (h : c.Same e) (k : e.Same g) : c.Same g := by
  rw [k, h]
  rfl

theorem Core.Same.ld {c e : Core} (h : c.Same e) : e.ld = c.ld := by rw [h]; rfl

theorem Core.Same.withFetch {c e : Core} (h : c.Same e) (t : DW) :
    ({ c with fetch := t } : Core).Same { e with fetch := t } := by rw [h]; rfl

theorem Core.Same.popLoop {c e : Core} (h : c.Same e) : c.popLoop.Same e.popLoop := by
  by_cases hl : c.ld = 2
  · rw [Core.popLoop_nested hl, Core.popLoop_nested (h.ld.trans hl), h]
    rfl
  · rw [Core.popLoop_single hl, Core.popLoop_single (h.ld ▸ hl), h]
    rfl

theorem Core.Same.leaveLoops {c e : Core} (h : c.Same e) (t : DW) (n : Nat) :
    (c.leaveLoops t n).Same (e.leaveLoops t n) := by
  induction n generalizing c e with
  | zero => exact h
  | succ n ih =>
    have hin : e.inLoop t ↔ c.inLoop t := by rw [h]; rfl
    by_cases hc : c.ld = 0 ∨ c.inLoop t
    · rw [Core.leaveLoops_inside hc, Core.leaveLoops_inside (by rwa [h.ld, hin])]
      exact h
    · obtain ⟨hld, hout⟩ := not_or.1 hc
      rw [Core.leaveLoops_outside hld hout, Core.leaveLoops_outside (h.ld ▸ hld) (mt hin.1 hout)]
      exact ih h.popLoop

theorem Core.Same.startLoop {c e : Core} (h : c.Same e) (n : Nat) (ls le : DW) :
    (c.startLoop n ls le).Same (e.startLoop n ls le) := by
  by_cases hl : c.ld = 1
  · obtain ⟨lb, hc⟩ := Core.startLoop_nested hl n ls le
    obtain ⟨lb', he⟩ := Core.startLoop_nested (h.ld.trans hl) n ls le
    rw [hc, he, h]
    rfl
  · obtain ⟨lb, hc⟩ := Core.startLoop_single hl n ls le
    obtain ⟨lb', he⟩ := Core.startLoop_single (h.ld ▸ hl) n ls le
    rw [hc, he, h]
    rfl

theorem Core.Same.finished {c e : Core} (h : c.Same e) : c.finished.Same e.finished := by
  have hz : ({ c with lc := 0#28, loopBuf := ⟨none, false⟩ } : Core).Same
      { e with lc := 0#28, loopBuf := ⟨none, false⟩ } := by
    rw [h]
    rfl
  exact hz.popLoop

/-- The loop buffer decides steps, not where a bundle goes. -/
theorem Core.Same.loopEnd {c e : Core} (h : c.Same e) (addr n : Nat) :
    (c.loopEnd addr 1 n).1.Same (e.loopEnd addr 1 n).1 := by
  induction n generalizing c e with
  | zero => exact h
  | succ n ih =>
    have hends : e.EndsAt addr ↔ c.EndsAt addr := by rw [h]; rfl
    have hlc : e.lc = c.lc := by rw [h]
    by_cases he : c.EndsAt addr
    · by_cases h1 : c.lc = 1#28
      · rw [Core.loopEnd_last he h1, Core.loopEnd_last (hends.2 he) (hlc.trans h1)]
        exact ih h.finished
      · obtain ⟨lb, hc⟩ := Core.loopEnd_again he h1 n
        obtain ⟨lb', he'⟩ := Core.loopEnd_again (hends.2 he) (hlc ▸ h1) n
        rw [hc, he', h]
        rfl
    · rw [Core.loopEnd_none he, Core.loopEnd_none (mt hends.1 he)]
      exact h

end Sys2Proof.Machine
end

section
/-! A syllable alone in its bundle that only asks something of its core; branches and jumps (R110, R117). -/

namespace Sys2Proof.Machine

/-! ### Where a bundle goes -/

/-- The core after a bundle of one syllable at an address, as far as its fetch address and its loops go. -/
def Core.departed (c : Core) (addr : Nat) : Goes → Core
  | .on => (c.past addr).1
  | .jump t branch => { (if branch then c.leaveLoops t 2 else c) with fetch := t }
  | .ret => c.returnTo

theorem Core.Same.departed {c e : Core} (h : c.Same e) (addr : Nat) (g : Goes) :
    (c.departed addr g).Same (e.departed addr g) := by
  cases g with
  | on => exact (h.withFetch _).loopEnd addr 2
  | jump t branch =>
    cases branch
    · exact h.withFetch t
    · exact (h.leaveLoops t 2).withFetch t
  | ret => rw [h]; rfl

theorem Core.Idle.trans {c e g : Core} (h : c.Idle e) (k : e.Idle g) : c.Idle g := by
  obtain ⟨h1, h2, h3, h4, h5, h6⟩ := h
  obtain ⟨k1, k2, k3, k4, k5, k6⟩ := k
  exact ⟨k1.trans h1, k2.trans h2, k3.trans h3, k4.trans h4, k5.trans h5, k6.trans h6⟩

theorem Core.LoopKept.idle {c e : Core} (h : c.LoopKept e) : c.Idle e := by
  rw [h.rest]
  exact ⟨rfl, rfl, rfl, rfl, rfl, rfl⟩

theorem Core.loopKept_leaveLoops (c : Core) (t : DW) (n : Nat) : c.LoopKept (c.leaveLoops t n) := by
  induction n generalizing c with
  | zero => exact .refl c
  | succ n ih =>
    by_cases hc : c.ld = 0 ∨ c.inLoop t
    · rw [Core.leaveLoops_inside hc]
      exact .refl c
    · obtain ⟨hld, hout⟩ := not_or.1 hc
      rw [Core.leaveLoops_outside hld hout]
      exact (c.loopKept_pop hld).trans (ih _)

theorem Core.idle_departed (c : Core) (addr : Nat) (g : Goes) : c.Idle (c.departed addr g) := by
  cases g with
  | on => exact (Core.loopKept_loopEnd 2 { c with fetch := BitVec.ofNat 28 (addr + 1) } addr 1).idle
  | jump t branch =>
    cases branch
    · exact ⟨rfl, rfl, rfl, rfl, rfl, rfl⟩
    · exact (c.loopKept_leaveLoops t 2).idle
  | ret => exact ⟨rfl, rfl, rfl, rfl, rfl, rfl⟩

/-! ### A syllable that only asks something of its core -/

/-- What a syllable asks for changes its core alone, by f, and leaves nothing for release. -/
structure ActsOn (acts : List Act) (f : Core → Core) : Prop where
  apply : ∀ P k step last tick (d : Dev) (c : Core),
    acts.foldl (Dev.act P k step last tick) (d.setCore k c, []) = (d.setCore k (f c), [])
  ends : ∀ P k tick again (d : Dev), d.doEnd P k tick again acts = d
  same : ∀ c e, c.Same e → (f c).Same (f e)
  idle : ∀ c : Core, c.Idle (f c)

theorem actsOn_nil : ActsOn [] id :=
  ⟨fun _ _ _ _ _ _ _ => rfl, fun _ _ _ _ _ => rfl, fun _ _ h => h, fun _ => ⟨rfl, rfl, rfl, rfl, rfl, rfl⟩⟩

theorem actsOn_jump (t : DW) (branch : Bool) : ActsOn [.jump t branch] id :=
  ⟨fun _ _ _ _ _ _ _ => rfl, fun _ _ _ _ _ => rfl, fun _ _ h => h, fun _ => ⟨rfl, rfl, rfl, rfl, rfl, rfl⟩⟩

theorem Core.idle_startLoop (c : Core) (n : Nat) (ls le : DW) : c.Idle (c.startLoop n ls le) := by
  by_cases hl : c.ld = 1
  · obtain ⟨lb, hc⟩ := Core.startLoop_nested hl n ls le
    rw [hc]
    exact ⟨rfl, rfl, rfl, rfl, rfl, rfl⟩
  · obtain ⟨lb, hc⟩ := Core.startLoop_single hl n ls le
    rw [hc]
    exact ⟨rfl, rfl, rfl, rfl, rfl, rfl⟩

theorem actsOn_loop (n : Nat) (ls le : DW) : ActsOn [.loop n ls le] (·.startLoop n ls le) where
  apply P k step last tick d c := by
    show ((d.setCore k c).modCore k (·.startLoop n ls le), []) = _
    rw [Dev.modCore_setCore]
  ends _ _ _ _ _ := rfl
  same _ _ h := h.startLoop n ls le
  idle c := c.idle_startLoop n ls le

/-- The registers' codes apart, such an effect writes nothing of its core. -/
theorem Core.same_mend {c : Core} (h : c.bundle = []) (l : List Eff) : c.Same (c.mend l) := by
  unfold Core.Same Core.mend
  rw [← h]

theorem Dev.applyAll_act {acts : List Act} {f : Core → Core} (ha : ActsOn acts f) (d : Dev) (P : PageOps) (x : Issue)
    (step last : Nat) :
    d.applyAll P x [Eff.act acts] step last =
      (d.setCore x.core ((f (d.core x.core)).mend [Eff.act acts]), []) := by
  have hacts : ([Eff.act acts].map (·.acts)).flatten = acts := List.append_nil acts
  have hregs : (d.modCore x.core fun c => [Eff.act acts].foldl Core.applyRegs c) = d.setCore x.core (d.core x.core) := rfl
  unfold Dev.applyAll
  dsimp only
  rw [hacts, hregs, ha.apply]
  dsimp only
  rw [Dev.modCore_setCore]
  rfl

theorem Dev.depart_goes (d : Dev) (x : Issue) (acts : List Act) (base : Nat) (c : Core) (g : Goes) (hlen : x.len = 1)
    (hmore : x.more = false) :
    ∃ lb n, (d.setCore x.core c).depart x [Eff.act acts] base g =
      (d.setCore x.core { c.departed x.addr g with loopBuf := lb }, n) := by
  cases g with
  | on => exact ⟨_, _, Dev.depart_on d x _ base c hlen hmore⟩
  | jump t branch =>
    refine ⟨⟨none, false⟩, 3 - base, ?_⟩
    rw [Dev.depart, Dev.modCore_setCore]
    rfl
  | ret =>
    refine ⟨⟨none, false⟩, 3 - base, ?_⟩
    rw [Dev.depart, Dev.modCore_setCore]
    rfl

/-- What a core counts as a bundle completes is not part of it between two bundles. -/
theorem Core.Same.counted {c e : Core} (h : c.Same e) (lb : LoopBuf) (effs : List Eff) (n steps pen : Nat) :
    c.Same { (({ e with loopBuf := lb } : Core).noteLoads effs n).spend steps pen with midway := none } := by
  rw [h]
  rfl

/-- The issue of such an effect: the core goes where the effect says. -/
theorem Dev.complete_act {acts : List Act} {f : Core → Core} (ha : ActsOn acts f) (d : Dev) (P : PageOps) (x : Issue)
    (hlen : x.len = 1) (hmore : x.more = false) (hfirst : (f (d.core x.core)).bundle = []) :
    ∃ c h excess count, h.outs = [] ∧
      (d.leaves x.core c (d.heldOf x.core ++ [h]) excess count).Quiet (d.complete P x [Eff.act acts]) ∧
      ((f (d.core x.core)).departed x.addr (goesOf acts)).Same c ∧ (d.core x.core).Idle c := by
  have hacts : ([Eff.act acts].map (·.acts)).flatten = acts := List.append_nil acts
  obtain ⟨C, hC⟩ : ∃ C, C = (f (d.core x.core)).mend [Eff.act acts] := ⟨_, rfl⟩
  have hmend : (f (d.core x.core)).Same C ∧ (d.core x.core).Idle C := by
    rw [hC]
    exact ⟨Core.same_mend hfirst _, ha.idle _⟩
  obtain ⟨lb, n, hgo⟩ := d.depart_goes x acts (baseSteps [Eff.act acts]) C (goesOf acts) hlen hmore
  have hsame := hmend.1.departed x.addr (goesOf acts)
  have hidle := hmend.2.trans (C.idle_departed x.addr (goesOf acts))
  generalize C.departed x.addr (goesOf acts) = E at hgo hsame hidle
  unfold Dev.complete
  dsimp only
  rw [Dev.applyAll_act ha, ← hC, hacts, hgo]
  simp only [hmore, Bool.false_eq_true, if_false, Dev.modCore_setCore, ha.ends]
  obtain ⟨excess, count, hq⟩ := d.quiet_hold x.core _ _
  exact ⟨_, _, excess, count, rfl, hq, hsame.counted lb _ _ _ _, hidle⟩

/-! ### The command -/

/-- The device in which the operands of a syllable alone in its bundle are read and its effect is applied. -/
def State.atIssue (s : State) (x : Ctx) (i : Instr) : Dev := (s.ready x i).setCore x.core.val (s.own x i).issuing

theorem State.atIssue_core (s : State) (x : Ctx) (i : Instr) :
    (s.atIssue x i).core x.core.val = (s.own x i).issuing := Dev.core_setCore_same _ _ _

theorem State.idle_atIssue (s : State) (x : Ctx) (i : Instr) : (s.own x i).Idle ((s.atIssue x i).core x.core.val) := by
  obtain ⟨lb, hlb⟩ := (s.own x i).issuing_eq
  rw [s.atIssue_core, hlb]
  exact ⟨rfl, rfl, rfl, rfl, rfl, rfl⟩

theorem State.Stands.same_atIssue {s : State} {x : Ctx} {i : Instr} (h : s.Stands x i) :
    (s.at x).Same ((s.atIssue x i).core x.core.val) := by
  obtain ⟨lb, hlb⟩ := (s.own x i).issuing_eq
  obtain ⟨m, w, wr, ov, t, tf, ds, cl, ho⟩ := h.own_eq
  rw [s.atIssue_core, hlb, ho]
  rfl

theorem Dev.leaves_setCore (d : Dev) (k : Nat) (c e : Core) (hs : List Held) (excess : List Nat) (count : DW) :
    (d.setCore k e).leaves k c hs excess count = d.leaves k c hs excess count := by
  unfold Dev.leaves
  rw [Dev.setCore_setCore]
  rfl

/-- A command whose issue leaves its core as c, with one bundle more in the damper. -/
theorem State.Plain.runsOn {s : State} {x : Ctx} {i : Instr} (p : s.Plain x i) {P : Core → Prop} (c : Core) (h : Held)
    (excess : List Nat) (count : DW) (hout : h.outs = [])
    (hq : ((s.atIssue x i).leaves x.core.val c ((s.atIssue x i).heldOf x.core.val ++ [h]) excess count).Quiet
      (s.dev.syllable PageOps.real x i)) (hp : P c) : RunsOn s x i (s.ready x i) [] P := by
  refine RunsOn.of p.runs c h excess count hout ?_ hp
  rw [← Dev.leaves_setCore _ _ c (s.own x i).issuing]
  rw [State.onDev_dev]
  refine Dev.Quiet.trans ?_ (Dev.quiet_settle _)
  exact hq

/-- A syllable alone in its bundle that only asks something of its core: where the core is then. -/
theorem State.Plain.acts {s : State} {x : Ctx} {i : Instr} (p : s.Plain x i) {acts : List Act} {f : Core → Core}
    (ha : ActsOn acts f) (h : s.Stands x i) (he : s.effect x i = Eff.act acts) :
    RunsOn s x i (s.ready x i) [] fun c' =>
      ((f (s.at x)).departed (s.at x).fetch.toNat (goesOf acts)).Same c' ∧ (s.own x i).Idle c' := by
  have hsame := ha.same _ _ h.same_atIssue
  have hfirst : (f ((s.atIssue x i).core x.core.val)).bundle = [] := by rw [hsame]
  have hc : s.dev.syllable PageOps.real x i =
      (s.atIssue x i).complete PageOps.real (s.single x i) [Eff.act acts] := by
    rw [← he]
    exact h.completes p (by rw [he]; rfl) (by rw [he]; rfl)
  have hk : (s.single x i).core = x.core.val := rfl
  obtain ⟨c, hl, excess, count, hout, hq, hgoes, hidle⟩ :=
    Dev.complete_act ha (s.atIssue x i) PageOps.real (s.single x i) rfl rfl hfirst
  rw [hk] at hq hgoes hidle
  refine p.runsOn c hl excess count hout ?_ ⟨(hsame.departed _ _).trans hgoes, (s.idle_atIssue x i).trans hidle⟩
  rw [hc]
  exact hq

/-! ### BR, JR, LOOP and NOP -/

theorem State.plain_nop (s : State) (x : Ctx) : s.Plain x (.nop x) :=
  ⟨rfl, rfl, rfl, rfl, fun _ => rfl, rfl, rfl⟩

theorem State.Stands.effect_nop {s : State} {x : Ctx} (h : s.Stands x (.nop x)) : s.effect x (.nop x) = Eff.act [] := by
  obtain ⟨lb, m, w, wr, ov, t, tf, ds, cl, he⟩ := h.reading_eq
  unfold State.effect
  rw [he]
  rfl

theorem State.place_target (s : State) (x : Ctx) (i : Instr) (disp : BitVec 12) :
    (s.place x i).target disp = (s.at x).fetch + disp.signExtend 28 := by
  show BitVec.ofNat 28 (s.at x).fetch.toNat + _ = _
  rw [BitVec.ofNat_toNat, BitVec.setWidth_eq]

theorem State.Stands.effect_br {s : State} {x : Ctx} {cond : BitVec 4} {disp : BitVec 12}
    (h : s.Stands x (.br x cond disp)) :
    s.effect x (.br x cond disp) = effBranch (s.at x) cond ((s.at x).fetch + disp.signExtend 28) := by
  obtain ⟨lb, m, w, wr, ov, t, tf, ds, cl, he⟩ := h.reading_eq
  rw [← s.place_target x (.br x cond disp)]
  unfold State.effect
  rw [he]
  rfl

theorem condHolds_iff (c : Core) (cond : BitVec 4) : condHolds cond c.z c.n c.c c.v = true ↔ c.Takes cond := by
  unfold Core.Takes Core.conditions
  generalize c.z = z, c.n = n, c.c = k, c.v = v
  revert cond z n k v
  decide

theorem effBranch_taken {c : Core} {cond : BitVec 4} (h : c.Takes cond) (t : DW) :
    effBranch c cond t = Eff.act [.jump t true] := if_pos ((condHolds_iff c cond).2 h)

theorem effBranch_passed {c : Core} {cond : BitVec 4} (h : ¬c.Takes cond) (t : DW) : effBranch c cond t = Eff.act [] :=
  if_neg (mt (condHolds_iff c cond).1 h)

theorem State.Plain.goes {s : State} {x : Ctx} {i : Instr} (p : s.Plain x i) (h : s.Stands x i) {t : DW}
    (he : s.effect x i = Eff.act [.jump t true]) :
    ∃ c1, (s.at x).Left t c1 ∧
      RunsOn s x i (s.ready x i) [] fun c' => ({ c1 with fetch := t }).Same c' ∧ (s.own x i).Idle c' :=
  ⟨_, (s.at x).left_leaveLoops t, p.acts (actsOn_jump t true) h he⟩

theorem fetch_next (a : DW) : BitVec.ofNat 28 (a.toNat + 1) = a + 1 := by
  apply BitVec.eq_of_toNat_eq
  simp [BitVec.toNat_add]

theorem Core.departed_on {c : Core} (h : c.midLoop) : c.departed c.fetch.toNat .on = { c with fetch := c.fetch + 1 } := by
  have hends : ¬({ c with fetch := BitVec.ofNat 28 (c.fetch.toNat + 1) } : Core).EndsAt c.fetch.toNat := by
    rintro ⟨hld, hle⟩
    exact h.elim hld (· hle)
  unfold Core.departed Core.past
  dsimp only
  rw [Core.loopEnd_none hends, fetch_next]

theorem State.Plain.passes {s : State} {x : Ctx} {i : Instr} (p : s.Plain x i)
    (he : s.Stands x i → s.effect x i = Eff.act []) : Passes s x i (s.at x) := by
  intro hmid h
  have hrun := p.acts actsOn_nil h (he h)
  rwa [show goesOf [] = .on from rfl, id, Core.departed_on hmid] at hrun

/-- Settles O15: the table of conditions is the model's `condHolds`, and the loops that it pops are those of `Core.Left`. -/
theorem branchesAndJumps : Obligations.BranchesAndJumps := by
  intro s x cond disp p
  refine ⟨fun ht => ⟨fun h => ?_, fun h => ?_⟩, fun hn => ⟨?_, ?_⟩⟩
  · exact (s.plain_br x cond disp).goes h (h.effect_br.trans (effBranch_taken ht _))
  · exact (s.plain_jr x cond p).goes h (h.effect_jr.trans (effBranch_taken ht _))
  · exact (s.plain_br x cond disp).passes fun h => h.effect_br.trans (effBranch_passed hn _)
  · exact (s.plain_jr x cond p).passes fun h => h.effect_jr.trans (effBranch_passed hn _)

end Sys2Proof.Machine
end

section
/-! A slot's core while its damper is drained: releases write none of what statements say of it. -/

namespace Sys2Proof.Machine

/-! ### What the release of a slot's outputs leaves alone -/

theorem Dev.raise_cores (d : Dev) (p b : Nat) : (d.raise p b).cores = d.cores := (d.calm_raise p b).cores

theorem Dev.firePriv_cores (d : Dev) (t n : Nat) : (d.firePriv t n).cores = d.cores := (d.calm_firePriv t n).cores

theorem Dev.countS_cores (d : Dev) (c o : RegFld) (i j : Nat) : (d.countS c o i j).cores = d.cores := by
  unfold Dev.countS
  dsimp only
  split
  · rfl
  · split
    · rfl
    · split
      · exact Dev.raise_cores _ _ _
      · rfl

theorem Dev.lastFault_cores (d : Dev) (slot kind core : Nat) : (d.lastFault slot kind core).cores = d.cores := rfl

theorem Dev.transient_cores (d : Dev) (k : Nat) : (d.transient k).cores = d.cores := by
  unfold Dev.transient
  dsimp only
  split
  · rw [Dev.raise_cores, Dev.lastFault_cores, Dev.countS_cores]
  · rw [Dev.raise_cores, Dev.countS_cores]

/-! Hoppers. -/

theorem Dev.levelCheck_cores (d : Dev) (n was : Nat) : (d.levelCheck n was).cores = d.cores := by
  unfold Dev.levelCheck
  dsimp only
  split
  · split
    · rw [Dev.firePriv_cores, Dev.raise_cores]
    · exact Dev.raise_cores _ _ _
  · rfl

theorem Dev.hopBeat_cores (d : Dev) (n : Nat) (f : Dev → Dev) : (d.hopBeat n f).cores = (f d).cores := by
  unfold Dev.hopBeat
  dsimp only
  rw [Dev.levelCheck_cores]
  split
  · split <;> rfl
  · rfl

theorem Dev.countProto_cores (d : Dev) (n r p : Nat) : (d.countProto n r p).cores = d.cores := by
  unfold Dev.countProto
  dsimp only
  rw [Dev.raise_cores, Dev.putAt_cores, Dev.putAt_cores, Dev.putAt_cores, Dev.countS_cores]

theorem Dev.hopPush_cores (d : Dev) (n p : Nat) (v : DW) : (d.hopPush n p v).cores = d.cores := by
  unfold Dev.hopPush
  rw [Dev.hopBeat_cores]
  dsimp only
  split
  · rfl
  · split
    · exact Dev.countProto_cores _ _ _ _
    · split
      · exact Dev.countProto_cores _ _ _ _
      · split
        · exact Dev.countProto_cores _ _ _ _
        · rfl

theorem Dev.hopSettle_cores (d : Dev) (n : Nat) : (d.hopSettle n).cores = d.cores := by
  unfold Dev.hopSettle
  split
  · rfl
  · rw [Dev.hopBeat_cores]
    dsimp only
    split <;> rfl

theorem Dev.hopDrop_cores (d : Dev) (n : Nat) : (d.hopDrop n).cores = d.cores := by
  unfold Dev.hopDrop
  split
  · rfl
  · split
    · rfl
    · rw [Dev.putAt_cores, Dev.putAt_cores, Dev.hopBeat_cores, Dev.modHop_cores]

theorem Dev.hopMark_cores (d : Dev) (n : Nat) (slot : Bool) : (d.hopMark n slot).cores = d.cores := by
  unfold Dev.hopMark
  split <;> rfl

theorem Dev.hopRewind_cores (d : Dev) (n : Nat) : (d.hopRewind n).cores = d.cores := by
  unfold Dev.hopRewind
  split
  · exact Dev.hopBeat_cores _ _ _
  · rfl

theorem Dev.hopRelease_cores (d : Dev) (n : Nat) (slot : Bool) : (d.hopRelease n slot).cores = d.cores := by
  unfold Dev.hopRelease
  split
  · exact Dev.hopBeat_cores _ _ _
  · rfl

theorem Dev.hopRegWrite_cores (d : Dev) (k n r : Nat) (v : DW) : (d.hopRegWrite k n r v).cores = d.cores := by
  unfold Dev.hopRegWrite
  dsimp only
  split
  · split <;> exact Dev.hopPush_cores _ _ _ _
  · split
    · split
      · exact Dev.hopMark_cores _ _ _
      · split
        · exact Dev.hopRewind_cores _ _
        · split
          · exact Dev.hopRelease_cores _ _ _
          · split
            · exact Dev.hopDrop_cores _ _
            · rfl
    · rfl

/-! Streams. -/

theorem Dev.demand_cores (d : Dev) (e : Nat) (qs : List Nat) : (d.demand e qs).cores = d.cores := by
  have each : ∀ (l : List Nat) (s : Stream) (d : Dev), (d.each l fun d q =>
      { d with mem := tabDelRange d.mem (s.desc.ringPos q) (s.desc.ringPos q + 1168)
               tags := tabDelRange d.tags (s.desc.ringPos q) (s.desc.ringPos q + 1168) }).cores = d.cores := by
    intro l s
    induction l with
    | nil => exact fun _ => rfl
    | cons q l ih => exact fun d => ih _
  unfold Dev.demand
  split
  · rfl
  · exact each _ _ d

theorem Dev.startReleased_cores (d : Dev) (e : Nat) : (d.startReleased e).cores = d.cores := by
  unfold Dev.startReleased
  split
  · split
    · exact Dev.demand_cores _ _ _
    · rfl
  · rfl

theorem Dev.doReq_cores (d : Dev) (slot : Nat) (req arg : DW) : (d.doReq slot req arg).cores = d.cores := by
  unfold Dev.doReq
  dsimp only
  split
  · unfold Dev.doStop
    split
    · rfl
    · split
      · split <;> rfl
      · rfl
  · rfl
  · rfl

/-! Memory. -/

theorem Dev.memStoreDW_cores (d : Dev) (m : Nat) (v : DW) : (d.memStoreDW m v).cores = d.cores := by
  unfold Dev.memStoreDW
  split <;> rfl

theorem Dev.memStoreW_cores (d : Dev) (m : Nat) (v : W) : (d.memStoreW m v).cores = d.cores := by
  unfold Dev.memStoreW
  split
  · rfl
  · unfold Dev.storeW
    split <;> rfl

/-! The slot's own core. -/

/-- e is c but for what the release of a slot's own outputs writes. -/
def Core.Released (c e : Core) : Prop :=
  e = { c with written := e.written, overwrote := e.overwrote, timer := e.timer, timerFired := e.timerFired
               doors := e.doors, clrs := e.clrs }

theorem Core.Released.refl (c : Core) : c.Released c := rfl

theorem Core.Released.trans {c e g : Core} (h : c.Released e) (k : e.Released g) : c.Released g := by
  rw [k, h]
  rfl

theorem Dev.released_of_cores {d e : Dev} (h : e.cores = d.cores) (k : Nat) : (d.core k).Released (e.core k) := by
  unfold Dev.core
  rw [h]
  exact .refl _

theorem Dev.released_modCore (d : Dev) (k : Nat) (f : Core → Core) (hf : ∀ c : Core, c.Released (f c)) :
    (d.core k).Released ((d.modCore k f).core k) := by
  rw [Dev.modCore, Dev.core_setCore_same]
  exact hf _

theorem Dev.released_noteSamples (d : Dev) (k : Nat) (ws : List Nat) :
    (d.core k).Released ((d.noteSamples k ws).core k) := d.released_modCore k _ fun _ => rfl

theorem Dev.released_setTimer (d : Dev) (k : Nat) (v : BitVec 7) (tick : Nat) :
    (d.core k).Released ((d.setTimer k v tick).core k) := by
  unfold Dev.setTimer
  refine (d.released_modCore k (fun c => { c with timer := v }) fun _ => rfl).trans ?_
  unfold Dev.timerCheck
  dsimp only
  split
  · exact (Dev.released_modCore _ k (fun c => { c with timerFired := true }) fun _ => rfl).trans
      (Dev.released_of_cores (Dev.firePriv_cores _ _ _) k)
  · exact .refl _

theorem Dev.released_localWrite (d : Dev) (k r : Nat) (v : DW) (tick : Nat) :
    (d.core k).Released ((d.localWrite k r v tick).core k) := by
  unfold Dev.localWrite
  split
  · exact .refl _
  · split
    · exact d.released_modCore k _ fun _ => rfl
    · split
      · exact d.released_setTimer k _ tick
      · split
        · exact d.released_modCore k _ fun _ => rfl
        · exact .refl _

theorem regionOf_slot (a : Nat) : regionOf false a ≠ .pages := by
  unfold regionOf
  simp only [Bool.false_and, Bool.or_false, Bool.false_eq_true, if_false]
  split
  · decide
  · split
    · decide
    · split
      · decide
      · split
        · decide
        · split <;> decide

theorem Dev.released_storeAtDW (d : Dev) (P : PageOps) {k : Nat} (hk : k < 64) (a : Nat) (v : DW) (tick : Nat) :
    (d.core k).Released ((d.storeAtDW P k a v tick).core k) := by
  have hslot : decide (64 ≤ k) = false := decide_eq_false (by omega)
  unfold Dev.storeAtDW
  rw [hslot]
  split
  · dsimp only
    rw [if_pos hk]
    exact ((d.released_noteSamples k _).trans (Dev.released_of_cores (Dev.memStoreDW_cores _ _ _) k)).trans
      (Dev.released_modCore _ k _ fun _ => rfl)
  · exact Dev.released_of_cores (Dev.hopRegWrite_cores _ _ _ _ _) k
  · rw [if_pos hk]
    exact d.released_localWrite k _ v tick
  · next h => exact absurd h (regionOf_slot a)
  · exact .refl _

theorem Dev.released_storeAtW (d : Dev) {k : Nat} (hk : k < 64) (a : Nat) (v : W) (tick last : Nat) :
    (d.core k).Released ((d.storeAtW k a v tick last).core k) := by
  unfold Dev.storeAtW
  split
  · dsimp only
    unfold Dev.iff
    rw [if_pos (decide_eq_true hk)]
    exact (d.released_noteSamples k _).trans (Dev.released_of_cores (Dev.memStoreW_cores _ _ _) k)
  · rw [if_pos hk]
    exact d.released_localWrite k _ _ tick
  · exact .refl _

/-- An output that leaves a slot's damper. -/
theorem Dev.released_emitOut (d : Dev) (P : PageOps) {k : Nat} (hk : k < 64) (o : HeldOut) :
    (d.core k).Released ((d.emitOut P k o).core k) := by
  cases o with
  | storeD a v tick last => exact d.released_storeAtDW P hk _ v tick
  | storeP a v w tick last =>
    unfold Dev.emitOut
    dsimp only
    split
    · exact Dev.released_of_cores (Dev.doReq_cores _ _ _ _) k
    · exact (d.released_storeAtDW P hk _ v tick).trans (Dev.released_storeAtDW _ P hk _ w tick)
  | storeW a v tick last => exact d.released_storeAtW hk _ v tick last
  | popped n => exact Dev.released_of_cores (Dev.hopSettle_cores _ _) k
  | started e again => exact Dev.released_of_cores (Dev.startReleased_cores _ _) k
  | noticed n => exact .refl _

/-- A bundle that leaves a slot's damper. -/
theorem Dev.released_emit (d : Dev) (P : PageOps) {k : Nat} (hk : k < 64) (h : Held) :
    (d.core k).Released ((d.emit P k h).core k) := by
  have houts : ∀ (l : List HeldOut) (d : Dev), (d.core k).Released ((l.foldl (fun d o => d.emitOut P k o) d).core k) := by
    intro l
    induction l with
    | nil => exact fun d => .refl _
    | cons o l ih => exact fun d => (d.released_emitOut P hk o).trans (ih _)
  unfold Dev.emit Dev.iff
  split
  · exact (houts h.outs d).trans (Dev.released_of_cores (Dev.transient_cores _ k) k)
  · exact houts h.outs d

theorem Dev.released_emitWhile (P : PageOps) {k : Nat} (hk : k < 64) (go : Held → Bool) (n : Nat) (d : Dev) :
    (d.core k).Released ((Dev.emitWhile P k go n d).core k) := by
  induction n generalizing d with
  | zero => exact .refl _
  | succ n ih =>
    unfold Dev.emitWhile
    split
    · exact .refl _
    · split
      · refine Core.Released.trans ?_ (ih _)
        exact Dev.released_emit { d with held := _ } P hk _
      · exact .refl _

/-- Everything that a slot's damper holds is released. -/
theorem Dev.released_drain (d : Dev) (P : PageOps) {k : Nat} (hk : k < 64) : (d.core k).Released ((d.drain P k).core k) :=
  Dev.released_emitWhile P hk _ _ d

end Sys2Proof.Machine
end

section
/-! An exception of a syllable alone in its bundle: the entry, and the run that ends at M (R203 to R206, R214). -/

namespace Sys2Proof.Machine

/-! ### The words that an entry saves (R203, R204, R206) -/

theorem toNat_append_add {m n : Nat} (a : BitVec m) (b : BitVec n) : (a ++ b).toNat = a.toNat * 2 ^ n + b.toNat := by
  rw [BitVec.toNat_append, ← Nat.shiftLeft_add_eq_or_of_lt b.isLt, Nat.shiftLeft_eq]

theorem epc_word (a : DW) : BitVec.ofNat 28 (a.toNat % 0x8000) = (a.extractLsb' 0 15).setWidth 28 := by
  apply BitVec.eq_of_toNat_eq
  rw [BitVec.toNat_setWidth, BitVec.extractLsb'_toNat, BitVec.toNat_ofNat, Nat.shiftRight_zero]

theorem causeWord_eq (cause : BitVec 8) (eval : Option DW) (detail : BitVec 15) :
    causeWord ⟨cause.toNat, eval, detail.toNat⟩ = ecauseOf cause detail := by
  have hc := cause.isLt
  have hd := detail.isLt
  apply BitVec.eq_of_toNat_eq
  unfold causeWord ecauseOf
  simp only [toNat_append_add, BitVec.toNat_ofNat]
  omega

theorem estat_word (ps : DW) (len spos : BitVec 3) :
    BitVec.ofNat 28 (len.toNat % 8 * 2 ^ 25 + spos.toNat % 8 * 2 ^ 22) ||| (ps &&& 0x0003FFF) =
      len ++ spos ++ 0#8 ++ ps.extractLsb' 0 14 := by
  have hl := len.isLt
  have hs := spos.isLt
  have hlow : ps.toNat &&& 0x3FFF = ps.toNat % 2 ^ 14 := Nat.and_two_pow_sub_one_eq_mod ps.toNat 14
  have hhigh : (len.toNat % 8 * 2 ^ 25 + spos.toNat % 8 * 2 ^ 22) % 2 ^ 28 =
      (len.toNat * 8 + spos.toNat) * 2 ^ 8 * 2 ^ 14 := by
    omega
  apply BitVec.eq_of_toNat_eq
  rw [BitVec.toNat_or, BitVec.toNat_and, BitVec.toNat_ofNat, hhigh, show (0x0003FFF : DW).toNat = 0x3FFF from rfl, hlow,
    ← Nat.shiftLeft_eq _ 14, ← Nat.shiftLeft_add_eq_or_of_lt (Nat.mod_lt _ (by decide)), Nat.shiftLeft_eq]
  simp only [toNat_append_add, BitVec.extractLsb'_toNat, BitVec.toNat_ofNat, Nat.shiftRight_zero]
  omega

theorem eseal_word (c : Core) : BitVec.ofNat 28 (c.priv * 2 ^ 10) = 0#16 ++ c.ps.extractLsb' 10 2 ++ 0#10 := by
  have hp := (c.ps.extractLsb' 10 2).isLt
  unfold Core.priv
  apply BitVec.eq_of_toNat_eq
  simp only [toNat_append_add, BitVec.toNat_ofNat]
  omega

theorem psLevel_eq (ps : DW) (level : BitVec 2) :
    psLevel ps level.toNat =
      ps.extractLsb' 12 16 ++ level ++ ps.extractLsb' 9 1 ++ 0#1 ++ ps.extractLsb' 0 8 := by
  have hmask : ∀ j, j < 28 → (~~~0x0000D00#28).getLsbD j = !(decide (j = 8) || decide (j = 10) || decide (j = 11)) :=
    fun j hj => (by decide : ∀ j : Fin 28, (~~~0x0000D00#28).getLsbD j.val =
      !(decide (j.val = 8) || decide (j.val = 10) || decide (j.val = 11))) ⟨j, hj⟩
  apply BitVec.eq_of_getLsbD_eq
  intro j hj
  unfold psLevel
  simp only [BitVec.getLsbD_append, BitVec.getLsbD_or, BitVec.getLsbD_and, hmask j hj, BitVec.getLsbD_shiftLeft,
    BitVec.getLsbD_ofNat, BitVec.testBit_toNat, BitVec.getLsbD_extractLsb']
  rcases (show j < 8 ∨ j = 8 ∨ j = 9 ∨ j = 10 ∨ j = 11 ∨ 12 ≤ j by omega) with h | h | h | h | h | h
  · simp [show j < 10 by omega, show j ≠ 8 by omega, show j ≠ 10 by omega, show j ≠ 11 by omega, h]
  · simp [h]
  · simp [h]
  · simp [h]
  · simp [h]
  · obtain ⟨k, rfl⟩ := Nat.exists_eq_add_of_le h
    have hlevel : level.getLsbD (12 + k - 10) = false := BitVec.getLsbD_of_ge _ _ (by omega)
    rw [if_neg (show ¬12 + k < 8 by omega), if_neg (show ¬12 + k - 8 < 1 by omega),
      if_neg (show ¬12 + k - 8 - 1 < 1 by omega), if_neg (show ¬12 + k - 8 - 1 - 1 < 2 by omega), hlevel,
      decide_eq_false (show ¬12 + k = 8 by omega), decide_eq_false (show ¬12 + k = 10 by omega),
      decide_eq_false (show ¬12 + k = 11 by omega), show 12 + k - 8 - 1 - 1 - 2 = k by omega,
      decide_eq_true (show k < 16 by omega)]
    simp only [Bool.or_false, Bool.not_false, Bool.and_true, Bool.and_false, Bool.true_and]

/-! ### The entry -/

/-- The entry of an exception of the first syllable of a bundle at the fetch address, in the terms of statements. -/
theorem Core.enterAt_eq_entered {c : Core} (hmid : c.midway = none) (len spos : BitVec 3) (ecause eval : DW)
    (level : BitVec 2) (target : DW) :
    c.enterAt c.fetch.toNat ecause eval len.toNat spos.toNat level.toNat target =
      { c.entered len spos ecause eval level target with
        midway := none, loopBuf := ⟨none, false⟩, loadBits := [], bundle := [] } := by
  have hprog : c.progressWord = c.lprog := by
    unfold Core.progressWord
    rw [hmid]
  unfold Core.enterAt Core.entered
  rw [epc_word, estat_word, eseal_word, psLevel_eq, hprog]

theorem Core.Same.entered {c e : Core} (h : c.Same e) (hmid : e.midway = none) (len : BitVec 3) (ecause eval : DW)
    (level : BitVec 2) (target : DW) (steps pen : Nat) :
    (c.entered len 0#3 ecause eval level target).Same
      ((e.enterAt c.fetch.toNat ecause eval len.toNat 0 level.toNat target).spend steps pen) := by
  have hentry := Core.enterAt_eq_entered hmid len 0#3 ecause eval level target
  rw [show e.fetch = c.fetch by rw [h], show (0#3).toNat = 0 from rfl] at hentry
  rw [hentry, h]
  rfl

/-! ### Where a core takes an exception (R205, R219) -/

theorem excLevel_ctrl (c : Core) {k : Nat} (hk : 64 ≤ k) (e : Exc) : excLevel c k e = 3 := if_pos hk

theorem excLevel_user {c : Core} {k : Nat} (hk : k < 64) (hp : c.priv = 0) {e : Exc} (h4 : e.cause ≠ 0x04)
    (hf : e.fetchPoison = false) : excLevel c k e = 1 := by
  unfold excLevel
  rw [if_neg (by omega), if_neg h4, if_pos (by simp [hp, hf])]

theorem excLevel_above {c : Core} {k : Nat} (hk : k < 64) (hp : c.priv ≠ 0) {e : Exc} (h4 : e.cause ≠ 0x04) :
    excLevel c k e = 3 := by
  unfold excLevel
  rw [if_neg (by omega), if_neg h4, if_neg (by simp [hp])]

theorem Dev.vector_ctrl (d : Dev) {k : Nat} (hk : 64 ≤ k) : d.vector k 3 = d.handlerOf k := by
  unfold Dev.vector Dev.handlerOf
  rw [if_pos hk, if_neg (by omega)]

theorem Dev.vector_user (d : Dev) {k : Nat} (hk : k < 64) : d.vector k 1 = d.handlerOf k := by
  unfold Dev.vector Dev.handlerOf
  rw [if_neg (by omega), if_pos rfl, if_pos hk]

theorem Dev.vector_monitor (d : Dev) {k : Nat} (hk : k < 64) : d.vector k 3 = monitorEntry := by
  unfold Dev.vector
  rw [if_neg (by omega), if_neg (by decide)]

/-- The core after an entry at a level for an exception of the first of `len` syllables at `addr` (R203, R204). -/
def Dev.entry (d : Dev) (k addr len : Nat) (e : Exc) (ev : DW) (level pen : Nat) : Core :=
  ((d.core k).enterAt addr (causeWord e) ev len 0 level (d.vector k level)).spend (3 + pen) (2 + pen)

/-- The monitor ends the run of a slot that entered at M (R214). -/
def Dev.monitorEnds (d : Dev) (P : PageOps) (k : Nat) (e : Exc) : Dev :=
  ((d.drain P k).modCore k fun c => { c.monitorReport e with fetchPoison := c.fetchPoison || e.fetchPoison }).endRun k

/-- A core goes on as c, with one bundle more in its damper, whose steps are checked against the budget. -/
def Dev.heldAs (d : Dev) (k : Nat) (c : Core) (h : Held) : Dev := ((d.setCore k c).hold k h).budget k

theorem Dev.heldAs_core (d : Dev) (k : Nat) (c : Core) (h : Held) :
    ∃ r, (d.heldAs k c h).core k = { c with run := r } := by
  obtain ⟨excess, count, hq⟩ := d.quiet_hold k c h
  have hcore := hq.core k
  rw [show (d.leaves k c (d.heldOf k ++ [h]) excess count).core k = c from Dev.core_setCore_same d k c] at hcore
  exact ⟨_, hcore⟩

/-- An exception of the first syllable of a bundle: the damper holds its signal, and the monitor ends the run of a slot
that enters at M. -/
theorem Dev.takeException_first (d : Dev) (P : PageOps) (k addr len : Nat) (word : DW) {ev : DW} {e : Exc} (pen level : Nat)
    (hev : e.eval = some ev) (h4 : e.cause ≠ 0x04) (hd : e.cause ≠ 0x0D) (hlevel : excLevel (d.core k) k e = level) :
    ∃ h : Held, h.outs = [] ∧ d.takeException P k addr len 0 word e pen =
      if k < 64 && level = 3 then (d.heldAs k (d.entry k addr len e ev level pen) h).monitorEnds P k e
      else d.heldAs k (d.entry k addr len e ev level pen) h := by
  have hread : ∀ d : Dev, d.noteReadOnly k e = d := fun d => by
    unfold Dev.noteReadOnly
    rw [if_neg (by simp [hd])]
  refine ⟨⟨d.core k, (d.core k).steps + pen, 1, [Eff.raise e.cause (some ev) e.detail],
    [Eff.raise e.cause (some ev) e.detail],
    some (d.vector k level), [], none, (d.core k).retry⟩, rfl, ?_⟩
  unfold Dev.takeException
  simp only [h4, if_false, ite_self, hread, hlevel, hev, Option.getD_some]
  rfl

/-! ### The end of a run -/

theorem Dev.giveCore_core (d : Dev) (m n k : Nat) : ∃ b, (d.giveCore m n).core k = { d.core k with parked := b } := by
  unfold Dev.giveCore Dev.modCore
  rw [Dev.core_setCore]
  split
  · next h =>
    subst h
    rw [Dev.core_setCore]
    split
    · next h => subst h; exact ⟨false, rfl⟩
    · exact ⟨false, rfl⟩
  · rw [Dev.core_setCore]
    split
    · next h => subst h; exact ⟨true, rfl⟩
    · exact ⟨_, rfl⟩

theorem Dev.endRun_core (d : Dev) (k : Nat) :
    ∃ b, (d.endRun k).core k = { d.core k with run := .ended, bundle := [], parked := b } := by
  have hmod : (d.modCore k fun c => { c with run := .ended, bundle := [] }).core k =
      { d.core k with run := .ended, bundle := [] } := by
    rw [Dev.modCore, Dev.core_setCore_same]
  unfold Dev.endRun Dev.switchFrom
  split
  · exact ⟨_, hmod⟩
  · split
    · next m _ _ =>
      obtain ⟨b, hb⟩ := Dev.giveCore_core (d.modCore k fun c => { c with run := .ended, bundle := [] }) m k k
      exact ⟨b, by rw [hb, hmod]⟩
    · exact ⟨_, hmod⟩

theorem Core.monitorReport_eq (c : Core) (e : Exc) :
    ∃ r l, c.monitorReport e = { c with report := r, reports := l } := by
  unfold Core.monitorReport
  dsimp only
  split
  · split <;> exact ⟨_, _, rfl⟩
  · exact ⟨_, _, if_neg (by decide)⟩

/-- What statements say of the core of a run that the monitor ended. -/
structure Core.RunEnded (c c' : Core) : Prop where
  run : c'.run = .ended
  saved : c'.epc = c.epc ∧ c'.ecause = c.ecause ∧ c'.eval = c.eval ∧ c'.estat = c.estat ∧
    c'.eseal = c.eseal ∧ c'.ps = c.ps
  kept : c'.gr = c.gr ∧ c'.acc = c.acc ∧ c'.shadow = c.shadow

theorem Dev.runEnded_monitorEnds (d : Dev) (P : PageOps) {k : Nat} (hk : k < 64) (e : Exc) :
    (d.core k).RunEnded ((d.monitorEnds P k e).core k) := by
  have hdrain := d.released_drain P hk
  obtain ⟨r, l, hr⟩ := ((d.drain P k).core k).monitorReport_eq e
  obtain ⟨b, hb⟩ := Dev.endRun_core ((d.drain P k).modCore k fun c =>
    { c.monitorReport e with fetchPoison := c.fetchPoison || e.fetchPoison }) k
  unfold Dev.monitorEnds
  rw [hb, Dev.modCore, Dev.core_setCore_same, hr, hdrain]
  exact ⟨rfl, ⟨rfl, rfl, rfl, rfl, rfl, rfl⟩, rfl, rfl, rfl⟩

theorem Core.RunEnded.withRun {c e : Core} (h : c.RunEnded e) {r : RunSt} (hr : r = .ended) :
    c.RunEnded { e with run := r } :=
  ⟨hr, h.saved, h.kept⟩

theorem Core.RunEnded.of_run {c e : Core} {r : RunSt} (h : ({ c with run := r } : Core).RunEnded e) : c.RunEnded e :=
  ⟨h.run, h.saved, h.kept⟩

/-- What follows a command does not begin an ended run again. -/
theorem Core.RunEnded.settle {c : Core} {d : Dev} {k : Nat} (h : c.RunEnded (d.core k)) : c.RunEnded (d.settle.core k) := by
  have hended : (d.settle.core k).run = .ended := by
    rcases d.quiet_settle.run k with hr | ⟨hr, _⟩
    · rw [hr, h.run]
    · rw [h.run] at hr
      cases hr
  rw [d.settle_core k]
  exact h.withRun hended

/-! ### The command -/

theorem State.Stands.own_midway {s : State} {x : Ctx} {i : Instr} (h : s.Stands x i)
    (hcount : ∀ c, prefixCount c i = none) :
    (s.own x i).midway = none := by
  rw [h.kin]
  exact Core.atPlace_plain _ _ hcount

/-- The effects of a bundle of one syllable, as it issues. -/
theorem State.Stands.effects {s : State} {x : Ctx} {i : Instr} (h : s.Stands x i) :
    (s.atIssue x i).effects PageOps.real (s.single x i) = [s.effect x i] := by
  obtain ⟨lb, hlb⟩ := (s.own x i).issuing_eq
  have hsteps : (s.own x i).issuing.steps = (s.at x).steps := by
    obtain ⟨m, w, wr, ov, t, tf, ds, cl, ho⟩ := h.own_eq
    rw [hlb, ho]
  unfold State.atIssue Dev.effects State.effect State.reading State.single State.place Issue.place
  simp only [Dev.ahead_core, Dev.core_setCore_same, List.map_cons, List.map_nil, Syl.ofInstr, List.head?_cons,
    Option.map_some, Option.getD_some, hsteps]

theorem Core.readsBad_withBuf (c : Core) (lb : LoopBuf) (l : List Syl) :
    ({ c with loopBuf := lb } : Core).readsBad l = c.readsBad l := rfl

/-- What one syllable's effect leads to where it raises an exception. -/
theorem State.Stands.raises {s : State} {x : Ctx} {i : Instr} (h : s.Stands x i) (p : s.Plain x i) {e : Exc}
    (hexc : (s.effect x i).exc = some e) (hmet : (s.effect x i).met = none) :
    s.dev.syllable PageOps.real x i =
      (s.atIssue x i).takeException PageOps.real x.core.val (s.at x).fetch.toNat 1 0 (wordOf i) e (s.single x i).pen := by
  have hbad : ((s.atIssue x i).core (s.single x i).core).readsBad (s.single x i).syls = false := by
    obtain ⟨lb, hlb⟩ := (s.own x i).issuing_eq
    rw [show (s.single x i).core = x.core.val from rfl, show (s.single x i).syls = [Syl.ofInstr i] from rfl, s.atIssue_core,
      hlb, Core.readsBad_withBuf]
    exact h.sound
  have hissue : (s.atIssue x i).issue PageOps.real (s.single x i) = .exc (s.atIssue x i) 0 (wordOf i) e := by
    unfold Dev.issue
    rw [if_neg (by rw [hbad]; decide), h.effects]
    simp only [show (s.single x i).syls = [Syl.ofInstr i] from rfl, List.zip_cons_cons, List.zip_nil_right,
      List.zipIdx_cons, List.zipIdx_nil, List.find?_cons, hexc, hmet, Option.isSome_some, Bool.true_or]
    rfl
  unfold State.atIssue at hissue ⊢
  rw [h.issue p.ctx p.coded ⟨p.noRep, p.noLong⟩ p.noCount p.allowed, hissue]

theorem State.Stands.midway_atIssue {s : State} {x : Ctx} {i : Instr} (h : s.Stands x i) (p : s.Plain x i) :
    ((s.atIssue x i).core x.core.val).midway = none := by
  obtain ⟨lb, hlb⟩ := (s.own x i).issuing_eq
  rw [s.atIssue_core, hlb]
  exact h.own_midway p.noCount

/-- The core after an entry, in the terms of statements. -/
theorem Core.Same.entry {c : Core} {d : Dev} {k : Nat} (h : c.Same (d.core k)) (hmid : (d.core k).midway = none)
    (cause : BitVec 8) (detail : BitVec 15) (ev : DW) (level : BitVec 2) (pen : Nat) :
    (c.entered 1#3 0#3 (ecauseOf cause detail) ev level (d.vector k level.toNat)).Same
      (d.entry k c.fetch.toNat 1 ⟨cause.toNat, some ev, detail.toNat⟩ ev level.toNat pen) := by
  rw [← causeWord_eq cause (some ev) detail]
  exact h.entered hmid 1#3 _ ev level _ _ _

theorem Core.RunEnded.of_same {c e g : Core} (h : c.Same e) (k : e.RunEnded g) : c.RunEnded g := by
  obtain ⟨hrun, hsaved, hkept⟩ := k
  rw [h] at hsaved hkept
  exact ⟨hrun, hsaved, hkept⟩

theorem Ends.of {s : State} {x : Ctx} {i : Instr} {f : Dev → Dev} {P : Core → Prop} (h : exec i s = .next (s.onDev f))
    (hp : P ((f s.dev).core x.core.val)) : Ends s x i P := ⟨s.onDev f, h, rfl, hp⟩

/-- What a command that raises an exception leads to: the core's entry, and the end of a slot's run that enters at M. -/
theorem State.Plain.takes {s : State} {x : Ctx} {i : Instr} (p : s.Plain x i) (h : s.Stands x i) {cause : BitVec 8}
    {detail : BitVec 15} {ev : DW} (he : s.effect x i = Eff.raise cause.toNat (some ev) detail.toNat)
    (h4 : cause.toNat ≠ 0x04) (hd : cause.toNat ≠ 0x0D) (level : BitVec 2)
    (hlevel : excLevel ((s.atIssue x i).core x.core.val) x.core.val ⟨cause.toNat, some ev, detail.toNat⟩ = level.toNat) :
    ∃ (c : Core) (hb : Held), hb.outs = [] ∧
      ((s.at x).entered 1#3 0#3 (ecauseOf cause detail) ev level ((s.atIssue x i).vector x.core.val level.toNat)).Same c ∧
      s.dev.syllable PageOps.real x i =
        if x.core.val < 64 && level.toNat = 3 then
          ((s.atIssue x i).heldAs x.core.val c hb).monitorEnds PageOps.real x.core.val ⟨cause.toNat, some ev, detail.toNat⟩
        else (s.atIssue x i).heldAs x.core.val c hb := by
  obtain ⟨hb, hout, htakes⟩ := (s.atIssue x i).takeException_first PageOps.real x.core.val (s.at x).fetch.toNat 1 (wordOf i)
    (ev := ev) (e := ⟨cause.toNat, some ev, detail.toNat⟩) (s.single x i).pen level.toNat rfl h4 hd hlevel
  refine ⟨_, hb, hout, h.same_atIssue.entry (h.midway_atIssue p) cause detail ev level (s.single x i).pen, ?_⟩
  rw [h.raises p (e := ⟨cause.toNat, some ev, detail.toNat⟩) (by rw [he]; rfl) (by rw [he]; rfl)]
  exact htakes

/-- An exception taken at S, or by a control core (R205, R219). -/
theorem State.Plain.raises_below {s : State} {x : Ctx} {i : Instr} (p : s.Plain x i) (h : s.Stands x i) {cause : BitVec 8}
    {detail : BitVec 15} {ev : DW} (he : s.effect x i = Eff.raise cause.toNat (some ev) detail.toNat)
    (h4 : cause.toNat ≠ 0x04) (hd : cause.toNat ≠ 0x0D) (level : BitVec 2)
    (hlevel : excLevel ((s.atIssue x i).core x.core.val) x.core.val ⟨cause.toNat, some ev, detail.toNat⟩ = level.toNat)
    (hstays : ¬(x.core.val < 64 ∧ level.toNat = 3)) :
    RunsOn s x i (s.ready x i) [] ((s.at x).entered 1#3 0#3 (ecauseOf cause detail) ev level
      ((s.atIssue x i).vector x.core.val level.toNat)).Same := by
  obtain ⟨c, hb, hout, hentry, htakes⟩ := p.takes h he h4 hd level hlevel
  rw [if_neg (by simpa using hstays)] at htakes
  obtain ⟨excess, count, hq⟩ := (s.atIssue x i).quiet_hold x.core.val c hb
  refine p.runsOn c hb excess count hout ?_ hentry
  rw [htakes]
  exact hq

/-- An exception taken at M of a slot, where the monitor ends the run (R205, R214). -/
theorem State.Plain.raises_monitor {s : State} {x : Ctx} {i : Instr} (p : s.Plain x i) (h : s.Stands x i) {cause : BitVec 8}
    {detail : BitVec 15} {ev : DW} (he : s.effect x i = Eff.raise cause.toNat (some ev) detail.toNat)
    (h4 : cause.toNat ≠ 0x04) (hd : cause.toNat ≠ 0x0D) (hk : x.core.val < 64)
    (hlevel : excLevel ((s.atIssue x i).core x.core.val) x.core.val ⟨cause.toNat, some ev, detail.toNat⟩ = 3) :
    Ends s x i ((s.at x).entered 1#3 0#3 (ecauseOf cause detail) ev 3#2 monitorEntry).RunEnded := by
  obtain ⟨c, hb, -, hentry, htakes⟩ := p.takes h he h4 hd 3#2 hlevel
  rw [if_pos (by simp [hk])] at htakes
  rw [show (3#2).toNat = 3 from rfl, Dev.vector_monitor _ hk] at hentry
  obtain ⟨r, hr⟩ := (s.atIssue x i).heldAs_core x.core.val c hb
  have hended := ((s.atIssue x i).heldAs x.core.val c hb).runEnded_monitorEnds PageOps.real hk
    ⟨cause.toNat, some ev, detail.toNat⟩
  rw [hr, ← htakes] at hended
  exact Ends.of p.runs (Core.RunEnded.settle (.of_same hentry (.of_run hended)))

/-- A syllable alone in its bundle that raises an exception is taken where R205 takes it. -/
theorem State.Plain.raises {s : State} {x : Ctx} {i : Instr} (p : s.Plain x i) {cause : BitVec 8} {detail : BitVec 15}
    {ev : DW} (he : s.Stands x i → s.effect x i = Eff.raise cause.toNat (some ev) detail.toNat)
    (h4 : cause.toNat ≠ 0x04) (hd : cause.toNat ≠ 0x0D) : Raises s x i cause detail ev := by
  intro h
  have hpriv : ((s.atIssue x i).core x.core.val).priv = (s.at x).priv := by
    rw [h.same_atIssue]
    rfl
  have hhandler : (s.atIssue x i).handlerOf x.core.val = (s.ready x i).handlerOf x.core.val := rfl
  refine ⟨fun hk hp => ?_, fun hk hp => ?_, fun hk => ?_⟩
  · have hlevel := excLevel_user hk (hpriv.trans hp) (e := ⟨cause.toNat, some ev, detail.toNat⟩) h4
      (by simp [Exc.fetchPoison, hd])
    have hrun := p.raises_below h (he h) h4 hd 1#2 hlevel (by simp)
    rwa [show (1#2).toNat = 1 from rfl, Dev.vector_user _ hk, hhandler] at hrun
  · have hlevel := excLevel_above hk (hpriv ▸ hp) (e := ⟨cause.toNat, some ev, detail.toNat⟩) h4
    obtain ⟨t, hexec, hpend, hrun, ⟨h1, h2, h3, h4, h5, h6⟩, hkept⟩ := p.raises_monitor h (he h) h4 hd hk hlevel
    exact ⟨t, hexec, hpend, hrun, h1, h2, h3, h4, h5, h6, hkept⟩
  · have hlevel := excLevel_ctrl ((s.atIssue x i).core x.core.val) hk ⟨cause.toNat, some ev, detail.toNat⟩
    have hrun := p.raises_below h (he h) h4 hd 3#2 hlevel (by omega)
    rwa [show (3#2).toNat = 3 from rfl, Dev.vector_ctrl _ hk, hhandler] at hrun

end Sys2Proof.Machine
end

section
/-! LOOP by the depth of loops and the count, and a NOP at the end of a body (R115, R116). -/

namespace Sys2Proof.Machine

/-! ### LOOP (R115) -/

/-- The count that LOOP takes. -/
def loopTimes (c : Core) : LoopCount → DW
  | .imm k => k.setWidth 28 + 1#28
  | .reg r => c.d r

theorem toNat_loopTimes_imm (c : Core) (k : BitVec 8) : (loopTimes c (.imm k)).toNat = k.toNat + 1 := by
  have hk := k.isLt
  unfold loopTimes
  rw [BitVec.toNat_add, BitVec.toNat_setWidth]
  simp
  omega

theorem effLoop_full {c : Core} (h : c.ld = 2) (x : Place) (first : DW) (count : LoopCount) (e : BitVec 7) :
    effLoop c x first count e = Eff.raise 0x02 (some first) 0 := if_pos h

theorem effLoop_counted {c : Core} (h : c.ld ≠ 2) (x : Place) (first : DW) (count : LoopCount) (e : BitVec 7) :
    effLoop c x first count e =
      if (loopTimes c count).toNat = 0 then Eff.act [.jump (x.next + e.setWidth 28 + 1) false]
      else Eff.act [.loop (loopTimes c count).toNat x.next (x.next + e.setWidth 28)] := by
  unfold effLoop
  rw [if_neg h]
  cases count with
  | imm k => rw [toNat_loopTimes_imm]
  | reg r => rfl

theorem State.place_next (s : State) (x : Ctx) (i : Instr) : (s.place x i).next = (s.at x).fetch + 1 := fetch_next _

theorem State.Stands.effect_loop {s : State} {x : Ctx} {count : LoopCount} {e : BitVec 7}
    (h : s.Stands x (.loop x count e)) :
    s.effect x (.loop x count e) = effLoop (s.at x) (s.place x (.loop x count e)) (wordOf (.loop x count e)) count e := by
  obtain ⟨lb, m, w, wr, ov, t, tf, ds, cl, he⟩ := h.reading_eq
  unfold State.effect
  rw [he]
  cases count <;> rfl

theorem loop_raises (s : State) (x : Ctx) (count : LoopCount) (e : BitVec 7) (h : (s.at x).ld = 2) :
    Raises s x (.loop x count e) 0x02#8 0#15 (wordOf (.loop x count e)) :=
  (s.plain_loop x count e).raises (fun hs => hs.effect_loop.trans (effLoop_full h _ _ _ _)) (by decide) (by decide)

/-- A count of 0 passes the body by. -/
theorem loop_skips (s : State) (x : Ctx) (count : LoopCount) (e : BitVec 7) {n : DW} (hn : n = loopTimes (s.at x) count)
    (h : (s.at x).ld ≤ 1) (h0 : n = 0#28) :
    Leaves s x (.loop x count e) { s.at x with fetch := (s.at x).fetch + 1#28 + e.setWidth 28 + 1#28 } := by
  intro hs
  refine (s.plain_loop x count e).acts (actsOn_jump _ false) hs ?_
  rw [hs.effect_loop, effLoop_counted (by omega), if_pos (by rw [← hn, h0]; rfl), s.place_next]
  rfl

/-- The last syllable of a loop's body lies behind the bundle of LOOP, also across the end of the address space. -/
theorem loopEnd_ne_fetch (a : DW) (e : BitVec 7) : (a + 1#28 + e.setWidth 28).toNat ≠ a.toNat := by
  have he := e.isLt
  rw [BitVec.toNat_add, BitVec.toNat_add, BitVec.toNat_setWidth]
  simp
  omega

theorem Core.startLoop_place (c : Core) (n : Nat) (ls le : DW) :
    (c.startLoop n ls le).fetch = c.fetch ∧ (c.startLoop n ls le).le = le := by
  by_cases hl : c.ld = 1
  · obtain ⟨lb, hc⟩ := Core.startLoop_nested hl n ls le
    rw [hc]
    exact ⟨rfl, rfl⟩
  · obtain ⟨lb, hc⟩ := Core.startLoop_single hl n ls le
    rw [hc]
    exact ⟨rfl, rfl⟩

/-- Any other count starts a loop, which does not end with the bundle of LOOP itself. -/
theorem loop_begins (s : State) (x : Ctx) (count : LoopCount) (e : BitVec 7) (h : (s.at x).ld ≠ 2)
    (h0 : loopTimes (s.at x) count ≠ 0#28) :
    Leaves s x (.loop x count e)
      { (s.at x).startLoop (loopTimes (s.at x) count).toNat ((s.at x).fetch + 1#28)
          ((s.at x).fetch + 1#28 + e.setWidth 28) with
        fetch := (s.at x).fetch + 1 } := by
  intro hs
  have hn : (loopTimes (s.at x) count).toNat ≠ 0 := fun h' => h0 (BitVec.eq_of_toNat_eq h')
  have hrun := (s.plain_loop x count e).acts (actsOn_loop (loopTimes (s.at x) count).toNat ((s.at x).fetch + 1#28)
    ((s.at x).fetch + 1#28 + e.setWidth 28)) hs (by
      rw [hs.effect_loop, effLoop_counted h, if_neg hn, s.place_next]; rfl)
  obtain ⟨hfetch, hle⟩ := (s.at x).startLoop_place (loopTimes (s.at x) count).toNat ((s.at x).fetch + 1#28)
    ((s.at x).fetch + 1#28 + e.setWidth 28)
  have hgoes := Core.departed_on (.inr (by rw [hfetch, hle]; exact loopEnd_ne_fetch _ e))
  rw [hfetch] at hgoes
  rwa [show goesOf [.loop _ _ _] = .on from rfl, hgoes] at hrun

/-- The loop buffer of a core that a statement names does not matter. -/
theorem Leaves.withBuf {s : State} {x : Ctx} {i : Instr} {c : Core} {lb : LoopBuf}
    (h : Leaves s x i { c with loopBuf := lb }) : Leaves s x i c := h

theorem loop_starts (s : State) (x : Ctx) (count : LoopCount) (e : BitVec 7) {n : DW} (hn : n = loopTimes (s.at x) count)
    (h : (s.at x).ld = 0) (h0 : n ≠ 0#28) :
    Leaves s x (.loop x count e)
      { s.at x with
        lc := n, ls := (s.at x).fetch + 1#28, le := (s.at x).fetch + 1#28 + e.setWidth 28
        ps := psLd (s.at x).ps 1#2, fetch := (s.at x).fetch + 1 } := by
  subst hn
  have hbegins := loop_begins s x count e (by omega) h0
  obtain ⟨lb, hc⟩ := Core.startLoop_single (c := s.at x) (by omega) (loopTimes (s.at x) count).toNat
    ((s.at x).fetch + 1#28) ((s.at x).fetch + 1#28 + e.setWidth 28)
  rw [hc, (s.at x).ps_add_eq_psLd 1#2 (by rw [h]; rfl), BitVec.ofNat_toNat, BitVec.setWidth_eq] at hbegins
  exact hbegins.withBuf

theorem loop_nests (s : State) (x : Ctx) (count : LoopCount) (e : BitVec 7) {n : DW} (hn : n = loopTimes (s.at x) count)
    (h : (s.at x).ld = 1) (h0 : n ≠ 0#28) :
    Leaves s x (.loop x count e)
      { s.at x with
        lc := n, ls := (s.at x).fetch + 1#28, le := (s.at x).fetch + 1#28 + e.setWidth 28
        lc1 := (s.at x).lc, ls1 := (s.at x).ls, le1 := (s.at x).le
        ps := psLd (s.at x).ps 2#2, fetch := (s.at x).fetch + 1 } := by
  subst hn
  have hbegins := loop_begins s x count e (by omega) h0
  obtain ⟨lb, hc⟩ := Core.startLoop_nested h (loopTimes (s.at x) count).toNat ((s.at x).fetch + 1#28)
    ((s.at x).fetch + 1#28 + e.setWidth 28)
  rw [hc, (s.at x).ps_add_eq_psLd 2#2 (by rw [h]; rfl), BitVec.ofNat_toNat, BitVec.setWidth_eq] at hbegins
  exact hbegins.withBuf

/-- NOP at the end of the innermost loop (R116). -/
theorem nop_iterates (s : State) (x : Ctx) (hld : (s.at x).ld = 1 ∨ (s.at x).ld = 2)
    (hle : (s.at x).le.toNat = (s.at x).fetch.toNat) (h : s.Stands x (.nop x)) :
    ∃ c1, (s.at x).Iterated ((s.at x).fetch + 1) c1 ∧ RunsOn s x (.nop x) (s.ready x (.nop x)) [] fun c' =>
      c1.Same c' ∧ (s.own x (.nop x)).Idle c' := by
  have hrun := (s.plain_nop x).acts actsOn_nil h h.effect_nop
  refine ⟨_, Core.iterated_loopEnd _ hld hle, ?_⟩
  rw [← fetch_next]
  exact hrun

/-- Settles O17, by the depth of loops and the count; a NOP at LE ends one iteration of a loop, or passes to its outer one. -/
theorem loops : Obligations.Loops := by
  intro s x count e
  have hn : (match count with | .imm k => k.setWidth 28 + 1#28 | .reg r => (s.at x).d r) = loopTimes (s.at x) count := by
    cases count <;> rfl
  exact ⟨loop_raises s x count e, loop_skips s x count e hn, loop_starts s x count e hn, loop_nests s x count e hn,
    (s.plain_nop x).passes State.Stands.effect_nop, nop_iterates s x⟩

end Sys2Proof.Machine
end

section
/-! Shifts and rotates (R140): what the ALU computes for a count is the row of the table. -/

namespace Sys2Proof.Machine

/-! ### The rows of the table -/

variable {w : Nat} {a r : BitVec w} {n : Nat} {c : Option Bool}

/-- LSL and LSR agree where their shifted word sh and the bit last shifted out do: at n = w the word is 0. -/
theorem logicalShift_of_row {sh : BitVec w} {bit last : Bool} (hzero : n = 0 → r = a ∧ c = none)
    (hshort : 1 ≤ n ∧ n ≤ w - 1 → r = sh ∧ c = some bit) (hwidth : n = w → r = 0#w ∧ c = some last)
    (hlong : w < n → r = 0#w ∧ c = some false) (hfull : n = w → sh = 0#w ∧ bit = last) :
    (if n = 0 then shiftOut a none else if n ≤ w then shiftOut sh (some bit) else shiftOut 0#w (some false)) =
      shiftOut r c := by
  split
  · next hn =>
    obtain ⟨rfl, rfl⟩ := hzero hn
    rfl
  · split
    · next hn hle =>
      rcases Nat.lt_or_eq_of_le hle with hlt | heq
      · obtain ⟨rfl, rfl⟩ := hshort (by omega)
        rfl
      · obtain ⟨rfl, rfl⟩ := hwidth heq
        obtain ⟨rfl, rfl⟩ := hfull heq
        rfl
    · next hn hle =>
      obtain ⟨rfl, rfl⟩ := hlong (by omega)
      rfl

theorem shiftLeft_of_row (h : LslRow a n r c) : shiftLeft a n = shiftOut r c := by
  obtain ⟨hzero, hshort, hwidth, hlong⟩ := h
  refine logicalShift_of_row hzero hshort hwidth hlong ?_
  rintro rfl
  exact ⟨BitVec.shiftLeft_eq_zero (Nat.le_refl _), by rw [Nat.sub_self]⟩

theorem shiftRight_of_row (h : LsrRow a n r c) : shiftRight a n = shiftOut r c := by
  obtain ⟨hzero, hshort, hwidth, hlong⟩ := h
  refine logicalShift_of_row hzero hshort hwidth hlong ?_
  rintro rfl
  exact ⟨BitVec.ushiftRight_eq_zero (Nat.le_refl _), rfl⟩

/-- The word whose every bit is the sign of a. -/
theorem eq_signFill (h : ∀ i, i < w → r.getLsbD i = a.getLsbD (w - 1)) :
    r = if a.msb then BitVec.allOnes w else 0#w := by
  apply BitVec.eq_of_getLsbD_eq
  intro i hi
  rw [h i hi, ← BitVec.msb_eq_getLsbD_last]
  cases a.msb
  · simp
  · simp [hi]

theorem shiftArith_of_row (h : AsrRow a n r c) : shiftArith a n = shiftOut r c := by
  obtain ⟨hzero, hshort, hlong⟩ := h
  unfold shiftArith
  split
  · next hn =>
    obtain ⟨rfl, rfl⟩ := hzero hn
    rfl
  · split
    · obtain ⟨rfl, rfl⟩ := hshort (by omega)
      rfl
    · obtain ⟨hr, rfl⟩ := hlong (by omega)
      rw [eq_signFill hr, BitVec.msb_eq_getLsbD_last]

/-- A rotate by k to the word t, whose bit `bit` is C. -/
theorem rotate_of_row {k : Nat} {t : BitVec w} {bit : BitVec w → Bool}
    (h : (k = 0 → r = a ∧ c = none) ∧ (k ≠ 0 → r = t ∧ c = some (bit r))) :
    (if k = 0 then shiftOut a none else shiftOut t (some (bit t))) = shiftOut r c := by
  obtain ⟨hzero, hturn⟩ := h
  split
  · next hk =>
    obtain ⟨rfl, rfl⟩ := hzero hk
    rfl
  · next hk =>
    obtain ⟨rfl, rfl⟩ := hturn hk
    rfl

theorem rotRight_of_row (h : RorRow a n r c) : rotRight a n = shiftOut r c := by
  unfold RorRow at h
  rw [BitVec.rotateRight_def, Nat.mod_mod, ← BitVec.msb_eq_getLsbD_last] at h
  exact rotate_of_row h

theorem rotLeft_of_row (h : RolRow a n r c) : rotLeft a n = shiftOut r c := by
  unfold RolRow at h
  rw [BitVec.rotateLeft_def, Nat.mod_mod] at h
  exact rotate_of_row (bit := (·.getLsbD 0)) h

theorem toNat_countField {w : Nat} (v : BitVec w) : (v.extractLsb' 0 6).toNat = countOf v := by
  rw [BitVec.extractLsb'_toNat, Nat.shiftRight_zero]
  rfl

end Sys2Proof.Machine
end

section
/-! The syllables that shift and rotate (R136 to R138). -/

namespace Sys2Proof.Machine

/-- A shift or rotate of a DW writes the row's result. -/
theorem State.Plain.shifts {s : State} {x : Ctx} {i : Instr} (p : s.Plain x i) {d : BitVec 5} {o : AluOut 28} {r : DW}
    {c : Option Bool} (he : s.Stands x i → s.effect x i = Eff.alu d o) (ho : o = shiftOut r c) :
    Puts s x i d r c (some false) := by
  subst ho
  exact p.puts he rfl rfl rfl

/-- A shift or rotate of a W writes the row's result. -/
theorem State.Plain.shiftsHalf {s : State} {x : Ctx} {i : Instr} (p : s.Plain x i) {d : Half} {o : AluOut 14} {r : W}
    {c : Option Bool} (he : s.Stands x i → s.effect x i = Eff.aluW d o) (ho : o = shiftOut r c) :
    PutsHalf s x i d r c (some false) := by
  subst ho
  exact p.putsHalf he rfl rfl rfl

/-- Settles O9: every form computes one of the five rows, for the count in bits [5:0] of a register, an immediate or a half. -/
theorem shiftsAndRotates : Obligations.ShiftsAndRotates := by
  intro s x d a b imm r c hd ha hb rh
  have hcount : shiftCount ((s.at x).d b) = countOf ((s.at x).d b) := toNat_countField _
  have hcountW : shiftCountW ((s.at x).half hb) = countOf ((s.at x).half hb) := toNat_countField _
  dsimp only
  rw [← hcount, ← hcountW]
  exact ⟨fun h => (s.plain_lsl x d a b).shifts State.Stands.effect_lsl (shiftLeft_of_row h),
    fun h => (s.plain_lsr x d a b).shifts State.Stands.effect_lsr (shiftRight_of_row h),
    fun h => (s.plain_asr x d a b).shifts State.Stands.effect_asr (shiftArith_of_row h),
    fun h => (s.plain_ror x d a b).shifts State.Stands.effect_ror (rotRight_of_row h),
    fun h => (s.plain_rol x d a b).shifts State.Stands.effect_rol (rotLeft_of_row h),
    fun h => (s.plain_lsli x d a imm).shifts State.Stands.effect_lsli (shiftLeft_of_row h),
    fun h => (s.plain_lsri x d a imm).shifts State.Stands.effect_lsri (shiftRight_of_row h),
    fun h => (s.plain_asri x d a imm).shifts State.Stands.effect_asri (shiftArith_of_row h),
    fun h => (s.plain_rori x d a imm).shifts State.Stands.effect_rori (rotRight_of_row h),
    fun h => (s.plain_roli x d a imm).shifts State.Stands.effect_roli (rotLeft_of_row h),
    fun h => (s.plain_lslw x hd ha hb).shiftsHalf State.Stands.effect_lslw (shiftLeft_of_row h),
    fun h => (s.plain_lsrw x hd ha hb).shiftsHalf State.Stands.effect_lsrw (shiftRight_of_row h),
    fun h => (s.plain_asrw x hd ha hb).shiftsHalf State.Stands.effect_asrw (shiftArith_of_row h),
    fun h => (s.plain_rorw x hd ha hb).shiftsHalf State.Stands.effect_rorw (rotRight_of_row h)⟩

end Sys2Proof.Machine
end

section
/-! Products, accumulation and extraction (R143 to R145). -/

namespace Sys2Proof.Machine

/-! ### Products (R144) -/

theorem macSum_product (base a b : Int) (frac sub : Bool) :
    macSum base (product a b frac) sub = wrap 70 (base + productOf a b frac sub) := by
  unfold macSum product productOf wrap
  congr 1
  cases sub
  · cases frac <;> simp
  · cases frac <;> simp [Int.sub_eq_add_neg]

theorem macSum_zero_product (a b : Int) (frac sub : Bool) :
    macSum 0 (product a b frac) sub = wrap 70 (productOf a b frac sub) := by
  rw [macSum_product, Int.zero_add]

/-! ### Extraction (R145) -/

theorem extScale_eq_scaled (v : Int) (n : Nat) (rnd : Bool) : extScale v n rnd = scaled v n rnd := by
  unfold extScale scaled
  split
  · next hround =>
    obtain ⟨-, hn⟩ : rnd = true ∧ 1 ≤ n := by simpa using hround
    have hcast : (((v.natAbs + 2 ^ (n - 1)) / 2 ^ n : Nat) : Int) = ((v.natAbs : Int) + 2 ^ (n - 1)) / 2 ^ n := by
      rw [Int.natCast_ediv, Int.natCast_add, Int.natCast_pow, Int.natCast_pow]
      rfl
    dsimp only
    rcases Int.lt_trichotomy v 0 with hv | hv | hv
    · rw [if_pos hv, hcast, Int.sign_eq_neg_one_of_neg hv, Int.neg_one_mul]
    · subst hv
      have hhalf : 2 ^ (n - 1) / 2 ^ n = 0 := Nat.div_eq_of_lt (Nat.pow_lt_pow_right (by decide) (by omega))
      rw [if_neg (by decide), Int.natAbs_zero, Nat.zero_add, hhalf, Int.sign_zero, Int.zero_mul]
      rfl
    · rw [if_neg (by omega), hcast, Int.sign_eq_one_of_pos hv, Int.one_mul]
  · rfl

theorem extract_eq (w : Nat) (v : Acc) (shift : BitVec 6) (saturate rnd : Bool) :
    extract w v shift saturate rnd =
      (extracted w v.toInt shift.toNat saturate rnd, saturate && !fits w (scaled v.toInt shift.toNat rnd)) := by
  unfold extract extracted
  dsimp only
  rw [extScale_eq_scaled, satBits_eq, outside_eq]
  cases saturate <;> rfl

theorem effExt_eq (d : BitVec 5) (acc : BitVec 2) (n : BitVec 6) (saturate rnd : Bool) (c : Core) :
    effExt d acc n saturate rnd c =
      { Eff.putD d (extracted 28 (c.a acc).toInt n.toNat saturate rnd) with
        sat := saturate && !fits 28 (scaled (c.a acc).toInt n.toNat rnd) } := by
  unfold effExt
  rw [extract_eq]

theorem effExtw_eq (d : BitVec 5) (acc : BitVec 2) (n : BitVec 6) (saturate rnd : Bool) (c : Core) :
    effExtw d acc n saturate rnd c =
      { Eff.none with
        grs := [(d.toNat, halfMask false, halfPut false (extracted 14 (c.a acc).toInt n.toNat saturate rnd))]
        sat := saturate && !fits 14 (scaled (c.a acc).toInt n.toNat rnd) } := by
  unfold effExtw
  rw [extract_eq]

/-! ### The syllables -/

/-- Settles O13: the accumulator takes base plus signed product modulo 2^70, and an extraction its scaled, narrowed value. -/
theorem multiplyAccumulateAndExtract : Obligations.MultiplyAccumulateAndExtract := by
  constructor
  · intro s x o
    refine ⟨(s.plain_mac x o).accumulates fun h => ?_, (s.plain_mpy x o).accumulates fun h => ?_,
      (s.plain_macw x o).accumulates fun h => ?_, (s.plain_mpyw x o).accumulates fun h => ?_⟩
    · rw [← macSum_product]
      exact h.effect_mac
    · rw [← macSum_zero_product]
      exact h.effect_mpy
    · rw [← macSum_product]
      exact h.effect_macw
    · rw [← macSum_zero_product]
      exact h.effect_mpyw
  · intro s x u d acc n saturate rnd
    exact ⟨(s.plain_ext x u d acc n saturate rnd).computes (fun h => h.effect_ext.trans (effExt_eq ..)) rfl rfl rfl
        (Core.grAre_one _ _ _) (Core.accAre_nil _) rfl rfl rfl,
      (s.plain_extw x u d acc n saturate rnd).computes (fun h => h.effect_extw.trans (effExtw_eq ..)) rfl rfl rfl
        (Core.grAre_mask _ _ _ _ _ (maskPut_half _ _ _)) (Core.accAre_nil _) rfl rfl rfl,
      (s.plain_clra x u acc).accumulates State.Stands.effect_clra,
      (s.plain_lda x u d acc n).accumulates State.Stands.effect_lda⟩

end Sys2Proof.Machine
end
